-- ==== Sys2Proof/Word.lean ====
section
/-! DEFINITION. The widths the manual names: bytes, 32-bit scalars, 64-bit addresses and counters. -/

namespace Sys2Proof

/-- One byte of memory (00_scope.md, Notation). -/
abbrev Byte := BitVec 8

/-- A named scalar or result-queue value (R44). -/
abbrev Word := BitVec 32

/-- An address register, a virtual address or a 64-bit counter (R44, R90, R109). -/
abbrev Addr := BitVec 64

end Sys2Proof
end

