-- ==== Sys2Proof/Config.lean ====
section
/-! DEFINITION. What an implementation fixes and the manual leaves open: constants with no body, so
that no proof can lean on a value of one. Each is named in a row of the assumption log. -/

namespace Sys2Proof.Config

/-- R439 QUERY, R460: the fused serial number of the module (log entry 10). -/
opaque serial : BitVec 64

/-- R459, R460: the version of the ROM's firmware (log entry 10). -/
opaque romVersion : BitVec 32

/-- R460: SHA-512 of the ROM (log entry 10). -/
opaque romDigest : BitVec 512

/-- R460: SHA-512 of a byte string (the published function, not restated by the manual; log entry 10). -/
opaque sha512 : List Byte → BitVec 512

/-- R460: the ECDSA P-521 signature the module makes over a byte string (log entry 10). -/
opaque ecdsaSign : List Byte → List Byte

/-- R459: whether the signature at the end of a patch image verifies under the vendor key (log entry 10). -/
opaque patchSigned : List Byte → Bool

/-- R459: the fused minimum version of a patch (log entry 10). -/
opaque patchMinimum : BitVec 32

/-- R439 QUERY, R460: the module's certificate chain (log entry 10). -/
opaque certificate : List Byte

/-- R262: whether the built-in test finds physical array row `p` of core `u` bad (log entry 10). -/
opaque arrayTestBad : (u p : Nat) → Bool

/-- The value the manual leaves open, numbered by the state's counter of such values (log entry 2). -/
opaque freeWord : Nat → BitVec 32

/-- A byte the manual leaves open, numbered by the state's counter of such values (log entry 2). -/
opaque freeByte : Nat → BitVec 8

end Sys2Proof.Config
end

