-- ==== Sys2Proof/Syntax.lean ====
section
/-! DEFINITION. The abstract syntax: one constructor of `Instr` for each row of the table of
operations and events (95_what_each_step_holds.md: "the part's steps, each whole and indivisible").
Slot instructions carry the fields of their slot's layout; host commands carry the parameters of
R439; debug operations the fields of R465; engine and core events the place where they happen. -/

namespace Sys2Proof

/-! ## Slot layouts -/

/-- The S format of R35, below the opcode. -/
structure SFields where
  dst : BitVec 5
  a : BitVec 6
  b : BitVec 6
  w : BitVec 2
  mA : BitVec 3
  mB : BitVec 3
  fA : BitVec 1
  fB : BitVec 1
  imm : BitVec 14
  deriving DecidableEq, Repr

/-- The S layouts of R37 with a 32-bit immediate or displacement. -/
structure SImm where
  dst : BitVec 5
  imm : BitVec 32
  deriving DecidableEq, Repr

/-- The V format of R39. -/
structure VFields where
  vd : BitVec 5
  va : BitVec 5
  vb : BitVec 5
  sc : BitVec 6
  q : BitVec 3
  ty : BitVec 4
  m : BitVec 3
  fA : BitVec 1
  fB : BitVec 1
  imm : BitVec 8
  deriving DecidableEq, Repr

/-- The F format of R40. -/
structure FFields where
  dst : BitVec 6
  src : BitVec 6
  ty : BitVec 4
  rnd : BitVec 3
  q : BitVec 3
  f : BitVec 1
  sr : BitVec 1
  deriving DecidableEq, Repr

/-- The M format of R41. -/
structure MFields where
  acc : BitVec 3
  row : BitVec 7
  d : BitVec 4
  stream : BitVec 4
  flags : BitVec 10
  deriving DecidableEq, Repr

/-- The L format of R42. -/
structure LFields where
  reg : BitVec 6
  base : BitVec 4
  off : BitVec 15
  ty : BitVec 4
  sbv : BitVec 1
  sbs : BitVec 3
  wait : BitVec 8
  deriving DecidableEq, Repr

/-- DLD and DST (R271). -/
structure DescMem where
  dn : BitVec 4
  am : BitVec 4
  off : BitVec 15
  deriving DecidableEq, Repr

/-- DSET with a scalar source (R272). -/
structure DSetS where
  dn : BitVec 4
  w : BitVec 4
  sp : BitVec 6
  deriving DecidableEq, Repr

/-- DSET with an address source (R272). -/
structure DSetA where
  dn : BitVec 4
  w : BitVec 4
  am : BitVec 4
  deriving DecidableEq, Repr

/-- DGET (R272). -/
structure DGetF where
  sd : BitVec 5
  dn : BitVec 4
  w : BitVec 4
  deriving DecidableEq, Repr

/-- FENCE (R108). Bit c of `cls` is the class bit of timeline code c. -/
structure FenceF where
  scope : BitVec 3
  kind : BitVec 2
  cls : BitVec 6
  deriving DecidableEq, Repr

/-- WAITTL (R110). -/
structure WaitTlF where
  scope : BitVec 3
  cls : BitVec 3
  all : BitVec 1
  target : BitVec 6
  deriving DecidableEq, Repr

/-- TLREAD (R111). -/
structure TlReadF where
  dst : BitVec 5
  cls : BitVec 3
  sel : BitVec 2
  deriving DecidableEq, Repr

/-- The tile instructions (R276). -/
structure TileF where
  hd : BitVec 5
  dD : BitVec 4
  dA : BitVec 4
  dB : BitVec 4
  stream : BitVec 4
  p : BitVec 6
  ctl : BitVec 14
  deriving DecidableEq, Repr

/-- One scalar specifier alone: FORCE by handle (R287) and TDROP (R289). -/
structure SpecF where
  h : BitVec 6
  deriving DecidableEq, Repr

/-- One descriptor alone: FORCE by region (R287). -/
structure DescF where
  dn : BitVec 4
  deriving DecidableEq, Repr

/-- TSTORE (R288). -/
structure TStoreF where
  dD : BitVec 4
  dA : BitVec 4
  deriving DecidableEq, Repr

/-- A destination and one specifier: TSTAT form 0 (R290), TQCANCEL (R410), RLSTAT (R380), JOBWAIT.rd (R412). -/
structure DstSpec where
  sd : BitVec 5
  h : BitVec 6
  deriving DecidableEq, Repr

/-- TSTAT form 1 (R290): a destination alone. -/
structure DstOnly where
  sd : BitVec 5
  deriving DecidableEq, Repr

/-- TSTAT form 2 (R290): a destination and a word number. -/
structure DstWord where
  sd : BitVec 5
  w : BitVec 4
  deriving DecidableEq, Repr

/-- CPY, byte form (R311): X is the destination's address register, Y the source's. -/
structure CpyByteF where
  ps : BitVec 5
  x : BitVec 4
  y : BitVec 4
  len : BitVec 6
  ev : BitVec 1
  deriving DecidableEq, Repr

/-- CPY, tile form (R311). -/
structure CpyTileF where
  ps : BitVec 5
  x : BitVec 4
  y : BitVec 4
  ev : BitVec 1
  deriving DecidableEq, Repr

/-- CPYG and CPYS (R314). -/
structure CpyIdxF where
  ps : BitVec 5
  dD : BitVec 4
  dA : BitVec 4
  ai : BitVec 4
  n : BitVec 6
  ev : BitVec 1
  deriving DecidableEq, Repr

/-- CPSTOR (R324). -/
structure CpStorF where
  ps : BitVec 5
  ad : BitVec 4
  al : BitVec 4
  ns : BitVec 4
  count : BitVec 6
  codec : BitVec 2
  ev : BitVec 1
  deriving DecidableEq, Repr

/-- SLEEPTO (R321). -/
structure SleepF where
  scope : BitVec 3
  c : BitVec 1
  s : BitVec 1
  time : BitVec 6
  deriving DecidableEq, Repr

/-- PMOV (R330). -/
structure PmovF where
  port : BitVec 12
  dD : BitVec 4
  dA : BitVec 4
  sc : BitVec 6
  ev : BitVec 1
  deriving DecidableEq, Repr

/-- PRD (R331). -/
structure PrdF where
  sd : BitVec 5
  port : BitVec 12
  deriving DecidableEq, Repr

/-- WALK (R349). -/
structure WalkF where
  hd : BitVec 5
  dn : BitVec 4
  aw : BitVec 4
  engine : BitVec 2
  st : BitVec 1
  ev : BitVec 1
  deriving DecidableEq, Repr

/-- BATON (R355). -/
structure BatonF where
  sd : BitVec 5
  h : BitVec 6
  k : BitVec 6
  deriving DecidableEq, Repr

/-- NSEND (R363). -/
structure NSendF where
  peer : BitVec 6
  dD : BitVec 4
  dA : BitVec 4
  ev : BitVec 1
  deriving DecidableEq, Repr

/-- NMCAST (R363). -/
structure NMcastF where
  count : BitVec 6
  al : BitVec 4
  dD : BitVec 4
  dA : BitVec 4
  ev : BitVec 1
  deriving DecidableEq, Repr

/-- RELAY (R377). -/
structure RelayF where
  hd : BitVec 5
  u : BitVec 2
  ar : BitVec 4
  ev : BitVec 1
  deriving DecidableEq, Repr

/-- HARRIVE, HWAIT and HARW (R420). -/
structure HurdleF where
  scope : BitVec 3
  sd : BitVec 5
  ah : BitVec 4
  q : BitVec 6
  off : BitVec 12
  deriving DecidableEq, Repr

/-- TQPUSH (R409). -/
structure TqPushF where
  sd : BitVec 5
  at' : BitVec 4
  q : BitVec 6
  off : BitVec 10
  deriving DecidableEq, Repr

/-- JOBWAIT form 0 (R412). -/
structure JobWaitF where
  j : BitVec 6
  scope : BitVec 3
  deriving DecidableEq, Repr

/-- EVPOST (R414). -/
structure EvPostF where
  c : BitVec 6
  v : BitVec 6
  deriving DecidableEq, Repr

/-- EVWAIT (R415). -/
structure EvWaitF where
  sd : BitVec 5
  nb : BitVec 1
  deriving DecidableEq, Repr

/-- KLAUNCH (R417). -/
structure KLaunchF where
  sd : BitVec 5
  ar : BitVec 4
  sp : BitVec 6
  deriving DecidableEq, Repr

/-- SYSCALL.emit (R448). -/
structure EmitF where
  sd : BitVec 5
  value : BitVec 6
  stream : BitVec 6
  ring : BitVec 4
  nb : BitVec 1
  deriving DecidableEq, Repr

/-- SYSCALL.flush (R448). -/
structure FlushF where
  ring : BitVec 4
  deriving DecidableEq, Repr

/-- SYSCALL.free (R448). -/
structure FreeF where
  sd : BitVec 5
  ring : BitVec 4
  deriving DecidableEq, Repr

/-- SRGEN (R424). -/
structure SrGenF where
  ak : BitVec 4
  ac : BitVec 4
  deriving DecidableEq, Repr

/-! ## Host commands (R436, R439) -/

/-- What every command carries: the ring it stands on and its tag (R436). -/
structure CmdHead where
  ring : Nat
  tag : BitVec 16
  deriving DecidableEq, Repr

/-- OPEN (R439). -/
structure OpenP where
  peerTable : Addr
  windows : Addr
  ownId : BitVec 10
  session : BitVec 3
  join : Bool
  psBus : Addr
  psLog2 : BitVec 4
  psVector : BitVec 6
  deriving DecidableEq, Repr

/-- MAP (R439, R442). -/
structure MapP where
  va : Addr
  bytes : Addr
  backing : Addr
  attr : Word
  aperture : Addr
  deriving DecidableEq, Repr

/-- UNMAP (R439). -/
structure UnmapP where
  va : Addr
  bytes : Addr
  deriving DecidableEq, Repr

/-- HOSTPAGE (R439, R453). -/
structure HostPageP where
  va : Addr
  bus : Addr
  deriving DecidableEq, Repr

/-- IMAGE and PATCH-like transfers: a device address, a bus address and a size (R439). -/
structure ImageP where
  va : Addr
  bus : Addr
  bytes : Addr
  deriving DecidableEq, Repr

/-- The launch block (R440). -/
structure LaunchP where
  image : Addr
  place : Addr
  mask : BitVec 16
  id : Word
  arg0 : Word
  arg1 : Word
  arg2 : Word
  arg3 : Word
  deriving DecidableEq, Repr

/-- GRAPH (R439). -/
structure GraphP where
  va : Addr
  start : BitVec 10
  limit : Word
  deriving DecidableEq, Repr

/-- RING (R439, R447). -/
structure RingP where
  n : BitVec 4
  log2 : BitVec 4
  bus : Addr
  count : Word
  time : Word
  vector : BitVec 6
  en : Bool
  deriving DecidableEq, Repr

/-- QPAIR (R439). -/
structure QPairP where
  qp : BitVec 6
  log2 : BitVec 4
  sqBell : Addr
  cqBell : Addr
  deriving DecidableEq, Repr

/-- NSLOT (R439, R323). -/
structure NSlotP where
  slot : BitVec 4
  nsid : Word
  lbas : BitVec 4
  maxb : BitVec 16
  qp : BitVec 6
  tq : Word
  deriving DecidableEq, Repr

/-- ATTEST (R439, R460): the nonce, low byte first, and the report's address. -/
structure AttestP where
  nonce : BitVec 256
  bus : Addr
  deriving DecidableEq, Repr

/-- QUERY (R439). -/
structure QueryP where
  item : BitVec 4
  bus : Addr
  deriving DecidableEq, Repr

/-- PATCH (R439, R459). -/
structure PatchP where
  bus : Addr
  bytes : Addr
  deriving DecidableEq, Repr

/-! ## Debug operations (R465) -/

/-- The target fields of DCMD: FILE, NUM, CLUSTER, CORE and CONTEXT (or the stage). -/
structure DbgF where
  file : BitVec 4
  num : BitVec 12
  cluster : BitVec 4
  core : BitVec 4
  context : BitVec 3
  deriving DecidableEq, Repr

/-! ## Packets from outside the module -/

/-- A tile that arrives at a Nakan port (R366): the sender, its world and reason to refuse for want
of a session, the destination tile's geometry, its bytes with the trailer's, and its scales. -/
structure TilePacket where
  port : Nat
  peer : BitVec 10
  session : Nat
  secure : Bool
  desc : BitVec 512
  p : Nat
  q : Nat
  data : List Byte
  trailer : List Byte
  scales : List Byte
  deriving DecidableEq, Repr

/-- A relay packet (R381): channel, epoch, sender, sequence number, count (R394), data and trailer. -/
structure RelayPacket where
  chan : BitVec 16
  epoch : BitVec 16
  peer : BitVec 10
  seq : Nat
  count : BitVec 16
  data : List Byte
  trailer : List Byte
  deriving DecidableEq, Repr

/-- One row of the table of operations and events each. -/
inductive Instr where
  -- S slot, integer (R145, R146)
  | add (f : SFields) | sub (f : SFields) | mul (f : SFields) | mulh (f : SFields)
  | mulhu (f : SFields) | div (f : SFields) | divu (f : SFields) | rem (f : SFields)
  | remu (f : SFields) | and (f : SFields) | or (f : SFields) | xor (f : SFields)
  | andn (f : SFields) | shl (f : SFields) | shr (f : SFields) | sra (f : SFields)
  | rot (f : SFields) | min (f : SFields) | max (f : SFields) | minu (f : SFields)
  | maxu (f : SFields) | clz (f : SFields) | popc (f : SFields) | cmpeq (f : SFields)
  | cmpne (f : SFields) | cmplt (f : SFields) | cmpltu (f : SFields) | cmple (f : SFields)
  | cmpleu (f : SFields) | sel (f : SFields) | mov (f : SFields)
  -- S slot, packed (R149, R150)
  | padd (f : SFields) | psub (f : SFields) | padds (f : SFields) | psubs (f : SFields)
  | paddsn (f : SFields) | psubsn (f : SFields) | pmul (f : SFields) | pmulh (f : SFields)
  | pmin (f : SFields) | pmax (f : SFields) | pabsd (f : SFields) | pdot (f : SFields)
  | pavg (f : SFields) | ppack (f : SFields) | pwiden (f : SFields) | pshuf (f : SFields)
  -- S slot, immediates and addresses (R151)
  | limm (f : SImm) | limmh (f : SImm) | aadd (f : SFields) | asub (f : SFields)
  | amov (f : SFields) | ajoin (f : SFields) | asplit (f : SFields) | aimm (f : SImm)
  -- S slot, floating point (R152)
  | fadd (f : SFields) | fsub (f : SFields) | fmul (f : SFields) | fmin (f : SFields)
  | fmax (f : SFields) | fcmplt (f : SFields) | fcmpeq (f : SFields) | fcvt (f : SFields)
  -- S slot, control (R153 to R165, R475)
  | br (f : SImm) | brz (f : SImm) | brnz (f : SImm) | call (f : SImm) | ret (f : SImm)
  | loop (f : SFields) | trap (f : SFields) | tret (f : SFields) | rdsys (f : SFields)
  | wrsys (f : SFields) | taddrWrite (f : SFields) | rtgtWrite (f : SFields) | rdtime (f : SFields)
  | fetest (f : SFields) | setempty (f : SFields) | laprd (f : SFields)
  -- V slot (R178 to R194)
  | vadd (f : VFields) | vsub (f : VFields) | vmul (f : VFields) | vfma (f : VFields)
  | vmin (f : VFields) | vmax (f : VFields) | vabs (f : VFields) | vneg (f : VFields)
  | vand (f : VFields) | vor (f : VFields) | vxor (f : VFields) | vshl (f : VFields)
  | vshr (f : VFields) | vsra (f : VFields) | vcmpeq (f : VFields) | vcmplt (f : VFields)
  | vcmple (f : VFields) | vsel (f : VFields) | vrsum (f : VFields) | vrmax (f : VFields)
  | vrmin (f : VFields) | vrcnt (f : VFields) | vcoal (f : VFields) | vruns (f : VFields)
  | vsplat (f : VFields) | viota (f : VFields) | vslide (f : VFields) | vscan (f : VFields)
  | vmov (f : VFields) | vext (f : VFields) | vins (f : VFields) | vlen (f : VFields)
  | vtrim (f : VFields) | vacc (f : VFields) | vaccw (f : VFields) | qset (f : VFields)
  | qfromv (f : VFields) | qmin (f : VFields) | qget (f : VFields)
  -- F slot (R196 to R208)
  | fexp (f : FFields) | fexp2 (f : FFields) | flog2 (f : FFields) | frcp (f : FFields)
  | frsq (f : FFields) | fsqrt (f : FFields) | ftanh (f : FFields) | fsigm (f : FFields)
  | fsin (f : FFields) | fcos (f : FFields) | fconv (f : FFields) | fqnt (f : FFields)
  | fdqt (f : FFields) | fcbe (f : FFields) | fcbd (f : FFields) | frnd (f : FFields)
  -- M slot (R248 to R256) and the array's events
  | mpush (f : MFields) | macc (f : MFields) | mshift (f : MFields) | mdrain (f : MFields)
  | mclr (f : MFields) | mchain (f : MFields) | mend (f : MFields)
  -- L slot (R214 to R231) and the memory events
  | ldb (f : LFields) | ldbs (f : LFields) | ldh (f : LFields) | ldhs (f : LFields)
  | ldw (f : LFields) | lda (f : LFields) | stb (f : LFields) | sth (f : LFields)
  | stw (f : LFields) | sta (f : LFields) | vld (f : LFields) | vldr (f : LFields)
  | vldb (f : LFields) | vst (f : LFields) | vstr (f : LFields) | vstb (f : LFields)
  | amoadd (f : LFields) | amomin (f : LFields) | amomax (f : LFields) | amoswp (f : LFields)
  | amocas (f : LFields) | amoand (f : LFields) | amoor (f : LFields) | amofadd (f : LFields)
  | flush (f : LFields) | inval (f : LFields) | pref (f : LFields) | tagq (f : LFields)
  | ldpeek (f : LFields)
  -- E slot, descriptors and ordering
  | dld (f : DescMem) | dst (f : DescMem) | dset (f : DSetS) | dsetA (f : DSetA) | dget (f : DGetF)
  | fence (f : FenceF) | waittl (f : WaitTlF) | tlread (f : TlReadF)
  -- E slot, tile graph
  | tmul (f : TileF) | tmac (f : TileF) | tmap (f : TileF) | tzip (f : TileF) | tred (f : TileF)
  | txpose (f : TileF) | tcvt (f : TileF) | tcopy (f : TileF) | forceHandle (f : SpecF)
  | forceRegion (f : DescF) | tstore (f : TStoreF) | tdrop (f : SpecF) | tstatNode (f : DstSpec)
  | tstatTable (f : DstOnly) | tstatDefer (f : DstWord)
  -- E slot, copies and storage
  | cpyByte (f : CpyByteF) | cpyTile (f : CpyTileF) | cpyg (f : CpyIdxF) | cpys (f : CpyIdxF)
  | cpstor (f : CpStorF) | sleepto (f : SleepF)
  -- E slot, transform units
  | pmovTranspose (f : PmovF) | pmovConvert (f : PmovF) | pmovEncode (f : PmovF)
  | pmovDecode (f : PmovF) | pmovConfig (f : PmovF) | prd (f : PrdF)
  -- E slot, walks and Nakan
  | walk (f : WalkF) | batonWait (f : BatonF) | batonGive (f : BatonF) | batonStat (f : BatonF)
  | nsend (f : NSendF) | nmcast (f : NMcastF)
  -- E slot, relays
  | relay (f : RelayF) | rlstat (f : DstSpec) | rlstatWhy (f : DstSpec)
  -- E slot, control
  | harrive (f : HurdleF) | hwait (f : HurdleF) | harw (f : HurdleF) | tqpush (f : TqPushF)
  | tqcancel (f : DstSpec) | jobwaitWait (f : JobWaitF) | jobwaitRd (f : DstSpec)
  | evpost (f : EvPostF) | evwait (f : EvWaitF) | klaunchX (f : KLaunchF) | klaunchK (f : KLaunchF)
  | klaunchR (f : KLaunchF) | syscallEmit (f : EmitF) | syscallFlush (f : FlushF)
  | syscallFree (f : FreeF) | srgen (f : SrGenF)
  -- Umostyth commands (R439)
  | openSession (h : CmdHead) (p : OpenP) | closeSession (h : CmdHead)
  | mapPages (h : CmdHead) (p : MapP) | unmapPages (h : CmdHead) (p : UnmapP)
  | hostpage (h : CmdHead) (p : HostPageP) | image (h : CmdHead) (p : ImageP)
  | launch (h : CmdHead) (p : LaunchP) | graph (h : CmdHead) (p : GraphP)
  | ringCmd (h : CmdHead) (p : RingP) | qpair (h : CmdHead) (p : QPairP)
  | nslot (h : CmdHead) (p : NSlotP) | preempt (h : CmdHead) (id : Word)
  | umostythResume (h : CmdHead) (id : Word) | attest (h : CmdHead) (p : AttestP)
  | query (h : CmdHead) (p : QueryP) | patch (h : CmdHead) (p : PatchP)
  | portreset (h : CmdHead) (port : BitVec 4) | power (h : CmdHead) (watts : Word)
  -- debug port (R466)
  | halt (f : DbgF) | debugResume (f : DbgF) | stepCtx (f : DbgF) | rdreg (f : DbgF)
  | wrreg (f : DbgF) | haltstage (f : DbgF) | runstage (f : DbgF) | setbrk (f : DbgF)
  | clrbrk (f : DbgF) | lapclr (f : DbgF)
  -- events: idle bundles (R29)
  | idle (n : BitVec 20) | idleRunEnd (key : Nat)
  -- events: V slot (R178 to R194)
  | precheckEnd (key : Nat)
  -- events: M slot (R248 to R256) and the array's events
  | mOpStart (unit : Nat) | mOpLand (unit : Nat) | drainVerdict (unit : Nat)
  | arrayRelease (unit : Nat)
  -- events: L slot (R214 to R231) and the memory events
  | accessAdmission (key : Nat) | stallBecomesBlock (key : Nat) | waiterRetry (key : Nat)
  | l1Fill (unit : Nat) (va : Addr) | storeApply (key : Nat) (i : Nat) | atomicPerform (key : Nat)
  | pageResolve (session : Nat) (va : Addr) | resultLand (key : Nat) (i : Nat)
  | fixedResultVisible (key : Nat)
  -- events: E slot, tile graph
  | demand (session : Nat) (va : Addr) | tileEvaluation (i : Nat) | tileEvaluated (i : Nat)
  | evaluationFailed (i : Nat) | deferredFaultDelivery (key : Nat)
  -- events: E slot, copies and storage
  | sleeptoDeadline (key : Nat) | copyDataPhaseStart (cluster : Nat)
  | storageSubmit (cluster : Nat)
  | nvmeCompletion (cluster : Nat) (half : Nat) (status : BitVec 15) (data : List Byte)
  | nvmeTimeout (cluster : Nat) (half : Nat) | storageLaneDecode (cluster : Nat) (codec : Nat)
  | requestDone (i : Nat)
  -- events: E slot, transform units
  | transformOpStart (cluster : Nat) (unit : Nat)
  -- events: E slot, walks and Nakan
  | loaderTile (cluster engine slot : Nat) | storerTile (cluster engine slot : Nat)
  | nakanSendTile (port : Nat) | nakanTileReceive (p : TilePacket) | nakanAck (i : Nat)
  | nakanNak (i : Nat) (refusal : BitVec 3) | nakanNoAnswer (i : Nat)
  | nakanFlitCrcFail (port : Nat)
  -- events: E slot, relays
  | relayStepStart (stack slot : Nat) | relayPacketReceive (stack : Nat) (p : RelayPacket)
  | relayBusyRetry (i : Nat) | relayPacketExpire (stack : Nat) (i : Nat) | relayNoAnswer (i : Nat)
  | stopNotice (stack : Nat) (chan epoch : BitVec 16) (peer : BitVec 10) (cause : BitVec 8)
  -- events: E slot, control
  | kernelPushing (cluster entry : Nat) | tokenRingTimeout (session ring : Nat)
  -- events: core events
  | randomWordDelivery (unit : Nat) | scheduleContext (unit : Nat) | sprintLimit (key : Nat)
  | drowsy (key : Nat) | blockClears (key : Nat) | contextDrained (key : Nat)
  | taskBind (cluster : Nat) | parkedTaskRestore (unit : Nat) | latchReplayLand (key : Nat)
  -- events: launches, failures and the clock
  | launchStart (i : Nat) | launchRetire (i : Nat) | fatalFault (i : Nat)
  | flitCrcFail (boundary : Nat) | thermalTrip | thermalThrottle (hz : Nat)
  | clockLoweringAnnounce (hz : Nat) | clockLoweringApply
  -- events: Umostyth commands
  | graphLaunchNode (ring : Nat) | graphCopyNode (ring : Nat) | graphNotifyNode (ring : Nat)
  | graphConditionalNode (ring : Nat) | graphEndNode (ring : Nat) | graphLimit (ring : Nat)
  -- events: host registers and resets
  | commandDoorbell (ring : Nat) (tail : Word) | ringReset (ring : Nat)
  | pheadWrite (ring : Nat) (v : Word) | tconsWrite (session ring : Nat) (v : Word) | moduleReset
  | functionLevelReset | conventionalReset
  | registerWrite (space : BitVec 2) (offset : Nat) (bytes : List Byte)
  -- events: debug port
  | traceSample | hostApertureAccess (offset : Nat) (write : Bool) (bytes : List Byte)
  | clockRaise (hz : Nat)
  deriving DecidableEq, Repr

end Sys2Proof
end

