-- ==== Sys2Proof/WellFormed.lean ====
section
/-! DEFINITION. The field rules of every slot instruction: what R58 calls FLDRSV when it fails. A
bundle's own rules (header, ports, double destinations) stand beside the decoder. -/

namespace Sys2Proof

/-! ## Type codes (R116, R178) -/

/-- R116: the types a V, F or L slot may name: codes 0x0 to 0xD. -/
def tyElem (t : BitVec 4) : Bool := t.toNat ≤ 13

/-- R178, class Fl, In or Na: every element type but cb4. -/
def tyArith (t : BitVec 4) : Bool := t.toNat ≤ 13 && t.toNat != 5

/-- R178, class In or Na. -/
def tyInt (t : BitVec 4) : Bool := 6 ≤ t.toNat && t.toNat ≤ 13

/-- R192, R194: fp32 or i32. -/
def tyAcc (t : BitVec 4) : Bool := t == 0 || t == 6

/-! ## S slot (R35 to R37, R142) -/

/-- R36: an f bit of 1 stands only on s1 to s31. -/
def specF (spec : BitVec 6) (f : BitVec 1) : Bool :=
  f == 0 || (1 ≤ spec.toNat && spec.toNat ≤ 31)

/-- R142: an operand column that holds 0. -/
def SFields.noA (f : SFields) : Bool := f.a == 0 && f.fA == 0
/-- R142: an operand column that holds 0. -/
def SFields.noB (f : SFields) : Bool := f.b == 0 && f.fB == 0
/-- R142: w and both modifiers 0. -/
def SFields.plain (f : SFields) : Bool := f.w == 0 && f.mA == 0 && f.mB == 0
/-- R35: imm is zero unless A or B is 63. -/
def SFields.immDef (f : SFields) : Bool := f.imm == 0 || f.a == 63 || f.b == 63

/-- R142: two specifiers, no modifiers. -/
def SFields.wf2 (f : SFields) : Bool :=
  specF f.a f.fA && specF f.b f.fB && f.plain && f.immDef
/-- R142, R53: as `wf2`, with s0 no destination. -/
def SFields.wfDiv (f : SFields) : Bool := f.wf2 && f.dst != 0
/-- R142: one specifier. -/
def SFields.wf1 (f : SFields) : Bool := specF f.a f.fA && f.noB && f.plain && f.immDef
/-- R142, SEL: mB is the condition's age. -/
def SFields.wfSel (f : SFields) : Bool :=
  specF f.a f.fA && specF f.b f.fB && f.w == 0 && f.mA == 0 && f.immDef
/-- R142, packed lanes: modifiers only with lanes. -/
def SFields.wfPack (f : SFields) : Bool :=
  specF f.a f.fA && specF f.b f.fB && (f.w != 0 || (f.mA == 0 && f.mB == 0)) && f.immDef
/-- R142, PDOT. -/
def SFields.wfPdot (f : SFields) : Bool :=
  specF f.a f.fA && specF f.b f.fB && f.w != 0 && f.immDef
/-- R142, PPACK. -/
def SFields.wfPpack (f : SFields) : Bool := f.wfPdot && f.mA == 0 && f.mB == 0
/-- R142, PWIDEN: mA the half, mB the extension. -/
def SFields.wfPwiden (f : SFields) : Bool :=
  specF f.a f.fA && f.noB && f.w != 0 && f.mA.toNat ≤ 1 && f.mB.toNat ≤ 1 && f.immDef
/-- R142, PSHUF. -/
def SFields.wfPshuf (f : SFields) : Bool := f.wfPdot && f.mB == 0
/-- R152: a type FCVT may name. -/
def fcvtType (t : BitVec 4) : Bool := t != 5 && t != 14 && t != 15
/-- R142, R152, FCVT: the conversion control. -/
def SFields.wfFcvt (f : SFields) : Bool :=
  specF f.a f.fA && f.a != 63 && f.noB && f.plain
    && fcvtType (f.imm.extractLsb' 0 4) && fcvtType (f.imm.extractLsb' 4 4)
    && (f.imm.extractLsb' 8 3).toNat ≤ 5 && f.imm.extractLsb' 12 2 == 0
/-- R37, AADD and ASUB: a[dst], a[A], specifier B. -/
def SFields.wfAadd (f : SFields) : Bool :=
  f.dst.toNat ≤ 15 && f.a.toNat ≤ 15 && specF f.b f.fB && f.plain && (f.imm == 0 || f.b == 63)
/-- R37, AMOV. -/
def SFields.wfAmov (f : SFields) : Bool :=
  f.dst.toNat ≤ 15 && f.a.toNat ≤ 15 && f.noB && f.plain && f.imm == 0
/-- R37, AJOIN. -/
def SFields.wfAjoin (f : SFields) : Bool := f.dst.toNat ≤ 15 && f.wf2
/-- R37, ASPLIT: mA[0] selects the high word. -/
def SFields.wfAsplit (f : SFields) : Bool :=
  f.a.toNat ≤ 15 && f.noB && f.w == 0 && f.mA.toNat ≤ 1 && f.mB == 0 && f.imm == 0
/-- R142, LOOP. -/
def SFields.wfLoop (f : SFields) : Bool :=
  f.dst.toNat ≤ 7 && specF f.a f.fA && f.a != 63 && f.noB && f.plain
/-- R142, TRAP: imm is the user code. -/
def SFields.wfTrap (f : SFields) : Bool := f.dst == 0 && f.noA && f.noB && f.plain
/-- R142, TRET. -/
def SFields.wfTret (f : SFields) : Bool := f.wfTrap && f.imm == 0

/-- R161, R403: the system registers an RDSYS may name; those from 0x100 are a CCC's. -/
def sysReadable (n : Nat) : Bool :=
  n ≤ 4 || (0x10 ≤ n && n ≤ 0x15) || n == 0x18 || n == 0x19 || n == 0x20 || n == 0x21
    || (0x28 ≤ n && n ≤ 0x30) || (0x100 ≤ n && n ≤ 0x13F) || n == 0x151 || n == 0x152 || n == 0x160
/-- R161, R403: the system registers that WRSYS may name and that have no row of their own. -/
def sysWritable (n : Nat) : Bool :=
  n == 0x12 || (0x100 ≤ n && n ≤ 0x11F) || n == 0x151 || n == 0x160
/-- The system register number in imm[11:0]. -/
def SFields.sysNum (f : SFields) : Nat := (f.imm.extractLsb' 0 12).toNat
/-- R142, R161, RDSYS. -/
def SFields.wfRdsys (f : SFields) : Bool :=
  f.dst != 0 && f.noA && f.noB && f.plain && f.imm.extractLsb' 12 2 == 0 && sysReadable f.sysNum
/-- R142: the fields of every WRSYS. -/
def SFields.wfWrsysAny (f : SFields) : Bool :=
  f.dst == 0 && specF f.a f.fA && f.a != 63 && f.noB && f.plain && f.imm.extractLsb' 12 2 == 0
/-- R142, R161, WRSYS. -/
def SFields.wfWrsys (f : SFields) : Bool := f.wfWrsysAny && sysWritable f.sysNum
/-- R142, R163, RDTIME. -/
def SFields.wfRdtime (f : SFields) : Bool :=
  f.noA && f.noB && f.w == 0 && f.mA.toNat ≤ 1 && f.mB == 0 && f.imm == 0
/-- R164: a register number within the file that mA selects. -/
def regInFile (file : BitVec 3) (n : Nat) : Bool :=
  match file.toNat with
  | 0 => n ≤ 31
  | 1 => n ≤ 15
  | 2 => n ≤ 31
  | _ => false
/-- R142, R164, FETEST. -/
def SFields.wfFetest (f : SFields) : Bool :=
  f.fA == 0 && f.noB && f.w == 0 && f.mB == 0 && f.imm == 0 && regInFile f.mA f.a.toNat
/-- R142, R165, SETEMPTY: s0 is reserved. -/
def SFields.wfSetempty (f : SFields) : Bool :=
  f.noA && f.noB && f.w == 0 && f.mB == 0 && f.imm == 0 && regInFile f.mA f.dst.toNat
    && (f.mA != 0 || f.dst != 0)
/-- R475, LAPRD: class, bucket, zero, slot or cause. -/
def SFields.wfLaprd (f : SFields) : Bool :=
  f.dst != 0 && f.noA && f.noB && f.plain && f.imm.extractLsb' 4 4 == 0
    && (match (f.imm.extractLsb' 12 2).toNat with
        | 0 | 1 => (f.imm.extractLsb' 8 4).toNat ≤ 8 && (f.imm.extractLsb' 0 4).toNat ≤ 9
        | 2 => f.imm.extractLsb' 8 4 == 0 && (f.imm.extractLsb' 0 4).toNat ≤ 10
        | _ => f.imm.extractLsb' 8 4 == 0 && (f.imm.extractLsb' 0 4).toNat ≤ 4)

/-- R151, LIMMH: the high half of the immediate is zero. -/
def SImm.wfLimmh (f : SImm) : Bool := f.imm.extractLsb' 16 16 == 0
/-- R37, AIMM. -/
def SImm.wfAimm (f : SImm) : Bool := f.dst.toNat ≤ 15
/-- R37, BR. -/
def SImm.wfBr (f : SImm) : Bool := f.dst == 0
/-- R37, RET. -/
def SImm.wfRet (f : SImm) : Bool := f.imm == 0

/-! ## V slot (R39, R178) -/

/-- What the va column of R178 says. -/
inductive VaKind where
  | vec | zero | acc
  deriving DecidableEq, Repr
/-- What the vd column of R178 says. -/
inductive VdKind where
  | vec | scalar | pred | acc
  deriving DecidableEq, Repr
/-- What the vb and sc columns of R178 say: v/sc, sc alone, sc other than 63, or neither. -/
inductive ScKind where
  | either | scalar | not63 | none
  deriving DecidableEq, Repr
/-- What the q column of R178 says. -/
inductive QKind where
  | any | q0 | named | source
  deriving DecidableEq, Repr

/-- m[1]: sc is broadcast in place of vb (R39). -/
def VFields.bcast (f : VFields) : Bool := f.m.getLsbD 1
/-- m[0]: the extend flag (R39). -/
def VFields.ext (f : VFields) : Bool := f.m.getLsbD 0
/-- m[2], per opcode (R178). -/
def VFields.m2 (f : VFields) : Bool := f.m.getLsbD 2

/-- R178: the field values a vd column allows. -/
def VdKind.fits (k : VdKind) (x : BitVec 5) : Bool :=
  match k with
  | .vec => true
  | .scalar => x != 0
  | .pred => decide (1 ≤ x.toNat) && decide (x.toNat ≤ 7)
  | .acc => decide (x.toNat ≤ 7)
/-- R178: the field values a va column allows. -/
def VaKind.fits (k : VaKind) (x : BitVec 5) : Bool :=
  match k with
  | .vec => true
  | .zero => x == 0
  | .acc => decide (x.toNat ≤ 7)
/-- R178: the field values a q column allows. -/
def QKind.fits (k : QKind) (x : BitVec 3) : Bool :=
  match k with
  | .any => true
  | .q0 => x == 0
  | .named => x != 0
  | .source => true

/-- One row of R178's table. -/
structure VRow where
  vd : VdKind := .vec
  va : VaKind := .vec
  sc : ScKind := .either
  q : QKind := .any
  m2 : Bool := false
  x : Bool := true
  deriving DecidableEq, Repr

/-- R178, R36: one slot's fields against its row; `tyOk` is the type class and `immUsed` says that
the opcode takes imm itself (checked beside). -/
def VFields.wfRow (f : VFields) (r : VRow) (tyOk : Bool) (immUsed : Bool := false) : Bool :=
  let reads := r.sc == .scalar || r.sc == .not63 || (r.sc == .either && f.bcast)
  let vecB := r.sc == .either && !f.bcast
  tyOk && r.vd.fits f.vd && r.va.fits f.va && r.q.fits f.q
    && (r.sc == .either || !f.bcast) && (vecB || f.vb == 0)
    && (reads || f.sc == 0) && (r.sc != .not63 || f.sc != 63)
    && (r.m2 || !f.m2) && (r.x || !f.ext)
    && (f.fA == 0 || r.va == .vec)
    && (vecB || (if reads then specF f.sc f.fB else f.fB == 0))
    && (immUsed || f.imm == 0 || (reads && f.sc == 63))

/-- R178: the group in imm[2:0] of QSET and QFROMV. -/
def VFields.wfGroup (f : VFields) : Bool := 1 ≤ f.imm.toNat && f.imm.toNat ≤ 6

/-! ## F slot (R40, R196) -/

/-- R40: src names the vector file. -/
def FFields.vec (f : FFields) : Bool := f.src.getLsbD 5
/-- R40, R36: the f bit stands only on a register with a full/empty bit; a scalar form has q = 0. -/
def FFields.wfBase (f : FFields) (rndOk : Bool) : Bool :=
  (f.f == 0 || f.src != 0) && f.rnd.toNat ≤ 5 && rndOk
/-- R196: dst and src in one file. -/
def FFields.same (f : FFields) : Bool := f.dst.getLsbD 5 == f.src.getLsbD 5
/-- R196: a predicate only on a vector form. -/
def FFields.predOk (f : FFields) : Bool := f.vec || f.q == 0
/-- R196: fp32 or bf16. -/
def FFields.ty2 (f : FFields) : Bool := f.ty == 0 || f.ty == 1
/-- R196: rnd 0 for fp32, any mode for bf16. -/
def FFields.rndBf (f : FFields) : Bool := f.ty == 1 || f.rnd == 0
/-- R196, FEXP to FLOG2 and FTANH to FCOS. -/
def FFields.wfFn (f : FFields) : Bool := f.wfBase f.rndBf && f.ty2 && f.same && f.predOk
/-- R196, FRCP and FSQRT. -/
def FFields.wfRcp (f : FFields) : Bool := f.wfBase true && f.ty2 && f.same && f.predOk
/-- R196, FCONV and FDQT. -/
def FFields.wfConv (f : FFields) : Bool := f.wfBase true && tyArith f.ty && f.same && f.predOk
/-- R196, FQNT. -/
def FFields.wfQnt (f : FFields) : Bool :=
  f.wfBase (f.rnd == 0) && (f.ty == 2 || f.ty == 4) && !f.dst.getLsbD 5 && f.predOk
/-- R196, FCBE and FCBD. -/
def FFields.wfCb (f : FFields) : Bool := f.wfBase (f.rnd == 0) && f.ty2 && f.same
/-- R196, FRND. -/
def FFields.wfRnd (f : FFields) : Bool := f.wfBase true && f.ty.toNat ≤ 4 && f.same && f.predOk

/-! ## M slot (R248) -/

/-- R248, MPUSH. -/
def MFields.wfPush (f : MFields) : Bool := f.acc == 0 && f.flags == 0
/-- R248, MACC. -/
def MFields.wfMacc (f : MFields) : Bool := f.flags.toNat ≤ 1
/-- R248, MSHIFT. -/
def MFields.wfShift (f : MFields) : Bool :=
  f.acc == 0 && f.row == 0 && f.d == 0 && f.stream == 0 && f.flags == 0
/-- R248, MDRAIN. -/
def MFields.wfDrain (f : MFields) : Bool := f.stream == 0 && f.flags.toNat ≤ 3
/-- R248, MCLR. -/
def MFields.wfClr (f : MFields) : Bool :=
  f.row == 0 && f.d == 0 && f.stream == 0 && f.flags.toNat ≤ 1
/-- R248, MCHAIN and MEND. -/
def MFields.wfChain (f : MFields) : Bool :=
  f.row == 0 && f.d == 0 && f.stream == 0 && f.flags == 0

/-! ## L slot (R42, R214) -/

/-- R214, scalar loads and stores. -/
def LFields.wfS (f : LFields) : Bool := f.reg.toNat ≤ 31 && f.ty == 0
/-- R214, LDA and STA. -/
def LFields.wfA (f : LFields) : Bool := f.reg.toNat ≤ 15 && f.ty == 0
/-- R214, vector loads and stores. -/
def LFields.wfV (f : LFields) : Bool := f.reg.toNat ≤ 31 && tyElem f.ty
/-- R214, atomics. -/
def LFields.wfAmo (f : LFields) : Bool := f.reg.toNat ≤ 31 && (f.ty == 6 || f.ty == 10)
/-- R42, R214, AMOCAS. -/
def LFields.wfCas (f : LFields) : Bool :=
  f.reg.toNat ≤ 30 && f.reg.toNat % 2 == 0 && (f.ty == 6 || f.ty == 10)
/-- R214, AMOFADD. -/
def LFields.wfFadd (f : LFields) : Bool := f.reg.toNat ≤ 31 && (f.ty == 0 || f.ty == 1)
/-- R214, FLUSH, INVAL and PREF. -/
def LFields.wfMaint (f : LFields) : Bool := f.reg == 0 && f.ty == 0
/-- R214, LDPEEK. -/
def LFields.wfPeek (f : LFields) : Bool :=
  f.reg.toNat ≤ 30 && f.reg.toNat % 2 == 0 && f.ty == 0

/-! ## E slot -/

/-- A specifier other than 63. -/
def not63 (s : BitVec 6) : Bool := s != 63
/-- R95: scope codes 6 and 7 are reserved. -/
def scopeOk (s : BitVec 3) : Bool := s.toNat ≤ 5
/-- R276, R277: the fields of one tile operation. -/
def TileF.wfTile (f : TileF) (readsB readsP ctlOk : Bool) : Bool :=
  not63 f.p && (readsB || f.dB == 0) && (readsP || f.p == 0) && ctlOk
/-- R277, TMAP: fn 0, 1, 6 and 7 take the parameter. -/
def TileF.mapTakesP (f : TileF) : Bool :=
  f.ctl == 0 || f.ctl == 1 || f.ctl == 6 || f.ctl == 7

/-- R327: what a port is. -/
inductive PortKind where
  | transpose
  | convert (unit mode : Nat) (sat : Bool)
  | encode (unit kind : Nat)
  | decode (unit : Nat)
  | config (unit reg : Nat)
  | status (block : Nat)
  | reserved
  deriving DecidableEq, Repr

/-- R327: the port map. Block 0 is the transposer, 1 and 2 the converters, 3 and 4 the codecs. -/
def portKind (port : BitVec 12) : PortKind :=
  let block := port.toNat / 0x200
  let off := port.toNat % 0x200
  if off % 8 != 0 || 5 ≤ block then .reserved
  else if off == 0x1F8 then .status block
  else match block with
    | 0 => if off == 0 then .transpose else .reserved
    | 1 | 2 =>
      if off ≤ 0x28 then .convert (block - 1) (off / 8) false
      else if 0x40 ≤ off && off ≤ 0x68 then .convert (block - 1) ((off - 0x40) / 8) true
      else .reserved
    | _ =>
      match off with
      | 0x000 => .encode (block - 3) 1
      | 0x008 => .encode (block - 3) 2
      | 0x010 => .encode (block - 3) 3
      | 0x018 => .encode (block - 3) 0
      | 0x020 => .decode (block - 3)
      | 0x100 => .config (block - 3) 0
      | 0x108 => .config (block - 3) 1
      | 0x110 => .config (block - 3) 2
      | _ => .reserved

/-- R330: the port is a transpose trigger. -/
def isTranspose (p : BitVec 12) : Bool := portKind p == .transpose
/-- R330: the port is a converter's trigger. -/
def isConvert (p : BitVec 12) : Bool := match portKind p with | .convert _ _ _ => true | _ => false
/-- R330: the port is a codec's encode trigger. -/
def isEncode (p : BitVec 12) : Bool := match portKind p with | .encode _ _ => true | _ => false
/-- R330: the port is a codec's decode trigger. -/
def isDecode (p : BitVec 12) : Bool := match portKind p with | .decode _ => true | _ => false
/-- R330: the port is a config port. -/
def isConfig (p : BitVec 12) : Bool := match portKind p with | .config _ _ => true | _ => false
/-- R331: the port is a status port. -/
def isStatus (p : BitVec 12) : Bool := match portKind p with | .status _ => true | _ => false

/-- R58 FLDRSV, R53, R142, R178, R196, R214, R248 and the E layouts: an instruction whose fields are
all legal. The steps that no word encodes are well formed as they stand. -/
def Instr.wf : Instr → Bool
  | .add f | .sub f | .mul f | .mulh f | .mulhu f => f.wf2
  | .div f | .divu f | .rem f | .remu f => f.wfDiv
  | .and f | .or f | .xor f | .andn f | .shl f | .shr f | .sra f | .rot f => f.wf2
  | .min f | .max f | .minu f | .maxu f => f.wf2
  | .clz f | .popc f | .mov f => f.wf1
  | .cmpeq f | .cmpne f | .cmplt f | .cmpltu f | .cmple f | .cmpleu f => f.wf2
  | .sel f => f.wfSel
  | .padd f | .psub f | .padds f | .psubs f | .paddsn f | .psubsn f | .pmul f | .pmulh f
  | .pmin f | .pmax f | .pabsd f | .pavg f => f.wfPack
  | .pdot f => f.wfPdot
  | .ppack f => f.wfPpack
  | .pwiden f => f.wfPwiden
  | .pshuf f => f.wfPshuf
  | .limm _ => true
  | .limmh f => f.wfLimmh
  | .aadd f | .asub f => f.wfAadd
  | .amov f => f.wfAmov
  | .ajoin f => f.wfAjoin
  | .asplit f => f.wfAsplit
  | .aimm f => f.wfAimm
  | .fadd f | .fsub f | .fmul f | .fmin f | .fmax f | .fcmplt f | .fcmpeq f => f.wf2
  | .fcvt f => f.wfFcvt
  | .br f => f.wfBr
  | .brz _ | .brnz _ | .call _ => true
  | .ret f => f.wfRet
  | .loop f => f.wfLoop
  | .trap f => f.wfTrap
  | .tret f => f.wfTret
  | .rdsys f => f.wfRdsys
  | .wrsys f => f.wfWrsys
  | .taddrWrite f => f.wfWrsysAny && f.sysNum == 0x11
  | .rtgtWrite f => f.wfWrsysAny && f.sysNum == 0x150
  | .rdtime f => f.wfRdtime
  | .fetest f => f.wfFetest
  | .setempty f => f.wfSetempty
  | .laprd f => f.wfLaprd
  | .vadd f | .vsub f | .vmul f | .vfma f => f.wfRow { m2 := true } (tyArith f.ty)
  | .vmin f | .vmax f => f.wfRow {} (tyArith f.ty)
  | .vabs f | .vneg f => f.wfRow { sc := .none, m2 := true } (tyArith f.ty)
  | .vand f | .vor f | .vxor f => f.wfRow {} (tyElem f.ty)
  | .vshl f | .vshr f | .vsra f => f.wfRow {} (tyInt f.ty)
  | .vcmpeq f | .vcmplt f | .vcmple f => f.wfRow {} (tyArith f.ty)
  | .vsel f => f.wfRow {} (tyElem f.ty)
  | .vrsum f => f.wfRow { vd := .scalar, sc := .scalar, m2 := true, x := false } (tyArith f.ty)
  | .vrmax f | .vrmin f => f.wfRow { vd := .scalar, sc := .scalar, x := false } (tyArith f.ty)
  | .vrcnt f => f.wfRow { vd := .scalar, sc := .scalar, x := false } (tyElem f.ty)
  | .vcoal f => f.wfRow { sc := .none, q := .q0, x := false } (tyElem f.ty)
  | .vruns f | .vlen f => f.wfRow { vd := .scalar, sc := .none, q := .q0, x := false } (tyElem f.ty)
  | .vsplat f => f.wfRow { va := .zero, sc := .scalar } (tyElem f.ty)
  | .viota f => f.wfRow { sc := .scalar, q := .q0, x := false } (tyInt f.ty)
  | .vslide f => f.wfRow { sc := .scalar, m2 := true } (tyElem f.ty)
  | .vscan f => f.wfRow { sc := .none, m2 := true } (tyArith f.ty)
  | .vmov f => f.wfRow { sc := .none } (tyElem f.ty)
  | .vext f => f.wfRow { vd := .scalar, sc := .scalar, q := .q0, x := false } (tyElem f.ty)
  | .vins f => f.wfRow { va := .zero, sc := .scalar, q := .named, x := false } (tyElem f.ty)
  | .vtrim f => f.wfRow { sc := .scalar, q := .q0 } (tyElem f.ty)
  | .vacc f => f.wfRow { va := .acc, sc := .scalar, q := .q0, m2 := true, x := false } (tyAcc f.ty)
  | .vaccw f => f.wfRow { vd := .acc, sc := .scalar, q := .q0 } (tyAcc f.ty)
  | .qset f =>
    f.wfRow { vd := .pred, va := .zero, sc := .not63, q := .q0, x := false } (tyElem f.ty) true
      && f.wfGroup
  | .qfromv f =>
    f.wfRow { vd := .pred, sc := .none, q := .q0, x := false } (tyElem f.ty) true && f.wfGroup
  | .qmin f => f.wfRow { vd := .pred, va := .zero, sc := .scalar, q := .source, x := false } (f.ty == 0)
  | .qget f => f.wfRow { vd := .scalar, va := .zero, sc := .none, q := .source, x := false } (f.ty == 0)
  | .fexp f | .fexp2 f | .flog2 f | .ftanh f | .fsigm f | .fsin f | .fcos f | .frsq f => f.wfFn
  | .frcp f | .fsqrt f => f.wfRcp
  | .fconv f | .fdqt f => f.wfConv
  | .fqnt f => f.wfQnt
  | .fcbe f | .fcbd f => f.wfCb
  | .frnd f => f.wfRnd
  | .mpush f => f.wfPush
  | .macc f => f.wfMacc
  | .mshift f => f.wfShift
  | .mdrain f => f.wfDrain
  | .mclr f => f.wfClr
  | .mchain f | .mend f => f.wfChain
  | .ldb f | .ldbs f | .ldh f | .ldhs f | .ldw f | .stb f | .sth f | .stw f | .tagq f => f.wfS
  | .lda f | .sta f => f.wfA
  | .vld f | .vldr f | .vldb f | .vst f | .vstr f | .vstb f => f.wfV
  | .amoadd f | .amomin f | .amomax f | .amoswp f | .amoand f | .amoor f => f.wfAmo
  | .amocas f => f.wfCas
  | .amofadd f => f.wfFadd
  | .flush f | .inval f | .pref f => f.wfMaint
  | .ldpeek f => f.wfPeek
  | .dld _ | .dst _ => true
  | .dset f => not63 f.sp
  | .dsetA f => f.w.toNat % 2 == 0
  | .dget f => f.sd != 0
  | .fence f => scopeOk f.scope && f.kind != 3 && (f.kind != 2 || f.cls == 0)
  | .waittl f => scopeOk f.scope && f.cls.toNat ≤ 5 && not63 f.target && (f.all == 0 || f.target == 0)
  | .tlread f => f.dst != 0 && f.cls.toNat ≤ 5
  | .tmul f | .tmac f => f.wfTile true false (f.ctl.toNat < 512)
  | .tmap f => f.wfTile false f.mapTakesP (f.ctl.toNat < 8)
  | .tzip f => f.wfTile true false (f.ctl.toNat ≤ 4)
  | .tred f => f.wfTile false false (f.ctl.toNat < 2048 && f.ctl.extractLsb' 0 2 != 3)
  | .txpose f | .tcopy f => f.wfTile false false (f.ctl == 0)
  | .tcvt f => f.wfTile false false (f.ctl.toNat < 16 && (f.ctl.extractLsb' 0 3).toNat ≤ 5)
  | .forceHandle f | .tdrop f => not63 f.h
  | .forceRegion _ | .tstore _ => true
  | .tstatNode f => f.sd != 0 && not63 f.h
  | .tstatTable f => f.sd != 0
  | .tstatDefer f => f.sd != 0 && f.w.toNat ≤ 9
  | .cpyByte f => not63 f.len
  | .cpyTile _ => true
  | .cpyg f | .cpys f => not63 f.n
  | .cpstor f => not63 f.count && f.codec != 3
  | .sleepto f => scopeOk f.scope && not63 f.time && (f.c != 0 || f.s != 0)
  | .pmovTranspose f => not63 f.sc && isTranspose f.port && f.sc == 0
  | .pmovConvert f => not63 f.sc && isConvert f.port && f.sc == 0
  | .pmovEncode f => not63 f.sc && isEncode f.port
  | .pmovDecode f => not63 f.sc && isDecode f.port && f.sc == 0
  | .pmovConfig f => not63 f.sc && isConfig f.port && f.dD == 0 && f.dA == 0 && f.ev == 0
  | .prd f => f.sd != 0 && (isConfig f.port || isStatus f.port)
  | .walk _ => true
  | .batonWait f => f.sd != 0 && not63 f.h && not63 f.k
  | .batonGive f => f.sd == 0 && not63 f.h && not63 f.k
  | .batonStat f => f.sd != 0 && not63 f.h && f.k == 0
  | .nsend f => not63 f.peer
  | .nmcast f => not63 f.count
  | .relay _ => true
  | .rlstat f | .rlstatWhy f => f.sd != 0 && not63 f.h
  | .harrive f | .harw f => scopeOk f.scope && not63 f.q
  | .hwait f => scopeOk f.scope && not63 f.q && f.sd == 0
  | .tqpush f => not63 f.q
  | .tqcancel f => f.sd != 0 && not63 f.h
  | .jobwaitWait f => scopeOk f.scope && not63 f.j
  | .jobwaitRd f => f.sd != 0 && not63 f.h
  | .evpost f => not63 f.c && not63 f.v
  | .evwait f => f.sd.toNat % 2 == 0 && f.sd != 0
  | .klaunchX f => f.sp == 0
  | .klaunchK f => not63 f.sp
  | .klaunchR f => not63 f.sp && f.sd == 0 && f.ar == 0
  | .syscallEmit f => not63 f.value && not63 f.stream
  | .syscallFlush _ => true
  | .syscallFree f => f.sd != 0
  | .srgen _ => true
  | _ => true

end Sys2Proof
end

