-- ==== Sys2Proof/Decode.lean ====
section
/-! DEFINITION. From bits to instructions: slot words, bundles with their legality checks, and, after
the decoder, the encoder. Registers an instruction names (R33) stand here because the port checks use
them. -/

namespace Sys2Proof

/-- Why a slot word is no instruction: the first three subcodes of R58. -/
inductive DecodeError where
  | opZero | opRsv | fldRsv
  deriving DecidableEq, Repr

/-- A slot word with its format (R24). -/
inductive SlotWord where
  | s (w : BitVec 48) | v (w : BitVec 48) | f (w : BitVec 32) | m (w : BitVec 32)
  | l (w : BitVec 48) | e (w : BitVec 48)
  deriving DecidableEq, Repr

/-- R58: the instruction, when its fixed bits and its fields are legal. -/
def legal (fixedOk : Bool) (i : Instr) : Except DecodeError Instr :=
  if fixedOk && i.wf then .ok i else .error .fldRsv

/-! ## Slot layouts -/

/-- R35: the 48-bit word of this layout under opcode `op`. -/
def packS (op : BitVec 7) (f : SFields) : BitVec 48 :=
  op ++ f.dst ++ f.a ++ f.b ++ f.w ++ f.mA ++ f.mB ++ f.fA ++ f.fB ++ f.imm
/-- R35: the fields of a word of this layout. -/
def unpackS (w : BitVec 48) : SFields :=
  ⟨w.extractLsb' 36 5, w.extractLsb' 30 6, w.extractLsb' 24 6, w.extractLsb' 22 2, w.extractLsb' 19 3, w.extractLsb' 16 3, w.extractLsb' 15 1, w.extractLsb' 14 1, w.extractLsb' 0 14⟩

/-- R37: the 48-bit word of this layout under opcode `op`. -/
def packSImm (op : BitVec 7) (f : SImm) : BitVec 48 :=
  op ++ f.dst ++ 0#4 ++ f.imm
/-- R37: the fields of a word of this layout. -/
def unpackSImm (w : BitVec 48) : SImm :=
  ⟨w.extractLsb' 36 5, w.extractLsb' 0 32⟩
/-- R37: the bits this layout fixes. -/
def fixedSImm (w : BitVec 48) : Bool :=
  w.extractLsb' 32 4 == 0

/-- R39: the 48-bit word of this layout under opcode `op`. -/
def packV (op : BitVec 7) (f : VFields) : BitVec 48 :=
  op ++ f.vd ++ f.va ++ f.vb ++ f.sc ++ f.q ++ f.ty ++ f.m ++ f.fA ++ f.fB ++ f.imm
/-- R39: the fields of a word of this layout. -/
def unpackV (w : BitVec 48) : VFields :=
  ⟨w.extractLsb' 36 5, w.extractLsb' 31 5, w.extractLsb' 26 5, w.extractLsb' 20 6, w.extractLsb' 17 3, w.extractLsb' 13 4, w.extractLsb' 10 3, w.extractLsb' 9 1, w.extractLsb' 8 1, w.extractLsb' 0 8⟩

/-- R40: the 32-bit word of this layout under opcode `op`. -/
def packF (op : BitVec 6) (f : FFields) : BitVec 32 :=
  op ++ f.dst ++ f.src ++ f.ty ++ f.rnd ++ f.q ++ f.f ++ f.sr ++ 0#2
/-- R40: the fields of a word of this layout. -/
def unpackF (w : BitVec 32) : FFields :=
  ⟨w.extractLsb' 20 6, w.extractLsb' 14 6, w.extractLsb' 10 4, w.extractLsb' 7 3, w.extractLsb' 4 3, w.extractLsb' 3 1, w.extractLsb' 2 1⟩
/-- R40: the bits this layout fixes. -/
def fixedF (w : BitVec 32) : Bool :=
  w.extractLsb' 0 2 == 0

/-- R41: the 32-bit word of this layout under opcode `op`. -/
def packM (op : BitVec 4) (f : MFields) : BitVec 32 :=
  op ++ f.acc ++ f.row ++ f.d ++ f.stream ++ f.flags
/-- R41: the fields of a word of this layout. -/
def unpackM (w : BitVec 32) : MFields :=
  ⟨w.extractLsb' 25 3, w.extractLsb' 18 7, w.extractLsb' 14 4, w.extractLsb' 10 4, w.extractLsb' 0 10⟩

/-- R42: the 48-bit word of this layout under opcode `op`. -/
def packL (op : BitVec 7) (f : LFields) : BitVec 48 :=
  op ++ f.reg ++ f.base ++ f.off ++ f.ty ++ f.sbv ++ f.sbs ++ f.wait
/-- R42: the fields of a word of this layout. -/
def unpackL (w : BitVec 48) : LFields :=
  ⟨w.extractLsb' 35 6, w.extractLsb' 31 4, w.extractLsb' 16 15, w.extractLsb' 12 4, w.extractLsb' 11 1, w.extractLsb' 8 3, w.extractLsb' 0 8⟩

/-- R271: the 48-bit word of this layout under opcode `op`. -/
def packDescMem (op : BitVec 7) (f : DescMem) : BitVec 48 :=
  op ++ f.dn ++ f.am ++ f.off ++ 0#18
/-- R271: the fields of a word of this layout. -/
def unpackDescMem (w : BitVec 48) : DescMem :=
  ⟨w.extractLsb' 37 4, w.extractLsb' 33 4, w.extractLsb' 18 15⟩
/-- R271: the bits this layout fixes. -/
def fixedDescMem (w : BitVec 48) : Bool :=
  w.extractLsb' 0 18 == 0

/-- R272: the 48-bit word of this layout under opcode `op`. -/
def packDSetS (op : BitVec 7) (f : DSetS) : BitVec 48 :=
  op ++ f.dn ++ f.w ++ 0#1 ++ f.sp ++ 0#26
/-- R272: the fields of a word of this layout. -/
def unpackDSetS (w : BitVec 48) : DSetS :=
  ⟨w.extractLsb' 37 4, w.extractLsb' 33 4, w.extractLsb' 26 6⟩
/-- R272: the bits this layout fixes. -/
def fixedDSetS (w : BitVec 48) : Bool :=
  w.extractLsb' 32 1 == 0 && w.extractLsb' 0 26 == 0

/-- R272: the 48-bit word of this layout under opcode `op`. -/
def packDSetA (op : BitVec 7) (f : DSetA) : BitVec 48 :=
  op ++ f.dn ++ f.w ++ 1#1 ++ 0#2 ++ f.am ++ 0#26
/-- R272: the fields of a word of this layout. -/
def unpackDSetA (w : BitVec 48) : DSetA :=
  ⟨w.extractLsb' 37 4, w.extractLsb' 33 4, w.extractLsb' 26 4⟩
/-- R272: the bits this layout fixes. -/
def fixedDSetA (w : BitVec 48) : Bool :=
  w.extractLsb' 32 1 == 1 && w.extractLsb' 30 2 == 0 && w.extractLsb' 0 26 == 0

/-- R272: the 48-bit word of this layout under opcode `op`. -/
def packDGet (op : BitVec 7) (f : DGetF) : BitVec 48 :=
  op ++ f.sd ++ f.dn ++ f.w ++ 0#28
/-- R272: the fields of a word of this layout. -/
def unpackDGet (w : BitVec 48) : DGetF :=
  ⟨w.extractLsb' 36 5, w.extractLsb' 32 4, w.extractLsb' 28 4⟩
/-- R272: the bits this layout fixes. -/
def fixedDGet (w : BitVec 48) : Bool :=
  w.extractLsb' 0 28 == 0

/-- R108: the 48-bit word of this layout under opcode `op`. -/
def packFence (op : BitVec 7) (f : FenceF) : BitVec 48 :=
  op ++ f.scope ++ f.kind ++ f.cls ++ 0#30
/-- R108: the fields of a word of this layout. -/
def unpackFence (w : BitVec 48) : FenceF :=
  ⟨w.extractLsb' 38 3, w.extractLsb' 36 2, w.extractLsb' 30 6⟩
/-- R108: the bits this layout fixes. -/
def fixedFence (w : BitVec 48) : Bool :=
  w.extractLsb' 0 30 == 0

/-- R110: the 48-bit word of this layout under opcode `op`. -/
def packWaitTl (op : BitVec 7) (f : WaitTlF) : BitVec 48 :=
  op ++ f.scope ++ f.cls ++ f.all ++ f.target ++ 0#28
/-- R110: the fields of a word of this layout. -/
def unpackWaitTl (w : BitVec 48) : WaitTlF :=
  ⟨w.extractLsb' 38 3, w.extractLsb' 35 3, w.extractLsb' 34 1, w.extractLsb' 28 6⟩
/-- R110: the bits this layout fixes. -/
def fixedWaitTl (w : BitVec 48) : Bool :=
  w.extractLsb' 0 28 == 0

/-- R111: the 48-bit word of this layout under opcode `op`. -/
def packTlRead (op : BitVec 7) (f : TlReadF) : BitVec 48 :=
  op ++ f.dst ++ f.cls ++ f.sel ++ 0#31
/-- R111: the fields of a word of this layout. -/
def unpackTlRead (w : BitVec 48) : TlReadF :=
  ⟨w.extractLsb' 36 5, w.extractLsb' 33 3, w.extractLsb' 31 2⟩
/-- R111: the bits this layout fixes. -/
def fixedTlRead (w : BitVec 48) : Bool :=
  w.extractLsb' 0 31 == 0

/-- R276: the 48-bit word of this layout under opcode `op`. -/
def packTile (op : BitVec 7) (f : TileF) : BitVec 48 :=
  op ++ f.hd ++ f.dD ++ f.dA ++ f.dB ++ f.stream ++ f.p ++ f.ctl
/-- R276: the fields of a word of this layout. -/
def unpackTile (w : BitVec 48) : TileF :=
  ⟨w.extractLsb' 36 5, w.extractLsb' 32 4, w.extractLsb' 28 4, w.extractLsb' 24 4, w.extractLsb' 20 4, w.extractLsb' 14 6, w.extractLsb' 0 14⟩

/-- R287: the 48-bit word of this layout under opcode `op`. -/
def packForceH (op : BitVec 7) (f : SpecF) : BitVec 48 :=
  op ++ 0#1 ++ f.h ++ 0#4 ++ 0#30
/-- R287: the fields of a word of this layout. -/
def unpackForceH (w : BitVec 48) : SpecF :=
  ⟨w.extractLsb' 34 6⟩
/-- R287: the bits this layout fixes. -/
def fixedForceH (w : BitVec 48) : Bool :=
  w.extractLsb' 40 1 == 0 && w.extractLsb' 0 34 == 0

/-- R287: the 48-bit word of this layout under opcode `op`. -/
def packForceR (op : BitVec 7) (f : DescF) : BitVec 48 :=
  op ++ 1#1 ++ 0#6 ++ f.dn ++ 0#30
/-- R287: the fields of a word of this layout. -/
def unpackForceR (w : BitVec 48) : DescF :=
  ⟨w.extractLsb' 30 4⟩
/-- R287: the bits this layout fixes. -/
def fixedForceR (w : BitVec 48) : Bool :=
  w.extractLsb' 40 1 == 1 && w.extractLsb' 34 6 == 0 && w.extractLsb' 0 30 == 0

/-- R288: the 48-bit word of this layout under opcode `op`. -/
def packTStore (op : BitVec 7) (f : TStoreF) : BitVec 48 :=
  op ++ 0#5 ++ f.dD ++ f.dA ++ 0#28
/-- R288: the fields of a word of this layout. -/
def unpackTStore (w : BitVec 48) : TStoreF :=
  ⟨w.extractLsb' 32 4, w.extractLsb' 28 4⟩
/-- R288: the bits this layout fixes. -/
def fixedTStore (w : BitVec 48) : Bool :=
  w.extractLsb' 36 5 == 0 && w.extractLsb' 0 28 == 0

/-- R289: the 48-bit word of this layout under opcode `op`. -/
def packTDrop (op : BitVec 7) (f : SpecF) : BitVec 48 :=
  op ++ f.h ++ 0#35
/-- R289: the fields of a word of this layout. -/
def unpackTDrop (w : BitVec 48) : SpecF :=
  ⟨w.extractLsb' 35 6⟩
/-- R289: the bits this layout fixes. -/
def fixedTDrop (w : BitVec 48) : Bool :=
  w.extractLsb' 0 35 == 0

/-- R290: the 48-bit word of this layout under opcode `op`. -/
def packTStatN (op : BitVec 7) (f : DstSpec) : BitVec 48 :=
  op ++ f.sd ++ f.h ++ 0#2 ++ 0#4 ++ 0#24
/-- R290: the fields of a word of this layout. -/
def unpackTStatN (w : BitVec 48) : DstSpec :=
  ⟨w.extractLsb' 36 5, w.extractLsb' 30 6⟩
/-- R290: the bits this layout fixes. -/
def fixedTStatN (w : BitVec 48) : Bool :=
  w.extractLsb' 0 30 == 0

/-- R290: the 48-bit word of this layout under opcode `op`. -/
def packTStatT (op : BitVec 7) (f : DstOnly) : BitVec 48 :=
  op ++ f.sd ++ 0#6 ++ 1#2 ++ 0#4 ++ 0#24
/-- R290: the fields of a word of this layout. -/
def unpackTStatT (w : BitVec 48) : DstOnly :=
  ⟨w.extractLsb' 36 5⟩
/-- R290: the bits this layout fixes. -/
def fixedTStatT (w : BitVec 48) : Bool :=
  w.extractLsb' 30 6 == 0 && w.extractLsb' 28 2 == 1 && w.extractLsb' 0 28 == 0

/-- R290: the 48-bit word of this layout under opcode `op`. -/
def packTStatD (op : BitVec 7) (f : DstWord) : BitVec 48 :=
  op ++ f.sd ++ 0#6 ++ 2#2 ++ f.w ++ 0#24
/-- R290: the fields of a word of this layout. -/
def unpackTStatD (w : BitVec 48) : DstWord :=
  ⟨w.extractLsb' 36 5, w.extractLsb' 24 4⟩
/-- R290: the bits this layout fixes. -/
def fixedTStatD (w : BitVec 48) : Bool :=
  w.extractLsb' 30 6 == 0 && w.extractLsb' 28 2 == 2 && w.extractLsb' 0 24 == 0

/-- R311: the 48-bit word of this layout under opcode `op`. -/
def packCpyB (op : BitVec 7) (f : CpyByteF) : BitVec 48 :=
  op ++ f.ps ++ 0#1 ++ f.x ++ f.y ++ f.len ++ f.ev ++ 0#20
/-- R311: the fields of a word of this layout. -/
def unpackCpyB (w : BitVec 48) : CpyByteF :=
  ⟨w.extractLsb' 36 5, w.extractLsb' 31 4, w.extractLsb' 27 4, w.extractLsb' 21 6, w.extractLsb' 20 1⟩
/-- R311: the bits this layout fixes. -/
def fixedCpyB (w : BitVec 48) : Bool :=
  w.extractLsb' 35 1 == 0 && w.extractLsb' 0 20 == 0

/-- R311: the 48-bit word of this layout under opcode `op`. -/
def packCpyT (op : BitVec 7) (f : CpyTileF) : BitVec 48 :=
  op ++ f.ps ++ 1#1 ++ f.x ++ f.y ++ 0#6 ++ f.ev ++ 0#20
/-- R311: the fields of a word of this layout. -/
def unpackCpyT (w : BitVec 48) : CpyTileF :=
  ⟨w.extractLsb' 36 5, w.extractLsb' 31 4, w.extractLsb' 27 4, w.extractLsb' 20 1⟩
/-- R311: the bits this layout fixes. -/
def fixedCpyT (w : BitVec 48) : Bool :=
  w.extractLsb' 35 1 == 1 && w.extractLsb' 21 6 == 0 && w.extractLsb' 0 20 == 0

/-- R314: the 48-bit word of this layout under opcode `op`. -/
def packCpyIdx (op : BitVec 7) (f : CpyIdxF) : BitVec 48 :=
  op ++ f.ps ++ f.dD ++ f.dA ++ f.ai ++ f.n ++ f.ev ++ 0#17
/-- R314: the fields of a word of this layout. -/
def unpackCpyIdx (w : BitVec 48) : CpyIdxF :=
  ⟨w.extractLsb' 36 5, w.extractLsb' 32 4, w.extractLsb' 28 4, w.extractLsb' 24 4, w.extractLsb' 18 6, w.extractLsb' 17 1⟩
/-- R314: the bits this layout fixes. -/
def fixedCpyIdx (w : BitVec 48) : Bool :=
  w.extractLsb' 0 17 == 0

/-- R324: the 48-bit word of this layout under opcode `op`. -/
def packCpStor (op : BitVec 7) (f : CpStorF) : BitVec 48 :=
  op ++ f.ps ++ f.ad ++ f.al ++ f.ns ++ f.count ++ f.codec ++ f.ev ++ 0#15
/-- R324: the fields of a word of this layout. -/
def unpackCpStor (w : BitVec 48) : CpStorF :=
  ⟨w.extractLsb' 36 5, w.extractLsb' 32 4, w.extractLsb' 28 4, w.extractLsb' 24 4, w.extractLsb' 18 6, w.extractLsb' 16 2, w.extractLsb' 15 1⟩
/-- R324: the bits this layout fixes. -/
def fixedCpStor (w : BitVec 48) : Bool :=
  w.extractLsb' 0 15 == 0

/-- R321: the 48-bit word of this layout under opcode `op`. -/
def packSleep (op : BitVec 7) (f : SleepF) : BitVec 48 :=
  op ++ f.scope ++ f.c ++ f.s ++ f.time ++ 0#30
/-- R321: the fields of a word of this layout. -/
def unpackSleep (w : BitVec 48) : SleepF :=
  ⟨w.extractLsb' 38 3, w.extractLsb' 37 1, w.extractLsb' 36 1, w.extractLsb' 30 6⟩
/-- R321: the bits this layout fixes. -/
def fixedSleep (w : BitVec 48) : Bool :=
  w.extractLsb' 0 30 == 0

/-- R330: the 48-bit word of this layout under opcode `op`. -/
def packPmov (op : BitVec 7) (f : PmovF) : BitVec 48 :=
  op ++ f.port ++ f.dD ++ f.dA ++ f.sc ++ f.ev ++ 0#14
/-- R330: the fields of a word of this layout. -/
def unpackPmov (w : BitVec 48) : PmovF :=
  ⟨w.extractLsb' 29 12, w.extractLsb' 25 4, w.extractLsb' 21 4, w.extractLsb' 15 6, w.extractLsb' 14 1⟩
/-- R330: the bits this layout fixes. -/
def fixedPmov (w : BitVec 48) : Bool :=
  w.extractLsb' 0 14 == 0

/-- R331: the 48-bit word of this layout under opcode `op`. -/
def packPrd (op : BitVec 7) (f : PrdF) : BitVec 48 :=
  op ++ f.sd ++ f.port ++ 0#24
/-- R331: the fields of a word of this layout. -/
def unpackPrd (w : BitVec 48) : PrdF :=
  ⟨w.extractLsb' 36 5, w.extractLsb' 24 12⟩
/-- R331: the bits this layout fixes. -/
def fixedPrd (w : BitVec 48) : Bool :=
  w.extractLsb' 0 24 == 0

/-- R349: the 48-bit word of this layout under opcode `op`. -/
def packWalk (op : BitVec 7) (f : WalkF) : BitVec 48 :=
  op ++ f.hd ++ f.dn ++ f.aw ++ f.engine ++ f.st ++ f.ev ++ 0#24
/-- R349: the fields of a word of this layout. -/
def unpackWalk (w : BitVec 48) : WalkF :=
  ⟨w.extractLsb' 36 5, w.extractLsb' 32 4, w.extractLsb' 28 4, w.extractLsb' 26 2, w.extractLsb' 25 1, w.extractLsb' 24 1⟩
/-- R349: the bits this layout fixes. -/
def fixedWalk (w : BitVec 48) : Bool :=
  w.extractLsb' 0 24 == 0

/-- R355: the 48-bit word of this layout under opcode `op`. -/
def packBatonW (op : BitVec 7) (f : BatonF) : BitVec 48 :=
  op ++ f.sd ++ f.h ++ f.k ++ 0#2 ++ 0#22
/-- R355: the fields of a word of this layout. -/
def unpackBatonW (w : BitVec 48) : BatonF :=
  ⟨w.extractLsb' 36 5, w.extractLsb' 30 6, w.extractLsb' 24 6⟩
/-- R355: the bits this layout fixes. -/
def fixedBatonW (w : BitVec 48) : Bool :=
  w.extractLsb' 0 24 == 0

/-- R355: the 48-bit word of this layout under opcode `op`. -/
def packBatonG (op : BitVec 7) (f : BatonF) : BitVec 48 :=
  op ++ f.sd ++ f.h ++ f.k ++ 1#2 ++ 0#22
/-- R355: the fields of a word of this layout. -/
def unpackBatonG (w : BitVec 48) : BatonF :=
  ⟨w.extractLsb' 36 5, w.extractLsb' 30 6, w.extractLsb' 24 6⟩
/-- R355: the bits this layout fixes. -/
def fixedBatonG (w : BitVec 48) : Bool :=
  w.extractLsb' 22 2 == 1 && w.extractLsb' 0 22 == 0

/-- R355: the 48-bit word of this layout under opcode `op`. -/
def packBatonS (op : BitVec 7) (f : BatonF) : BitVec 48 :=
  op ++ f.sd ++ f.h ++ f.k ++ 2#2 ++ 0#22
/-- R355: the fields of a word of this layout. -/
def unpackBatonS (w : BitVec 48) : BatonF :=
  ⟨w.extractLsb' 36 5, w.extractLsb' 30 6, w.extractLsb' 24 6⟩
/-- R355: the bits this layout fixes. -/
def fixedBatonS (w : BitVec 48) : Bool :=
  w.extractLsb' 22 2 == 2 && w.extractLsb' 0 22 == 0

/-- R363: the 48-bit word of this layout under opcode `op`. -/
def packNSend (op : BitVec 7) (f : NSendF) : BitVec 48 :=
  op ++ 0#5 ++ f.peer ++ f.dD ++ f.dA ++ f.ev ++ 0#21
/-- R363: the fields of a word of this layout. -/
def unpackNSend (w : BitVec 48) : NSendF :=
  ⟨w.extractLsb' 30 6, w.extractLsb' 26 4, w.extractLsb' 22 4, w.extractLsb' 21 1⟩
/-- R363: the bits this layout fixes. -/
def fixedNSend (w : BitVec 48) : Bool :=
  w.extractLsb' 36 5 == 0 && w.extractLsb' 0 21 == 0

/-- R363: the 48-bit word of this layout under opcode `op`. -/
def packNMcast (op : BitVec 7) (f : NMcastF) : BitVec 48 :=
  op ++ f.count ++ f.al ++ f.dD ++ f.dA ++ f.ev ++ 0#22
/-- R363: the fields of a word of this layout. -/
def unpackNMcast (w : BitVec 48) : NMcastF :=
  ⟨w.extractLsb' 35 6, w.extractLsb' 31 4, w.extractLsb' 27 4, w.extractLsb' 23 4, w.extractLsb' 22 1⟩
/-- R363: the bits this layout fixes. -/
def fixedNMcast (w : BitVec 48) : Bool :=
  w.extractLsb' 0 22 == 0

/-- R377: the 48-bit word of this layout under opcode `op`. -/
def packRelay (op : BitVec 7) (f : RelayF) : BitVec 48 :=
  op ++ f.hd ++ f.u ++ f.ar ++ f.ev ++ 0#29
/-- R377: the fields of a word of this layout. -/
def unpackRelay (w : BitVec 48) : RelayF :=
  ⟨w.extractLsb' 36 5, w.extractLsb' 34 2, w.extractLsb' 30 4, w.extractLsb' 29 1⟩
/-- R377: the bits this layout fixes. -/
def fixedRelay (w : BitVec 48) : Bool :=
  w.extractLsb' 0 29 == 0

/-- R380: the 48-bit word of this layout under opcode `op`. -/
def packRlStat (op : BitVec 7) (f : DstSpec) : BitVec 48 :=
  op ++ f.sd ++ f.h ++ 0#2 ++ 0#28
/-- R380: the fields of a word of this layout. -/
def unpackRlStat (w : BitVec 48) : DstSpec :=
  ⟨w.extractLsb' 36 5, w.extractLsb' 30 6⟩
/-- R380: the bits this layout fixes. -/
def fixedRlStat (w : BitVec 48) : Bool :=
  w.extractLsb' 0 30 == 0

/-- R380: the 48-bit word of this layout under opcode `op`. -/
def packRlWhy (op : BitVec 7) (f : DstSpec) : BitVec 48 :=
  op ++ f.sd ++ f.h ++ 1#2 ++ 0#28
/-- R380: the fields of a word of this layout. -/
def unpackRlWhy (w : BitVec 48) : DstSpec :=
  ⟨w.extractLsb' 36 5, w.extractLsb' 30 6⟩
/-- R380: the bits this layout fixes. -/
def fixedRlWhy (w : BitVec 48) : Bool :=
  w.extractLsb' 28 2 == 1 && w.extractLsb' 0 28 == 0

/-- R420: the 48-bit word of this layout under opcode `op`. -/
def packHurdle (op : BitVec 7) (f : HurdleF) : BitVec 48 :=
  op ++ f.scope ++ f.sd ++ f.ah ++ f.q ++ f.off ++ 0#11
/-- R420: the fields of a word of this layout. -/
def unpackHurdle (w : BitVec 48) : HurdleF :=
  ⟨w.extractLsb' 38 3, w.extractLsb' 33 5, w.extractLsb' 29 4, w.extractLsb' 23 6, w.extractLsb' 11 12⟩
/-- R420: the bits this layout fixes. -/
def fixedHurdle (w : BitVec 48) : Bool :=
  w.extractLsb' 0 11 == 0

/-- R409: the 48-bit word of this layout under opcode `op`. -/
def packTqPush (op : BitVec 7) (f : TqPushF) : BitVec 48 :=
  op ++ f.sd ++ f.at' ++ f.q ++ f.off ++ 0#16
/-- R409: the fields of a word of this layout. -/
def unpackTqPush (w : BitVec 48) : TqPushF :=
  ⟨w.extractLsb' 36 5, w.extractLsb' 32 4, w.extractLsb' 26 6, w.extractLsb' 16 10⟩
/-- R409: the bits this layout fixes. -/
def fixedTqPush (w : BitVec 48) : Bool :=
  w.extractLsb' 0 16 == 0

/-- R410: the 48-bit word of this layout under opcode `op`. -/
def packTqCancel (op : BitVec 7) (f : DstSpec) : BitVec 48 :=
  op ++ f.sd ++ f.h ++ 0#30
/-- R410: the fields of a word of this layout. -/
def unpackTqCancel (w : BitVec 48) : DstSpec :=
  ⟨w.extractLsb' 36 5, w.extractLsb' 30 6⟩
/-- R410: the bits this layout fixes. -/
def fixedTqCancel (w : BitVec 48) : Bool :=
  w.extractLsb' 0 30 == 0

/-- R412: the 48-bit word of this layout under opcode `op`. -/
def packJobWait (op : BitVec 7) (f : JobWaitF) : BitVec 48 :=
  op ++ 0#5 ++ f.j ++ 0#2 ++ f.scope ++ 0#25
/-- R412: the fields of a word of this layout. -/
def unpackJobWait (w : BitVec 48) : JobWaitF :=
  ⟨w.extractLsb' 30 6, w.extractLsb' 25 3⟩
/-- R412: the bits this layout fixes. -/
def fixedJobWait (w : BitVec 48) : Bool :=
  w.extractLsb' 36 5 == 0 && w.extractLsb' 28 2 == 0 && w.extractLsb' 0 25 == 0

/-- R412: the 48-bit word of this layout under opcode `op`. -/
def packJobRd (op : BitVec 7) (f : DstSpec) : BitVec 48 :=
  op ++ f.sd ++ f.h ++ 1#2 ++ 0#3 ++ 0#25
/-- R412: the fields of a word of this layout. -/
def unpackJobRd (w : BitVec 48) : DstSpec :=
  ⟨w.extractLsb' 36 5, w.extractLsb' 30 6⟩
/-- R412: the bits this layout fixes. -/
def fixedJobRd (w : BitVec 48) : Bool :=
  w.extractLsb' 28 2 == 1 && w.extractLsb' 0 28 == 0

/-- R414: the 48-bit word of this layout under opcode `op`. -/
def packEvPost (op : BitVec 7) (f : EvPostF) : BitVec 48 :=
  op ++ f.c ++ f.v ++ 0#29
/-- R414: the fields of a word of this layout. -/
def unpackEvPost (w : BitVec 48) : EvPostF :=
  ⟨w.extractLsb' 35 6, w.extractLsb' 29 6⟩
/-- R414: the bits this layout fixes. -/
def fixedEvPost (w : BitVec 48) : Bool :=
  w.extractLsb' 0 29 == 0

/-- R415: the 48-bit word of this layout under opcode `op`. -/
def packEvWait (op : BitVec 7) (f : EvWaitF) : BitVec 48 :=
  op ++ f.sd ++ f.nb ++ 0#35
/-- R415: the fields of a word of this layout. -/
def unpackEvWait (w : BitVec 48) : EvWaitF :=
  ⟨w.extractLsb' 36 5, w.extractLsb' 35 1⟩
/-- R415: the bits this layout fixes. -/
def fixedEvWait (w : BitVec 48) : Bool :=
  w.extractLsb' 0 35 == 0

/-- R417: the 48-bit word of this layout under opcode `op`. -/
def packKLaunchX (op : BitVec 7) (f : KLaunchF) : BitVec 48 :=
  op ++ f.sd ++ 0#2 ++ f.ar ++ f.sp ++ 0#24
/-- R417: the fields of a word of this layout. -/
def unpackKLaunchX (w : BitVec 48) : KLaunchF :=
  ⟨w.extractLsb' 36 5, w.extractLsb' 30 4, w.extractLsb' 24 6⟩
/-- R417: the bits this layout fixes. -/
def fixedKLaunchX (w : BitVec 48) : Bool :=
  w.extractLsb' 34 2 == 0 && w.extractLsb' 0 24 == 0

/-- R417: the 48-bit word of this layout under opcode `op`. -/
def packKLaunchK (op : BitVec 7) (f : KLaunchF) : BitVec 48 :=
  op ++ f.sd ++ 1#2 ++ f.ar ++ f.sp ++ 0#24
/-- R417: the fields of a word of this layout. -/
def unpackKLaunchK (w : BitVec 48) : KLaunchF :=
  ⟨w.extractLsb' 36 5, w.extractLsb' 30 4, w.extractLsb' 24 6⟩
/-- R417: the bits this layout fixes. -/
def fixedKLaunchK (w : BitVec 48) : Bool :=
  w.extractLsb' 34 2 == 1 && w.extractLsb' 0 24 == 0

/-- R417: the 48-bit word of this layout under opcode `op`. -/
def packKLaunchR (op : BitVec 7) (f : KLaunchF) : BitVec 48 :=
  op ++ f.sd ++ 2#2 ++ f.ar ++ f.sp ++ 0#24
/-- R417: the fields of a word of this layout. -/
def unpackKLaunchR (w : BitVec 48) : KLaunchF :=
  ⟨w.extractLsb' 36 5, w.extractLsb' 30 4, w.extractLsb' 24 6⟩
/-- R417: the bits this layout fixes. -/
def fixedKLaunchR (w : BitVec 48) : Bool :=
  w.extractLsb' 34 2 == 2 && w.extractLsb' 0 24 == 0

/-- R448: the 48-bit word of this layout under opcode `op`. -/
def packEmit (op : BitVec 7) (f : EmitF) : BitVec 48 :=
  op ++ f.sd ++ f.value ++ f.stream ++ f.ring ++ 0#2 ++ f.nb ++ 0#17
/-- R448: the fields of a word of this layout. -/
def unpackEmit (w : BitVec 48) : EmitF :=
  ⟨w.extractLsb' 36 5, w.extractLsb' 30 6, w.extractLsb' 24 6, w.extractLsb' 20 4, w.extractLsb' 17 1⟩
/-- R448: the bits this layout fixes. -/
def fixedEmit (w : BitVec 48) : Bool :=
  w.extractLsb' 18 2 == 0 && w.extractLsb' 0 17 == 0

/-- R448: the 48-bit word of this layout under opcode `op`. -/
def packFlush (op : BitVec 7) (f : FlushF) : BitVec 48 :=
  op ++ 0#5 ++ 0#6 ++ 0#6 ++ f.ring ++ 1#2 ++ 0#1 ++ 0#17
/-- R448: the fields of a word of this layout. -/
def unpackFlush (w : BitVec 48) : FlushF :=
  ⟨w.extractLsb' 20 4⟩
/-- R448: the bits this layout fixes. -/
def fixedFlush (w : BitVec 48) : Bool :=
  w.extractLsb' 24 17 == 0 && w.extractLsb' 18 2 == 1 && w.extractLsb' 0 18 == 0

/-- R448: the 48-bit word of this layout under opcode `op`. -/
def packFree (op : BitVec 7) (f : FreeF) : BitVec 48 :=
  op ++ f.sd ++ 0#6 ++ 0#6 ++ f.ring ++ 2#2 ++ 0#1 ++ 0#17
/-- R448: the fields of a word of this layout. -/
def unpackFree (w : BitVec 48) : FreeF :=
  ⟨w.extractLsb' 36 5, w.extractLsb' 20 4⟩
/-- R448: the bits this layout fixes. -/
def fixedFree (w : BitVec 48) : Bool :=
  w.extractLsb' 24 12 == 0 && w.extractLsb' 18 2 == 2 && w.extractLsb' 0 18 == 0

/-- R424: the 48-bit word of this layout under opcode `op`. -/
def packSrGen (op : BitVec 7) (f : SrGenF) : BitVec 48 :=
  op ++ f.ak ++ f.ac ++ 0#33
/-- R424: the fields of a word of this layout. -/
def unpackSrGen (w : BitVec 48) : SrGenF :=
  ⟨w.extractLsb' 37 4, w.extractLsb' 33 4⟩
/-- R424: the bits this layout fixes. -/
def fixedSrGen (w : BitVec 48) : Bool :=
  w.extractLsb' 0 33 == 0

/-! ## Decoding a slot -/

/-- R161, R403: TADDR and RTGT have rows of their own in the table of operations. -/
def wrsysOf (f : SFields) : Instr :=
  if f.sysNum == 0x11 then .taddrWrite f else if f.sysNum == 0x150 then .rtgtWrite f else .wrsys f

/-- R327, R330: a PMOV is what its port is. -/
def pmovOf (fixedOk : Bool) (f : PmovF) : Except DecodeError Instr :=
  match portKind f.port with
  | .transpose => legal fixedOk (.pmovTranspose f)
  | .convert _ _ _ => legal fixedOk (.pmovConvert f)
  | .encode _ _ => legal fixedOk (.pmovEncode f)
  | .decode _ => legal fixedOk (.pmovDecode f)
  | .config _ _ => legal fixedOk (.pmovConfig f)
  | .status _ => .error .fldRsv
  | .reserved => .error .fldRsv

/-- R35, R37, R61: the S slot's instruction. -/
def decodeS (w : BitVec 48) : Except DecodeError Instr :=
  match (w.extractLsb' 41 7).toNat with
  | 0 => .error .opZero
  | 0x01 => legal true (.add (unpackS w))
  | 0x02 => legal true (.sub (unpackS w))
  | 0x03 => legal true (.mul (unpackS w))
  | 0x04 => legal true (.mulh (unpackS w))
  | 0x05 => legal true (.mulhu (unpackS w))
  | 0x06 => legal true (.div (unpackS w))
  | 0x07 => legal true (.divu (unpackS w))
  | 0x08 => legal true (.rem (unpackS w))
  | 0x09 => legal true (.remu (unpackS w))
  | 0x0A => legal true (.and (unpackS w))
  | 0x0B => legal true (.or (unpackS w))
  | 0x0C => legal true (.xor (unpackS w))
  | 0x0D => legal true (.andn (unpackS w))
  | 0x0E => legal true (.shl (unpackS w))
  | 0x0F => legal true (.shr (unpackS w))
  | 0x10 => legal true (.sra (unpackS w))
  | 0x11 => legal true (.rot (unpackS w))
  | 0x12 => legal true (.min (unpackS w))
  | 0x13 => legal true (.max (unpackS w))
  | 0x14 => legal true (.minu (unpackS w))
  | 0x15 => legal true (.maxu (unpackS w))
  | 0x16 => legal true (.clz (unpackS w))
  | 0x17 => legal true (.popc (unpackS w))
  | 0x18 => legal true (.cmpeq (unpackS w))
  | 0x19 => legal true (.cmpne (unpackS w))
  | 0x1A => legal true (.cmplt (unpackS w))
  | 0x1B => legal true (.cmpltu (unpackS w))
  | 0x1C => legal true (.cmple (unpackS w))
  | 0x1D => legal true (.cmpleu (unpackS w))
  | 0x1E => legal true (.sel (unpackS w))
  | 0x1F => legal true (.mov (unpackS w))
  | 0x20 => legal true (.padd (unpackS w))
  | 0x21 => legal true (.psub (unpackS w))
  | 0x22 => legal true (.padds (unpackS w))
  | 0x23 => legal true (.psubs (unpackS w))
  | 0x24 => legal true (.paddsn (unpackS w))
  | 0x25 => legal true (.psubsn (unpackS w))
  | 0x26 => legal true (.pmul (unpackS w))
  | 0x27 => legal true (.pmulh (unpackS w))
  | 0x28 => legal true (.pmin (unpackS w))
  | 0x29 => legal true (.pmax (unpackS w))
  | 0x2A => legal true (.pabsd (unpackS w))
  | 0x2B => legal true (.pdot (unpackS w))
  | 0x2C => legal true (.pavg (unpackS w))
  | 0x2D => legal true (.ppack (unpackS w))
  | 0x2E => legal true (.pwiden (unpackS w))
  | 0x2F => legal true (.pshuf (unpackS w))
  | 0x30 => legal (fixedSImm w) (.limm (unpackSImm w))
  | 0x31 => legal (fixedSImm w) (.limmh (unpackSImm w))
  | 0x32 => legal true (.aadd (unpackS w))
  | 0x33 => legal true (.asub (unpackS w))
  | 0x34 => legal true (.amov (unpackS w))
  | 0x35 => legal true (.ajoin (unpackS w))
  | 0x36 => legal true (.asplit (unpackS w))
  | 0x37 => legal (fixedSImm w) (.aimm (unpackSImm w))
  | 0x38 => legal true (.fadd (unpackS w))
  | 0x39 => legal true (.fsub (unpackS w))
  | 0x3A => legal true (.fmul (unpackS w))
  | 0x3B => legal true (.fmin (unpackS w))
  | 0x3C => legal true (.fmax (unpackS w))
  | 0x3D => legal true (.fcmplt (unpackS w))
  | 0x3E => legal true (.fcmpeq (unpackS w))
  | 0x3F => legal true (.fcvt (unpackS w))
  | 0x40 => legal (fixedSImm w) (.br (unpackSImm w))
  | 0x41 => legal (fixedSImm w) (.brz (unpackSImm w))
  | 0x42 => legal (fixedSImm w) (.brnz (unpackSImm w))
  | 0x43 => legal (fixedSImm w) (.call (unpackSImm w))
  | 0x44 => legal (fixedSImm w) (.ret (unpackSImm w))
  | 0x45 => legal true (.loop (unpackS w))
  | 0x46 => legal true (.trap (unpackS w))
  | 0x47 => legal true (.tret (unpackS w))
  | 0x48 => legal true (.rdsys (unpackS w))
  | 0x49 => legal true (wrsysOf (unpackS w))
  | 0x4A => legal true (.rdtime (unpackS w))
  | 0x4B => legal true (.fetest (unpackS w))
  | 0x4C => legal true (.setempty (unpackS w))
  | 0x4D => legal true (.laprd (unpackS w))
  | _ => .error .opRsv

/-- R39, R61: the V slot's instruction. -/
def decodeV (w : BitVec 48) : Except DecodeError Instr :=
  match (w.extractLsb' 41 7).toNat with
  | 0 => .error .opZero
  | 0x01 => legal true (.vadd (unpackV w))
  | 0x02 => legal true (.vsub (unpackV w))
  | 0x03 => legal true (.vmul (unpackV w))
  | 0x04 => legal true (.vfma (unpackV w))
  | 0x05 => legal true (.vmin (unpackV w))
  | 0x06 => legal true (.vmax (unpackV w))
  | 0x07 => legal true (.vabs (unpackV w))
  | 0x08 => legal true (.vneg (unpackV w))
  | 0x09 => legal true (.vand (unpackV w))
  | 0x0A => legal true (.vor (unpackV w))
  | 0x0B => legal true (.vxor (unpackV w))
  | 0x0C => legal true (.vshl (unpackV w))
  | 0x0D => legal true (.vshr (unpackV w))
  | 0x0E => legal true (.vsra (unpackV w))
  | 0x10 => legal true (.vcmpeq (unpackV w))
  | 0x11 => legal true (.vcmplt (unpackV w))
  | 0x12 => legal true (.vcmple (unpackV w))
  | 0x13 => legal true (.vsel (unpackV w))
  | 0x18 => legal true (.vrsum (unpackV w))
  | 0x19 => legal true (.vrmax (unpackV w))
  | 0x1A => legal true (.vrmin (unpackV w))
  | 0x1B => legal true (.vrcnt (unpackV w))
  | 0x20 => legal true (.vcoal (unpackV w))
  | 0x21 => legal true (.vruns (unpackV w))
  | 0x22 => legal true (.vsplat (unpackV w))
  | 0x23 => legal true (.viota (unpackV w))
  | 0x24 => legal true (.vslide (unpackV w))
  | 0x25 => legal true (.vscan (unpackV w))
  | 0x26 => legal true (.vmov (unpackV w))
  | 0x27 => legal true (.vext (unpackV w))
  | 0x28 => legal true (.vins (unpackV w))
  | 0x29 => legal true (.vlen (unpackV w))
  | 0x2A => legal true (.vtrim (unpackV w))
  | 0x30 => legal true (.vacc (unpackV w))
  | 0x31 => legal true (.vaccw (unpackV w))
  | 0x38 => legal true (.qset (unpackV w))
  | 0x39 => legal true (.qfromv (unpackV w))
  | 0x3A => legal true (.qmin (unpackV w))
  | 0x3B => legal true (.qget (unpackV w))
  | _ => .error .opRsv

/-- R40, R61: the F slot's instruction. -/
def decodeF (w : BitVec 32) : Except DecodeError Instr :=
  match (w.extractLsb' 26 6).toNat with
  | 0 => .error .opZero
  | 0x01 => legal (fixedF w) (.fexp (unpackF w))
  | 0x02 => legal (fixedF w) (.fexp2 (unpackF w))
  | 0x03 => legal (fixedF w) (.flog2 (unpackF w))
  | 0x04 => legal (fixedF w) (.frcp (unpackF w))
  | 0x05 => legal (fixedF w) (.frsq (unpackF w))
  | 0x06 => legal (fixedF w) (.fsqrt (unpackF w))
  | 0x07 => legal (fixedF w) (.ftanh (unpackF w))
  | 0x08 => legal (fixedF w) (.fsigm (unpackF w))
  | 0x09 => legal (fixedF w) (.fsin (unpackF w))
  | 0x0A => legal (fixedF w) (.fcos (unpackF w))
  | 0x10 => legal (fixedF w) (.fconv (unpackF w))
  | 0x11 => legal (fixedF w) (.fqnt (unpackF w))
  | 0x12 => legal (fixedF w) (.fdqt (unpackF w))
  | 0x13 => legal (fixedF w) (.fcbe (unpackF w))
  | 0x14 => legal (fixedF w) (.fcbd (unpackF w))
  | 0x18 => legal (fixedF w) (.frnd (unpackF w))
  | _ => .error .opRsv

/-- R41, R61: the M slot's instruction. -/
def decodeM (w : BitVec 32) : Except DecodeError Instr :=
  match (w.extractLsb' 28 4).toNat with
  | 0 => .error .opZero
  | 0x1 => legal true (.mpush (unpackM w))
  | 0x2 => legal true (.macc (unpackM w))
  | 0x3 => legal true (.mshift (unpackM w))
  | 0x4 => legal true (.mdrain (unpackM w))
  | 0x5 => legal true (.mclr (unpackM w))
  | 0x6 => legal true (.mchain (unpackM w))
  | 0x7 => legal true (.mend (unpackM w))
  | _ => .error .opRsv

/-- R42, R61: the L slot's instruction. -/
def decodeL (w : BitVec 48) : Except DecodeError Instr :=
  match (w.extractLsb' 41 7).toNat with
  | 0 => .error .opZero
  | 0x01 => legal true (.ldb (unpackL w))
  | 0x02 => legal true (.ldbs (unpackL w))
  | 0x03 => legal true (.ldh (unpackL w))
  | 0x04 => legal true (.ldhs (unpackL w))
  | 0x05 => legal true (.ldw (unpackL w))
  | 0x06 => legal true (.lda (unpackL w))
  | 0x08 => legal true (.stb (unpackL w))
  | 0x09 => legal true (.sth (unpackL w))
  | 0x0A => legal true (.stw (unpackL w))
  | 0x0B => legal true (.sta (unpackL w))
  | 0x10 => legal true (.vld (unpackL w))
  | 0x11 => legal true (.vldr (unpackL w))
  | 0x12 => legal true (.vldb (unpackL w))
  | 0x14 => legal true (.vst (unpackL w))
  | 0x15 => legal true (.vstr (unpackL w))
  | 0x16 => legal true (.vstb (unpackL w))
  | 0x20 => legal true (.amoadd (unpackL w))
  | 0x21 => legal true (.amomin (unpackL w))
  | 0x22 => legal true (.amomax (unpackL w))
  | 0x23 => legal true (.amoswp (unpackL w))
  | 0x24 => legal true (.amocas (unpackL w))
  | 0x25 => legal true (.amoand (unpackL w))
  | 0x26 => legal true (.amoor (unpackL w))
  | 0x27 => legal true (.amofadd (unpackL w))
  | 0x30 => legal true (.flush (unpackL w))
  | 0x31 => legal true (.inval (unpackL w))
  | 0x32 => legal true (.pref (unpackL w))
  | 0x33 => legal true (.tagq (unpackL w))
  | 0x34 => legal true (.ldpeek (unpackL w))
  | _ => .error .opRsv

/-- R43, R61: the E slot's instruction. -/
def decodeE (w : BitVec 48) : Except DecodeError Instr :=
  match (w.extractLsb' 41 7).toNat with
  | 0 => .error .opZero
  | 0x01 => legal (fixedDescMem w) (.dld (unpackDescMem w))
  | 0x02 => legal (fixedDescMem w) (.dst (unpackDescMem w))
  | 0x03 =>
    match (w.extractLsb' 32 1).toNat with
    | 0 => legal (fixedDSetS w) (.dset (unpackDSetS w))
    | _ => legal (fixedDSetA w) (.dsetA (unpackDSetA w))
  | 0x04 => legal (fixedDGet w) (.dget (unpackDGet w))
  | 0x08 => legal (fixedFence w) (.fence (unpackFence w))
  | 0x09 => legal (fixedWaitTl w) (.waittl (unpackWaitTl w))
  | 0x0A => legal (fixedTlRead w) (.tlread (unpackTlRead w))
  | 0x10 => legal true (.tmul (unpackTile w))
  | 0x11 => legal true (.tmac (unpackTile w))
  | 0x12 => legal true (.tmap (unpackTile w))
  | 0x13 => legal true (.tzip (unpackTile w))
  | 0x14 => legal true (.tred (unpackTile w))
  | 0x15 => legal true (.txpose (unpackTile w))
  | 0x16 => legal true (.tcvt (unpackTile w))
  | 0x17 => legal true (.tcopy (unpackTile w))
  | 0x18 =>
    match (w.extractLsb' 40 1).toNat with
    | 0 => legal (fixedForceH w) (.forceHandle (unpackForceH w))
    | _ => legal (fixedForceR w) (.forceRegion (unpackForceR w))
  | 0x19 => legal (fixedTStore w) (.tstore (unpackTStore w))
  | 0x1A => legal (fixedTDrop w) (.tdrop (unpackTDrop w))
  | 0x1B =>
    match (w.extractLsb' 28 2).toNat with
    | 0 => legal (fixedTStatN w) (.tstatNode (unpackTStatN w))
    | 1 => legal (fixedTStatT w) (.tstatTable (unpackTStatT w))
    | 2 => legal (fixedTStatD w) (.tstatDefer (unpackTStatD w))
    | _ => .error .fldRsv
  | 0x20 =>
    match (w.extractLsb' 35 1).toNat with
    | 0 => legal (fixedCpyB w) (.cpyByte (unpackCpyB w))
    | _ => legal (fixedCpyT w) (.cpyTile (unpackCpyT w))
  | 0x21 => legal (fixedCpyIdx w) (.cpyg (unpackCpyIdx w))
  | 0x22 => legal (fixedCpyIdx w) (.cpys (unpackCpyIdx w))
  | 0x23 => legal (fixedCpStor w) (.cpstor (unpackCpStor w))
  | 0x24 => legal (fixedSleep w) (.sleepto (unpackSleep w))
  | 0x28 => pmovOf (fixedPmov w) (unpackPmov w)
  | 0x29 => legal (fixedPrd w) (.prd (unpackPrd w))
  | 0x30 => legal (fixedWalk w) (.walk (unpackWalk w))
  | 0x31 =>
    match (w.extractLsb' 22 2).toNat with
    | 0 => legal (fixedBatonW w) (.batonWait (unpackBatonW w))
    | 1 => legal (fixedBatonG w) (.batonGive (unpackBatonG w))
    | 2 => legal (fixedBatonS w) (.batonStat (unpackBatonS w))
    | _ => .error .fldRsv
  | 0x32 => legal (fixedNSend w) (.nsend (unpackNSend w))
  | 0x33 => legal (fixedNMcast w) (.nmcast (unpackNMcast w))
  | 0x38 => legal (fixedRelay w) (.relay (unpackRelay w))
  | 0x39 =>
    match (w.extractLsb' 28 2).toNat with
    | 0 => legal (fixedRlStat w) (.rlstat (unpackRlStat w))
    | 1 => legal (fixedRlWhy w) (.rlstatWhy (unpackRlWhy w))
    | _ => .error .fldRsv
  | 0x40 => legal (fixedHurdle w) (.harrive (unpackHurdle w))
  | 0x41 => legal (fixedHurdle w) (.hwait (unpackHurdle w))
  | 0x42 => legal (fixedHurdle w) (.harw (unpackHurdle w))
  | 0x43 => legal (fixedTqPush w) (.tqpush (unpackTqPush w))
  | 0x44 => legal (fixedTqCancel w) (.tqcancel (unpackTqCancel w))
  | 0x45 =>
    match (w.extractLsb' 28 2).toNat with
    | 0 => legal (fixedJobWait w) (.jobwaitWait (unpackJobWait w))
    | 1 => legal (fixedJobRd w) (.jobwaitRd (unpackJobRd w))
    | _ => .error .fldRsv
  | 0x46 => legal (fixedEvPost w) (.evpost (unpackEvPost w))
  | 0x47 => legal (fixedEvWait w) (.evwait (unpackEvWait w))
  | 0x48 =>
    match (w.extractLsb' 34 2).toNat with
    | 0 => legal (fixedKLaunchX w) (.klaunchX (unpackKLaunchX w))
    | 1 => legal (fixedKLaunchK w) (.klaunchK (unpackKLaunchK w))
    | 2 => legal (fixedKLaunchR w) (.klaunchR (unpackKLaunchR w))
    | _ => .error .fldRsv
  | 0x49 =>
    match (w.extractLsb' 18 2).toNat with
    | 0 => legal (fixedEmit w) (.syscallEmit (unpackEmit w))
    | 1 => legal (fixedFlush w) (.syscallFlush (unpackFlush w))
    | 2 => legal (fixedFree w) (.syscallFree (unpackFree w))
    | _ => .error .fldRsv
  | 0x4A => legal (fixedSrGen w) (.srgen (unpackSrGen w))
  | _ => .error .opRsv
/-- The instruction of a slot word. -/
def decodeSlot : SlotWord → Except DecodeError Instr
  | .s w => decodeS w
  | .v w => decodeV w
  | .f w => decodeF w
  | .m w => decodeM w
  | .l w => decodeL w
  | .e w => decodeE w

/-! ## Bytes (00_scope.md: little-endian) -/

/-- The number a byte list holds, first byte lowest. -/
def leNat : List Byte → Nat
  | [] => 0
  | b :: bs => b.toNat + 256 * leNat bs

/-- The `n` bytes of a number, lowest first. -/
def leBytes : Nat → Nat → List Byte
  | 0, _ => []
  | n + 1, x => BitVec.ofNat 8 x :: leBytes n (x / 256)

/-- R24: the width of slot `i` in bytes. -/
def slotBytes (i : Nat) : Nat := if i == 5 || i == 6 then 4 else 6

/-- R24: the word of slot `i` from its number. -/
def slotWord (i : Nat) (w : Nat) : SlotWord :=
  match i with
  | 0 | 1 => .s (BitVec.ofNat 48 w)
  | 2 | 3 | 4 => .v (BitVec.ofNat 48 w)
  | 5 => .f (BitVec.ofNat 32 w)
  | 6 => .m (BitVec.ofNat 32 w)
  | 7 | 8 => .l (BitVec.ofNat 48 w)
  | _ => .e (BitVec.ofNat 48 w)

/-- The first legal reading among slot words. -/
def firstLegal : List SlotWord → Option Instr
  | [] => none
  | w :: ws =>
    match decodeSlot w with
    | .ok i => some i
    | .error _ => firstLegal ws

/-- The slot words that `bytes` can be, in the order they are tried: a slot word does not carry its
slot, which the bundle's header gives (R24). 32 bits: F, then M; 48 bits: S, V, L, E (log entry 5). -/
def slotReadings (bytes : List Byte) : List SlotWord :=
  match bytes.length with
  | 4 => [.f (BitVec.ofNat 32 (leNat bytes)), .m (BitVec.ofNat 32 (leNat bytes))]
  | 6 => [.s (BitVec.ofNat 48 (leNat bytes)), .v (BitVec.ofNat 48 (leNat bytes)),
          .l (BitVec.ofNat 48 (leNat bytes)), .e (BitVec.ofNat 48 (leNat bytes))]
  | _ => []

/-- The instruction read from a slot of `nbits` bits whose bits are `w`. -/
def decodeTableWord (nbits w : Nat) : Option Instr :=
  firstLegal (slotReadings (leBytes (nbits / 8) w))

/-! ## Registers an instruction names (R31, R33, R44) -/

/-- The register files of R44 that an instruction names. -/
inductive RegFile where
  | s | a | v | q | d
  deriving DecidableEq, Repr

/-- One register read: its file and number, its named-file operand number (R33), whether its f bit
traps (R50), whether the register is only named (FETEST, R164), and whether the predicate's group
widens it (R169). -/
structure RegRead where
  file : RegFile
  num : Nat
  port : Option Nat := none
  trap : Bool := false
  nameOnly : Bool := false
  grouped : Bool := false
  deriving DecidableEq, Repr

/-- R31, R36: the named-scalar read of a specifier, if it is one. -/
def specRead (spec : BitVec 6) (port : Nat) (f : BitVec 1 := 0) : List RegRead :=
  if 1 ≤ spec.toNat && spec.toNat ≤ 31 then
    [{ file := .s, num := spec.toNat, port := some port, trap := f == 1 }]
  else []

/-- R33: a scalar named directly by a field, with its port, unless it is s0. -/
def scalarRead (n port : Nat) : List RegRead :=
  if n == 0 then [] else [{ file := .s, num := n, port := some port }]

/-- An address register (R37: no port). -/
def addrRead (n : Nat) (f : BitVec 1 := 0) : RegRead := { file := .a, num := n, trap := f == 1 }

/-- A descriptor register (R52: interlocked). -/
def descRead (d : BitVec 4) : RegRead := { file := .d, num := d.toNat }

/-- R35: the two specifiers of an S slot. -/
def SFields.reads (f : SFields) : List RegRead := specRead f.a 0 f.fA ++ specRead f.b 1 f.fB
/-- R37: a[A] and the specifier B. -/
def SFields.readsAddr (f : SFields) : List RegRead := addrRead f.a.toNat f.fA :: specRead f.b 1 f.fB

/-- R178: the row of an opcode in the V table. -/
def Instr.vRow : Instr → Option (VFields × VRow)
  | .vadd f | .vsub f | .vmul f | .vfma f => some (f, { m2 := true })
  | .vmin f | .vmax f | .vand f | .vor f | .vxor f | .vshl f | .vshr f | .vsra f
  | .vcmpeq f | .vcmplt f | .vcmple f | .vsel f => some (f, {})
  | .vabs f | .vneg f | .vscan f | .vmov f => some (f, { sc := .none })
  | .vrsum f | .vrmax f | .vrmin f | .vrcnt f => some (f, { vd := .scalar, sc := .scalar })
  | .vcoal f => some (f, { sc := .none, q := .q0 })
  | .vruns f | .vlen f => some (f, { vd := .scalar, sc := .none, q := .q0 })
  | .vsplat f => some (f, { va := .zero, sc := .scalar })
  | .viota f | .vtrim f => some (f, { sc := .scalar, q := .q0 })
  | .vslide f => some (f, { sc := .scalar })
  | .vext f => some (f, { vd := .scalar, sc := .scalar, q := .q0 })
  | .vins f => some (f, { va := .zero, sc := .scalar, q := .named })
  | .vacc f => some (f, { va := .acc, sc := .scalar, q := .q0 })
  | .vaccw f => some (f, { vd := .acc, sc := .scalar, q := .q0 })
  | .qset f => some (f, { vd := .pred, va := .zero, sc := .scalar, q := .q0 })
  | .qfromv f => some (f, { vd := .pred, sc := .none, q := .q0 })
  | .qmin f => some (f, { vd := .pred, va := .zero, sc := .scalar, q := .source })
  | .qget f => some (f, { vd := .scalar, va := .zero, sc := .none, q := .source })
  | _ => none

/-- R33, R178: a V slot's reads. `addend` says that vd is read whatever the predicate (VFMA, VSEL). -/
def VFields.reads (f : VFields) (r : VRow) (addend : Bool) : List RegRead :=
  let grouped := r.q == .any || r.q == .named
  let readsSc := r.sc == .scalar || (r.sc == .either && f.bcast)
  (if r.va == .vec then
      [{ file := .v, num := f.va.toNat, port := some 0, trap := f.fA == 1, grouped }] else [])
    ++ (if r.sc == .either && !f.bcast then
      [{ file := .v, num := f.vb.toNat, port := some 1, trap := f.fB == 1, grouped }] else [])
    ++ (if readsSc then specRead f.sc 0 f.fB else [])
    ++ (if r.vd == .vec && (addend || f.q != 0) then
      [{ file := .v, num := f.vd.toNat, port := some 2, grouped }] else [])
    ++ (if f.q != 0 then [{ file := .q, num := f.q.toNat }] else [])

/-- R33, R196: an F slot's reads. -/
def FFields.reads (f : FFields) (codebook : Bool) : List RegRead :=
  (if f.vec then
      [{ file := .v, num := f.src.toNat % 32, port := some 0, trap := f.f == 1, grouped := !codebook }]
    else if f.src == 0 then []
    else [{ file := .s, num := f.src.toNat, port := some 0, trap := f.f == 1 }])
    ++ (if codebook then [addrRead (8 + f.q.toNat)]
        else if f.q != 0 then [{ file := .q, num := f.q.toNat }] else [])

/-- The address register of an L slot's base. -/
def LFields.baseRead (f : LFields) : RegRead := addrRead f.base.toNat

/-- R33, R43: every register an instruction reads at issue. -/
def Instr.reads : Instr → List RegRead
  | .limm _ | .limmh _ | .aimm _ | .br _ | .call _ => []
  | .brz f | .brnz f | .ret f => scalarRead f.dst.toNat 0
  | .aadd f | .asub f | .amov f | .asplit f => f.readsAddr
  | .fetest f =>
    match f.mA.toNat with
    | 0 => if f.a == 0 then [] else [{ file := .s, num := f.a.toNat, nameOnly := true }]
    | 1 => [{ file := .a, num := f.a.toNat, nameOnly := true }]
    | _ => [{ file := .v, num := f.a.toNat, nameOnly := true }]
  | .setempty _ | .trap _ | .tret _ | .rdsys _ | .rdtime _ | .laprd _ => []
  | .add f | .sub f | .mul f | .mulh f | .mulhu f | .div f | .divu f | .rem f | .remu f
  | .and f | .or f | .xor f | .andn f | .shl f | .shr f | .sra f | .rot f
  | .min f | .max f | .minu f | .maxu f | .clz f | .popc f | .cmpeq f | .cmpne f | .cmplt f
  | .cmpltu f | .cmple f | .cmpleu f | .sel f | .mov f | .padd f | .psub f | .padds f | .psubs f
  | .paddsn f | .psubsn f | .pmul f | .pmulh f | .pmin f | .pmax f | .pabsd f | .pdot f | .pavg f
  | .ppack f | .pwiden f | .pshuf f | .ajoin f | .fadd f | .fsub f | .fmul f | .fmin f | .fmax f
  | .fcmplt f | .fcmpeq f | .fcvt f | .loop f | .wrsys f | .taddrWrite f | .rtgtWrite f => f.reads
  | .fexp f | .fexp2 f | .flog2 f | .frcp f | .frsq f | .fsqrt f | .ftanh f | .fsigm f | .fsin f
  | .fcos f | .fconv f | .fqnt f | .fdqt f | .frnd f => f.reads false
  | .fcbe f | .fcbd f => f.reads true
  | .mpush f | .macc f | .mdrain f => [descRead f.d]
  | .mshift _ | .mclr _ | .mchain _ | .mend _ => []
  | .ldb f | .ldbs f | .ldh f | .ldhs f | .ldw f | .lda f | .vld f | .vldr f | .vldb f | .flush f
  | .inval f | .pref f | .tagq f | .ldpeek f => [f.baseRead]
  | .stb f | .sth f | .stw f | .amoadd f | .amomin f | .amomax f | .amoswp f | .amoand f | .amoor f
  | .amofadd f => f.baseRead :: scalarRead f.reg.toNat 0
  | .amocas f => f.baseRead :: scalarRead f.reg.toNat 0 ++ scalarRead (f.reg.toNat + 1) 1
  | .sta f => [f.baseRead, addrRead f.reg.toNat]
  | .vst f | .vstr f | .vstb f => [f.baseRead, { file := .v, num := f.reg.toNat, port := some 0 }]
  | .dld f => [addrRead f.am.toNat]
  | .dst f => [addrRead f.am.toNat, descRead f.dn]
  | .dset f => descRead f.dn :: specRead f.sp 0
  | .dsetA f => [descRead f.dn, addrRead f.am.toNat]
  | .dget f => [descRead f.dn]
  | .fence _ | .tlread _ | .tstatTable _ | .tstatDefer _ | .prd _ | .evwait _ | .syscallFlush _
  | .syscallFree _ => []
  | .waittl f => specRead f.target 0
  | .tmul f | .tzip f => [descRead f.dD, descRead f.dA, descRead f.dB]
  | .tmac f => [descRead f.dD, descRead f.dA, descRead f.dB]
  | .tmap f => [descRead f.dD, descRead f.dA] ++ specRead f.p 0
  | .tred f | .txpose f | .tcvt f | .tcopy f => [descRead f.dD, descRead f.dA]
  | .forceHandle f | .tdrop f => specRead f.h 0
  | .forceRegion f => [descRead f.dn]
  | .tstore f => [descRead f.dD, descRead f.dA]
  | .tstatNode f | .tqcancel f | .rlstat f | .rlstatWhy f | .jobwaitRd f => specRead f.h 0
  | .cpyByte f => [addrRead f.x.toNat, addrRead f.y.toNat] ++ specRead f.len 0
  | .cpyTile f => [descRead f.x, descRead f.y]
  | .cpyg f | .cpys f => [descRead f.dD, descRead f.dA, addrRead f.ai.toNat] ++ specRead f.n 0
  | .cpstor f => [addrRead f.ad.toNat, addrRead f.al.toNat] ++ specRead f.count 0
  | .sleepto f => specRead f.time 0
  | .pmovTranspose f | .pmovConvert f | .pmovDecode f => [descRead f.dD, descRead f.dA]
  | .pmovEncode f => [descRead f.dD, descRead f.dA] ++ specRead f.sc 0
  | .pmovConfig f => specRead f.sc 0
  | .walk f => [descRead f.dn, addrRead f.aw.toNat]
  | .batonWait f | .batonGive f | .batonStat f => specRead f.h 0 ++ specRead f.k 1
  | .nsend f => [descRead f.dD, descRead f.dA] ++ specRead f.peer 0
  | .nmcast f => [descRead f.dD, descRead f.dA, addrRead f.al.toNat] ++ specRead f.count 0
  | .relay f => [addrRead f.ar.toNat]
  | .harrive f | .hwait f | .harw f => addrRead f.ah.toNat :: specRead f.q 0
  | .tqpush f => addrRead f.at'.toNat :: specRead f.q 0
  | .jobwaitWait f => specRead f.j 0
  | .evpost f => specRead f.c 0 ++ specRead f.v 1
  | .klaunchX f => [addrRead f.ar.toNat]
  | .klaunchK f => addrRead f.ar.toNat :: specRead f.sp 0
  | .klaunchR f => specRead f.sp 0
  | .syscallEmit f => specRead f.value 0 ++ specRead f.stream 1
  | .srgen f => [addrRead f.ak.toNat, addrRead f.ac.toNat]
  | .vfma f => f.reads {} true
  | .vsel f => f.reads {} true
  | .qfromv f =>
    [{ file := .v, num := f.va.toNat, port := some 0, trap := f.fA == 1, grouped := true }]
  | i =>
    match i.vRow with
    | some (f, r) => f.reads r false
    | none => []

/-- One register written: its file and number, and whether the predicate's group widens it (R169). -/
structure RegWrite where
  file : RegFile
  num : Nat
  grouped : Bool := false
  deriving DecidableEq, Repr

/-- A scalar destination; s0 is none (R48). -/
def scalarWrite (n : Nat) : List RegWrite := if n == 0 then [] else [{ file := .s, num := n }]

/-- R178: a V slot's destination. -/
def VFields.writes (f : VFields) (r : VRow) : List RegWrite :=
  match r.vd with
  | .vec => [{ file := .v, num := f.vd.toNat, grouped := r.q == .any || r.q == .named }]
  | .scalar => scalarWrite f.vd.toNat
  | .pred => [{ file := .q, num := f.vd.toNat }]
  | .acc => []

/-- R40: an F slot's destination; a result to s0 is discarded. -/
def FFields.writes (f : FFields) (grouped : Bool) : List RegWrite :=
  if f.dst.getLsbD 5 then [{ file := .v, num := f.dst.toNat % 32, grouped }]
  else scalarWrite f.dst.toNat

/-- R33 to R37, R42, R43: every register an instruction names as a destination. -/
def Instr.writes : Instr → List RegWrite
  | .limm f | .limmh f | .call f => scalarWrite f.dst.toNat
  | .aimm f => [{ file := .a, num := f.dst.toNat }]
  | .aadd f | .asub f | .amov f | .ajoin f => [{ file := .a, num := f.dst.toNat }]
  | .br _ | .brz _ | .brnz _ | .ret _ | .loop _ | .trap _ | .tret _ => []
  | .wrsys _ | .taddrWrite _ | .rtgtWrite _ => []
  | .setempty f =>
    match f.mA.toNat with
    | 0 => scalarWrite f.dst.toNat
    | 1 => [{ file := .a, num := f.dst.toNat }]
    | _ => [{ file := .v, num := f.dst.toNat }]
  | .add f | .sub f | .mul f | .mulh f | .mulhu f | .div f | .divu f | .rem f | .remu f
  | .and f | .or f | .xor f | .andn f | .shl f | .shr f | .sra f | .rot f
  | .min f | .max f | .minu f | .maxu f | .clz f | .popc f | .cmpeq f | .cmpne f | .cmplt f
  | .cmpltu f | .cmple f | .cmpleu f | .sel f | .mov f | .padd f | .psub f | .padds f | .psubs f
  | .paddsn f | .psubsn f | .pmul f | .pmulh f | .pmin f | .pmax f | .pabsd f | .pdot f | .pavg f
  | .ppack f | .pwiden f | .pshuf f | .asplit f | .fadd f | .fsub f | .fmul f | .fmin f | .fmax f
  | .fcmplt f | .fcmpeq f | .fcvt f | .rdsys f | .rdtime f | .fetest f | .laprd f =>
    scalarWrite f.dst.toNat
  | .fexp f | .fexp2 f | .flog2 f | .frcp f | .frsq f | .fsqrt f | .ftanh f | .fsigm f | .fsin f
  | .fcos f | .fconv f | .fqnt f | .fdqt f | .frnd f => f.writes true
  | .fcbe f | .fcbd f => f.writes false
  | .mpush _ | .macc _ | .mshift _ | .mdrain _ | .mclr _ | .mchain _ | .mend _ => []
  | .ldb f | .ldbs f | .ldh f | .ldhs f | .ldw f | .tagq f | .amoadd f | .amomin f | .amomax f
  | .amoswp f | .amocas f | .amoand f | .amoor f | .amofadd f => scalarWrite f.reg.toNat
  | .lda f => [{ file := .a, num := f.reg.toNat }]
  | .vld f | .vldr f | .vldb f => [{ file := .v, num := f.reg.toNat }]
  | .ldpeek f => scalarWrite f.reg.toNat ++ scalarWrite (f.reg.toNat + 1)
  | .dld f => [{ file := .d, num := f.dn.toNat }]
  | .dset f => [{ file := .d, num := f.dn.toNat }]
  | .dsetA f => [{ file := .d, num := f.dn.toNat }]
  | .dget f => scalarWrite f.sd.toNat
  | .tlread f => scalarWrite f.dst.toNat
  | .tmul f | .tmac f | .tmap f | .tzip f | .tred f | .txpose f | .tcvt f | .tcopy f =>
    scalarWrite f.hd.toNat
  | .tstatNode f | .tqcancel f | .rlstat f | .rlstatWhy f | .jobwaitRd f => scalarWrite f.sd.toNat
  | .tstatTable f => scalarWrite f.sd.toNat
  | .tstatDefer f => scalarWrite f.sd.toNat
  | .cpyByte f => scalarWrite f.ps.toNat
  | .cpyTile f => scalarWrite f.ps.toNat
  | .cpyg f | .cpys f => scalarWrite f.ps.toNat
  | .cpstor f => scalarWrite f.ps.toNat
  | .prd f => scalarWrite f.sd.toNat
  | .walk f => scalarWrite f.hd.toNat
  | .batonWait f | .batonGive f | .batonStat f => scalarWrite f.sd.toNat
  | .relay f => scalarWrite f.hd.toNat
  | .harrive f | .hwait f | .harw f => scalarWrite f.sd.toNat
  | .tqpush f => scalarWrite f.sd.toNat
  | .evwait f => scalarWrite f.sd.toNat ++ scalarWrite (f.sd.toNat + 1)
  | .klaunchX f | .klaunchK f | .klaunchR f => scalarWrite f.sd.toNat
  | .syscallEmit f => scalarWrite f.sd.toNat
  | .syscallFree f => scalarWrite f.sd.toNat
  | i =>
    match i.vRow with
    | some (f, r) => f.writes r
    | none => []

/-- R38: a control opcode, 0x40 to 0x47 of the S slot. -/
def Instr.isControl : Instr → Bool
  | .br _ | .brz _ | .brnz _ | .call _ | .ret _ | .loop _ | .trap _ | .tret _ => true
  | _ => false

/-- R28, R38: a transfer with a delay bundle. -/
def Instr.isTransfer : Instr → Bool
  | .br _ | .brz _ | .brnz _ | .call _ | .ret _ => true
  | _ => false

/-- R403: an RDSYS or WRSYS that only a CCC context may issue. -/
def Instr.namesCccRegister : Instr → Bool
  | .rdsys f | .wrsys f => 0x100 ≤ f.sysNum
  | .rtgtWrite _ => true
  | _ => false

/-! ## Bundles (R24 to R34, R58) -/

/-- The header's mask, by slot number. -/
def hdrMask (h : BitVec 64) (i : Nat) : Bool := h.getLsbD i
/-- Y. -/
def hdrY (h : BitVec 64) : Bool := h.getLsbD 10
/-- X. -/
def hdrX (h : BitVec 64) : Bool := h.getLsbD 11
/-- B. -/
def hdrB (h : BitVec 64) : Bool := h.getLsbD 12
/-- LE. -/
def hdrLE (h : BitVec 64) : Bool := h.getLsbD 13
/-- The mask is zero: an idle bundle (R29). -/
def hdrIdle (h : BitVec 64) : Bool := h.extractLsb' 0 10 == 0
/-- SP0 to SP3 (R27). -/
def hdrSP (h : BitVec 64) : List (BitVec 5) :=
  [h.extractLsb' 32 5, h.extractLsb' 37 5, h.extractLsb' 42 5, h.extractLsb' 47 5]
/-- VP0 to VP4 (R27). -/
def hdrVP (h : BitVec 64) : List (BitVec 5) :=
  [h.extractLsb' 14 5, h.extractLsb' 19 5, h.extractLsb' 24 5, h.extractLsb' 52 5, h.extractLsb' 57 5]

/-- A bundle whose slots all decode: header, length in bytes, and its slots in commit order (R26). -/
structure Bundle where
  hdr : BitVec 64
  len : Nat
  slots : List (Nat × Instr)
  deriving DecidableEq, Repr

/-- R25: the words of the present slots, from slot `i` on; none when they run past the bytes. -/
def slotWords (h : BitVec 64) : (fuel i : Nat) → List Byte → Option (List (Nat × SlotWord))
  | 0, _, _ => some []
  | fuel + 1, i, bs =>
    if hdrMask h i then
      if bs.length < slotBytes i then none
      else (slotWords h fuel (i + 1) (bs.drop (slotBytes i))).map
        ((i, slotWord i (leNat (bs.take (slotBytes i)))) :: ·)
    else slotWords h fuel (i + 1) bs

/-- R24: the bundle's length in bytes. -/
def bundleLen (h : BitVec 64) : Nat :=
  8 + ((List.range 10).map fun i => if hdrMask h i then slotBytes i else 0).sum

/-- One reason for ILLENC: subcode and slot (R58). -/
abbrev Illegal := Nat × Nat

/-- R32: what an allotment field says: unused, a slot and operand, or no legal code. -/
inductive Allot where
  | unused | read (slot operand : Nat) | bad
  deriving DecidableEq, Repr

/-- R32: a scalar allotment. -/
def spAllot (f : BitVec 5) : Allot :=
  let code := f.toNat / 2
  if code == 15 then (if f.toNat % 2 == 0 then .unused else .bad)
  else if 10 ≤ code then .bad else .read code (f.toNat % 2)

/-- R32: a vector allotment. Codes 0 to 5 are V0, V1, V2, F, L0 and L1. -/
def vpAllot (f : BitVec 5) : Allot :=
  let code := f.toNat / 4
  let operand := f.toNat % 4
  if code == 7 then (if operand == 0 then .unused else .bad)
  else if code == 6 || operand == 3 then .bad
  else .read (match code with | 0 => 2 | 1 => 3 | 2 => 4 | 3 => 5 | 4 => 7 | _ => 8) operand

/-- R31, R33: the named-file reads of one file, as (slot, operand). -/
def portReads (file : RegFile) (slots : List (Nat × Instr)) : List (Nat × Nat) :=
  slots.flatMap fun (i, ins) => ins.reads.filterMap fun r =>
    if r.file == file then r.port.map (Prod.mk i) else none

/-- R34: what one file's allotments break. Where R58 does not say which slot the record names, it is the
absent slot for PORTABS and 15 for PORTCODE (DESIGN CHOICE, notes/assumptions/44.md). -/
def portIllegal (file : RegFile) (h : BitVec 64) (allots : List Allot) (slots : List (Nat × Instr)) :
    List Illegal :=
  let need := portReads file slots
  let named := allots.filterMap fun | .read s o => some (s, o) | _ => none
  (need.filterMap fun k => if named.contains k then none else some (0x05, k.1))
    ++ (need.filterMap fun k => if 2 ≤ named.count k then some (0x06, k.1) else none)
    ++ (named.filterMap fun k => if hdrMask h k.1 then none else some (0x07, k.1))
    ++ (named.filterMap fun k =>
          if hdrMask h k.1 && !need.contains k then some (0x08, k.1) else none)
    ++ (if allots.contains .bad then [(0x09, 15)] else [])

/-- R48: the registers the bundle's earlier slots write, against those of later slots. -/
def dualIllegal : List (Nat × Instr) → List Illegal
  | [] => []
  | (i, ins) :: rest =>
    (if ins.writes.any fun w => w.file != .d &&
        rest.any fun (_, j) => j.writes.any fun w' => w'.file == w.file && w'.num == w.num
      then [(0x0A, i)] else []) ++ dualIllegal rest

/-- The smaller of two reasons: lowest subcode, then lowest slot (R58). -/
def Illegal.least (a b : Illegal) : Illegal :=
  if a.1 < b.1 || (a.1 == b.1 && a.2 ≤ b.2) then a else b

/-- R58: the reason the record names. -/
def leastIllegal : List Illegal → Option Illegal
  | [] => none
  | a :: as =>
    match leastIllegal as with
    | none => some a
    | some b => some (Illegal.least a b)

/-- R58, subcodes 0x01 to 0x03 of one slot word. -/
def slotIllegal (ccc xOrLe : Bool) (i : Nat) (w : SlotWord) : List Illegal :=
  match decodeSlot w with
  | .error .opZero => [(0x01, i)]
  | .error .opRsv => [(0x02, i)]
  | .error .fldRsv => [(0x03, i)]
  | .ok ins =>
    if (ins.namesCccRegister && !ccc) || (ins.isControl && !ins.isTransfer && xOrLe) then [(0x03, i)]
    else []

/-- R27 to R29: reserved header bits and header combinations, subcode 0x04. -/
def headerIllegal (h : BitVec 64) : List Illegal :=
  let resv := if hdrIdle h then h.extractLsb' 14 4 != 0 || h.extractLsb' 38 26 != 0
    else h.extractLsb' 62 2 != 0 || h.extractLsb' 29 3 != 0
  if resv || (hdrX h && (hdrY h || hdrLE h)) then [(0x04, 15)] else []

/-- R38, R58: subcodes 0x0B to 0x0D. BRHDR names the transfer's slot (DESIGN CHOICE, notes/assumptions/44.md). -/
def placeIllegal (ccc delay : Bool) (h : BitVec 64) (slots : List (Nat × Instr)) : List Illegal :=
  (slots.filterMap fun (i, ins) => if ins.isControl && i != 1 then some (0x0B, i) else none)
    ++ (if ccc then
          (([2, 3, 4, 5, 6, 8] : List Nat).filterMap fun i =>
            if hdrMask h i then some (0x0B, i) else none)
            ++ (if (hdrVP h).any (· != 28) then [(0x0B, 15)] else [])
        else [])
    ++ (if delay then
          slots.filterMap fun (i, ins) => if ins.isControl then some (0x0C, i) else none
        else [])
    ++ (if hdrX h || hdrLE h then
          slots.filterMap fun (i, ins) => if ins.isTransfer then some (0x0D, i) else none
        else [])

/-- The slots that decode. -/
def decodedSlots (ws : List (Nat × SlotWord)) : List (Nat × Instr) :=
  ws.filterMap fun (i, w) => match decodeSlot w with | .ok ins => some (i, ins) | .error _ => none

/-- What the bytes from a bundle's address on hold. -/
inductive Fetched where
  /-- R76: a header or slots that run past the code. -/
  | truncated
  /-- R58: an illegal encoding, with subcode and slot. -/
  | illegal (sub slot : Nat)
  /-- R29: an idle bundle. -/
  | idle (hdr : BitVec 64) (n : BitVec 20)
  /-- A legal bundle. -/
  | bundle (b : Bundle)
  deriving DecidableEq, Repr

/-- R24 to R29, R58: the bundle at the head of `bytes`, which are the code's bytes from the bundle's
address on. `ccc`: the unit is a CCC; `delay`: it issues in a delay position; `done`: the slots that have
committed, whose encodings are not tested again (R160). -/
def decodeBundle (ccc delay : Bool) (bytes : List Byte) (done : BitVec 10 := 0) : Fetched :=
  if bytes.length < 8 then .truncated
  else
    let h := BitVec.ofNat 64 (leNat (bytes.take 8))
    if hdrIdle h then
      match headerIllegal h with
      | [] => .idle h (h.extractLsb' 18 20)
      | e :: _ => .illegal e.1 e.2
    else
      match slotWords h 10 0 (bytes.drop 8) with
      | none => .truncated
      | some ws =>
        let slots := decodedSlots ws
        let errs := (ws.flatMap fun (i, w) => slotIllegal ccc (hdrX h || hdrLE h) i w)
          ++ headerIllegal h
          ++ portIllegal .s h ((hdrSP h).map spAllot) slots
          ++ portIllegal .v h ((hdrVP h).map vpAllot) slots
          ++ dualIllegal slots ++ placeIllegal ccc delay h slots
        match leastIllegal (errs.filter fun e => !done.getLsbD e.2) with
        | some e => .illegal e.1 e.2
        | none => .bundle { hdr := h, len := bundleLen h, slots }

/-! ## Encoding -/

/-- R35 to R43, R61: the word of a slot instruction; a step that no slot holds has none. -/
def encode : Instr → Option SlotWord
  | .add f => some (.s (packS 0x01 f))
  | .sub f => some (.s (packS 0x02 f))
  | .mul f => some (.s (packS 0x03 f))
  | .mulh f => some (.s (packS 0x04 f))
  | .mulhu f => some (.s (packS 0x05 f))
  | .div f => some (.s (packS 0x06 f))
  | .divu f => some (.s (packS 0x07 f))
  | .rem f => some (.s (packS 0x08 f))
  | .remu f => some (.s (packS 0x09 f))
  | .and f => some (.s (packS 0x0A f))
  | .or f => some (.s (packS 0x0B f))
  | .xor f => some (.s (packS 0x0C f))
  | .andn f => some (.s (packS 0x0D f))
  | .shl f => some (.s (packS 0x0E f))
  | .shr f => some (.s (packS 0x0F f))
  | .sra f => some (.s (packS 0x10 f))
  | .rot f => some (.s (packS 0x11 f))
  | .min f => some (.s (packS 0x12 f))
  | .max f => some (.s (packS 0x13 f))
  | .minu f => some (.s (packS 0x14 f))
  | .maxu f => some (.s (packS 0x15 f))
  | .clz f => some (.s (packS 0x16 f))
  | .popc f => some (.s (packS 0x17 f))
  | .cmpeq f => some (.s (packS 0x18 f))
  | .cmpne f => some (.s (packS 0x19 f))
  | .cmplt f => some (.s (packS 0x1A f))
  | .cmpltu f => some (.s (packS 0x1B f))
  | .cmple f => some (.s (packS 0x1C f))
  | .cmpleu f => some (.s (packS 0x1D f))
  | .sel f => some (.s (packS 0x1E f))
  | .mov f => some (.s (packS 0x1F f))
  | .padd f => some (.s (packS 0x20 f))
  | .psub f => some (.s (packS 0x21 f))
  | .padds f => some (.s (packS 0x22 f))
  | .psubs f => some (.s (packS 0x23 f))
  | .paddsn f => some (.s (packS 0x24 f))
  | .psubsn f => some (.s (packS 0x25 f))
  | .pmul f => some (.s (packS 0x26 f))
  | .pmulh f => some (.s (packS 0x27 f))
  | .pmin f => some (.s (packS 0x28 f))
  | .pmax f => some (.s (packS 0x29 f))
  | .pabsd f => some (.s (packS 0x2A f))
  | .pdot f => some (.s (packS 0x2B f))
  | .pavg f => some (.s (packS 0x2C f))
  | .ppack f => some (.s (packS 0x2D f))
  | .pwiden f => some (.s (packS 0x2E f))
  | .pshuf f => some (.s (packS 0x2F f))
  | .limm f => some (.s (packSImm 0x30 f))
  | .limmh f => some (.s (packSImm 0x31 f))
  | .aadd f => some (.s (packS 0x32 f))
  | .asub f => some (.s (packS 0x33 f))
  | .amov f => some (.s (packS 0x34 f))
  | .ajoin f => some (.s (packS 0x35 f))
  | .asplit f => some (.s (packS 0x36 f))
  | .aimm f => some (.s (packSImm 0x37 f))
  | .fadd f => some (.s (packS 0x38 f))
  | .fsub f => some (.s (packS 0x39 f))
  | .fmul f => some (.s (packS 0x3A f))
  | .fmin f => some (.s (packS 0x3B f))
  | .fmax f => some (.s (packS 0x3C f))
  | .fcmplt f => some (.s (packS 0x3D f))
  | .fcmpeq f => some (.s (packS 0x3E f))
  | .fcvt f => some (.s (packS 0x3F f))
  | .br f => some (.s (packSImm 0x40 f))
  | .brz f => some (.s (packSImm 0x41 f))
  | .brnz f => some (.s (packSImm 0x42 f))
  | .call f => some (.s (packSImm 0x43 f))
  | .ret f => some (.s (packSImm 0x44 f))
  | .loop f => some (.s (packS 0x45 f))
  | .trap f => some (.s (packS 0x46 f))
  | .tret f => some (.s (packS 0x47 f))
  | .rdsys f => some (.s (packS 0x48 f))
  | .wrsys f => some (.s (packS 0x49 f))
  | .taddrWrite f => some (.s (packS 0x49 f))
  | .rtgtWrite f => some (.s (packS 0x49 f))
  | .rdtime f => some (.s (packS 0x4A f))
  | .fetest f => some (.s (packS 0x4B f))
  | .setempty f => some (.s (packS 0x4C f))
  | .laprd f => some (.s (packS 0x4D f))
  | .vadd f => some (.v (packV 0x01 f))
  | .vsub f => some (.v (packV 0x02 f))
  | .vmul f => some (.v (packV 0x03 f))
  | .vfma f => some (.v (packV 0x04 f))
  | .vmin f => some (.v (packV 0x05 f))
  | .vmax f => some (.v (packV 0x06 f))
  | .vabs f => some (.v (packV 0x07 f))
  | .vneg f => some (.v (packV 0x08 f))
  | .vand f => some (.v (packV 0x09 f))
  | .vor f => some (.v (packV 0x0A f))
  | .vxor f => some (.v (packV 0x0B f))
  | .vshl f => some (.v (packV 0x0C f))
  | .vshr f => some (.v (packV 0x0D f))
  | .vsra f => some (.v (packV 0x0E f))
  | .vcmpeq f => some (.v (packV 0x10 f))
  | .vcmplt f => some (.v (packV 0x11 f))
  | .vcmple f => some (.v (packV 0x12 f))
  | .vsel f => some (.v (packV 0x13 f))
  | .vrsum f => some (.v (packV 0x18 f))
  | .vrmax f => some (.v (packV 0x19 f))
  | .vrmin f => some (.v (packV 0x1A f))
  | .vrcnt f => some (.v (packV 0x1B f))
  | .vcoal f => some (.v (packV 0x20 f))
  | .vruns f => some (.v (packV 0x21 f))
  | .vsplat f => some (.v (packV 0x22 f))
  | .viota f => some (.v (packV 0x23 f))
  | .vslide f => some (.v (packV 0x24 f))
  | .vscan f => some (.v (packV 0x25 f))
  | .vmov f => some (.v (packV 0x26 f))
  | .vext f => some (.v (packV 0x27 f))
  | .vins f => some (.v (packV 0x28 f))
  | .vlen f => some (.v (packV 0x29 f))
  | .vtrim f => some (.v (packV 0x2A f))
  | .vacc f => some (.v (packV 0x30 f))
  | .vaccw f => some (.v (packV 0x31 f))
  | .qset f => some (.v (packV 0x38 f))
  | .qfromv f => some (.v (packV 0x39 f))
  | .qmin f => some (.v (packV 0x3A f))
  | .qget f => some (.v (packV 0x3B f))
  | .fexp f => some (.f (packF 0x01 f))
  | .fexp2 f => some (.f (packF 0x02 f))
  | .flog2 f => some (.f (packF 0x03 f))
  | .frcp f => some (.f (packF 0x04 f))
  | .frsq f => some (.f (packF 0x05 f))
  | .fsqrt f => some (.f (packF 0x06 f))
  | .ftanh f => some (.f (packF 0x07 f))
  | .fsigm f => some (.f (packF 0x08 f))
  | .fsin f => some (.f (packF 0x09 f))
  | .fcos f => some (.f (packF 0x0A f))
  | .fconv f => some (.f (packF 0x10 f))
  | .fqnt f => some (.f (packF 0x11 f))
  | .fdqt f => some (.f (packF 0x12 f))
  | .fcbe f => some (.f (packF 0x13 f))
  | .fcbd f => some (.f (packF 0x14 f))
  | .frnd f => some (.f (packF 0x18 f))
  | .mpush f => some (.m (packM 0x1 f))
  | .macc f => some (.m (packM 0x2 f))
  | .mshift f => some (.m (packM 0x3 f))
  | .mdrain f => some (.m (packM 0x4 f))
  | .mclr f => some (.m (packM 0x5 f))
  | .mchain f => some (.m (packM 0x6 f))
  | .mend f => some (.m (packM 0x7 f))
  | .ldb f => some (.l (packL 0x01 f))
  | .ldbs f => some (.l (packL 0x02 f))
  | .ldh f => some (.l (packL 0x03 f))
  | .ldhs f => some (.l (packL 0x04 f))
  | .ldw f => some (.l (packL 0x05 f))
  | .lda f => some (.l (packL 0x06 f))
  | .stb f => some (.l (packL 0x08 f))
  | .sth f => some (.l (packL 0x09 f))
  | .stw f => some (.l (packL 0x0A f))
  | .sta f => some (.l (packL 0x0B f))
  | .vld f => some (.l (packL 0x10 f))
  | .vldr f => some (.l (packL 0x11 f))
  | .vldb f => some (.l (packL 0x12 f))
  | .vst f => some (.l (packL 0x14 f))
  | .vstr f => some (.l (packL 0x15 f))
  | .vstb f => some (.l (packL 0x16 f))
  | .amoadd f => some (.l (packL 0x20 f))
  | .amomin f => some (.l (packL 0x21 f))
  | .amomax f => some (.l (packL 0x22 f))
  | .amoswp f => some (.l (packL 0x23 f))
  | .amocas f => some (.l (packL 0x24 f))
  | .amoand f => some (.l (packL 0x25 f))
  | .amoor f => some (.l (packL 0x26 f))
  | .amofadd f => some (.l (packL 0x27 f))
  | .flush f => some (.l (packL 0x30 f))
  | .inval f => some (.l (packL 0x31 f))
  | .pref f => some (.l (packL 0x32 f))
  | .tagq f => some (.l (packL 0x33 f))
  | .ldpeek f => some (.l (packL 0x34 f))
  | .dld f => some (.e (packDescMem 0x01 f))
  | .dst f => some (.e (packDescMem 0x02 f))
  | .dset f => some (.e (packDSetS 0x03 f))
  | .dsetA f => some (.e (packDSetA 0x03 f))
  | .dget f => some (.e (packDGet 0x04 f))
  | .fence f => some (.e (packFence 0x08 f))
  | .waittl f => some (.e (packWaitTl 0x09 f))
  | .tlread f => some (.e (packTlRead 0x0A f))
  | .tmul f => some (.e (packTile 0x10 f))
  | .tmac f => some (.e (packTile 0x11 f))
  | .tmap f => some (.e (packTile 0x12 f))
  | .tzip f => some (.e (packTile 0x13 f))
  | .tred f => some (.e (packTile 0x14 f))
  | .txpose f => some (.e (packTile 0x15 f))
  | .tcvt f => some (.e (packTile 0x16 f))
  | .tcopy f => some (.e (packTile 0x17 f))
  | .forceHandle f => some (.e (packForceH 0x18 f))
  | .forceRegion f => some (.e (packForceR 0x18 f))
  | .tstore f => some (.e (packTStore 0x19 f))
  | .tdrop f => some (.e (packTDrop 0x1A f))
  | .tstatNode f => some (.e (packTStatN 0x1B f))
  | .tstatTable f => some (.e (packTStatT 0x1B f))
  | .tstatDefer f => some (.e (packTStatD 0x1B f))
  | .cpyByte f => some (.e (packCpyB 0x20 f))
  | .cpyTile f => some (.e (packCpyT 0x20 f))
  | .cpyg f => some (.e (packCpyIdx 0x21 f))
  | .cpys f => some (.e (packCpyIdx 0x22 f))
  | .cpstor f => some (.e (packCpStor 0x23 f))
  | .sleepto f => some (.e (packSleep 0x24 f))
  | .pmovTranspose f => some (.e (packPmov 0x28 f))
  | .pmovConvert f => some (.e (packPmov 0x28 f))
  | .pmovEncode f => some (.e (packPmov 0x28 f))
  | .pmovDecode f => some (.e (packPmov 0x28 f))
  | .pmovConfig f => some (.e (packPmov 0x28 f))
  | .prd f => some (.e (packPrd 0x29 f))
  | .walk f => some (.e (packWalk 0x30 f))
  | .batonWait f => some (.e (packBatonW 0x31 f))
  | .batonGive f => some (.e (packBatonG 0x31 f))
  | .batonStat f => some (.e (packBatonS 0x31 f))
  | .nsend f => some (.e (packNSend 0x32 f))
  | .nmcast f => some (.e (packNMcast 0x33 f))
  | .relay f => some (.e (packRelay 0x38 f))
  | .rlstat f => some (.e (packRlStat 0x39 f))
  | .rlstatWhy f => some (.e (packRlWhy 0x39 f))
  | .harrive f => some (.e (packHurdle 0x40 f))
  | .hwait f => some (.e (packHurdle 0x41 f))
  | .harw f => some (.e (packHurdle 0x42 f))
  | .tqpush f => some (.e (packTqPush 0x43 f))
  | .tqcancel f => some (.e (packTqCancel 0x44 f))
  | .jobwaitWait f => some (.e (packJobWait 0x45 f))
  | .jobwaitRd f => some (.e (packJobRd 0x45 f))
  | .evpost f => some (.e (packEvPost 0x46 f))
  | .evwait f => some (.e (packEvWait 0x47 f))
  | .klaunchX f => some (.e (packKLaunchX 0x48 f))
  | .klaunchK f => some (.e (packKLaunchK 0x48 f))
  | .klaunchR f => some (.e (packKLaunchR 0x48 f))
  | .syscallEmit f => some (.e (packEmit 0x49 f))
  | .syscallFlush f => some (.e (packFlush 0x49 f))
  | .syscallFree f => some (.e (packFree 0x49 f))
  | .srgen f => some (.e (packSrGen 0x4A f))
  | _ => none

/-- The bytes of a slot word, lowest first (R25). -/
def SlotWord.bytes : SlotWord → List Byte
  | .s w | .v w | .l w | .e w => leBytes 6 w.toNat
  | .f w | .m w => leBytes 4 w.toNat

/-- R24: the lowest slot of a word's kind; a control opcode goes to S1 (R38). -/
def slotFor (i : Instr) : SlotWord → Nat
  | .s _ => if i.isControl then 1 else 0
  | .v _ => 2
  | .f _ => 5
  | .m _ => 6
  | .l _ => 7
  | .e _ => 9

/-- R32: the allotment codes that name `reads`, then unused ones. -/
def spCodes (slot : Nat) (reads : List RegRead) : List Nat :=
  let used := reads.filterMap fun r => if r.file == .s then r.port.map (fun o => 2 * slot + o) else none
  (used ++ [30, 30, 30, 30]).take 4

/-- R32: the vector allotment codes that name `reads`, then unused ones. -/
def vpCodes (slot : Nat) (reads : List RegRead) : List Nat :=
  let code := match slot with | 2 => 0 | 3 => 1 | 4 => 2 | 5 => 3 | 7 => 4 | _ => 5
  let used := reads.filterMap fun r => if r.file == .v then r.port.map (fun o => 4 * code + o) else none
  (used ++ [28, 28, 28, 28, 28]).take 5

/-- The `k`-th of a list of codes, placed at bit `at`. -/
def placeCodes (codes : List Nat) (ats : List Nat) : Nat :=
  (List.zipWith (fun c p => c * 2 ^ p) codes ats).sum

/-- R27: the header of a bundle that holds one slot, with its port allotments and no marks. -/
def headerFor (slot : Nat) (reads : List RegRead) : Nat :=
  2 ^ slot + placeCodes (spCodes slot reads) [32, 37, 42, 47]
    + placeCodes (vpCodes slot reads) [14, 19, 24, 52, 57]

/-- R25: the bytes of a bundle that holds one slot. -/
def bundleOf (i : Instr) : Option (List Byte) :=
  (encode i).map fun w => leBytes 8 (headerFor (slotFor i w) i.reads) ++ w.bytes

end Sys2Proof
end

