-- ==== Sys2Proof/Machine/Map.lean ====
section
/-! DEFINITION. Maps from numbers to plain data, as lists sorted by key with no repeats: a key that
is not listed stands for the map's default. -/

namespace Sys2Proof.Machine

/-- A map from numbers, sorted by key. -/
abbrev SMap (α : Type) := List (Nat × α)

/-- The value at a key, if listed. -/
def SMap.find {α : Type} (m : SMap α) (k : Nat) : Option α :=
  match m with
  | [] => none
  | (j, v) :: rest => if j = k then some v else SMap.find rest k

/-- The value at a key, or the default. -/
def SMap.get {α : Type} (m : SMap α) (d : α) (k : Nat) : α := (SMap.find m k).getD d

/-- Writes a key. -/
def SMap.put {α : Type} (m : SMap α) (k : Nat) (v : α) : SMap α :=
  match m with
  | [] => [(k, v)]
  | (j, w) :: rest =>
    if k < j then (k, v) :: (j, w) :: rest
    else if k = j then (k, v) :: rest
    else (j, w) :: SMap.put rest k v

/-- Removes a key. -/
def SMap.del {α : Type} (m : SMap α) (k : Nat) : SMap α :=
  match m with
  | [] => []
  | (j, w) :: rest => if j = k then rest else (j, w) :: SMap.del rest k

/-- The keys strictly rise. -/
def SMap.sorted {α : Type} : SMap α → Bool
  | [] => true
  | [_] => true
  | (i, _) :: (j, w) :: rest => decide (i < j) && SMap.sorted ((j, w) :: rest)

/-- Replaces the first element that `p` picks. -/
def modifyFirst {α : Type} (p : α → Bool) (f : α → α) : List α → List α
  | [] => []
  | x :: xs => if p x then f x :: xs else x :: modifyFirst p f xs

/-- Applies `f` at one position of a list. -/
def modifyNth {α : Type} (f : α → α) : List α → Nat → List α
  | [], _ => []
  | x :: xs, 0 => f x :: xs
  | x :: xs, n + 1 => x :: modifyNth f xs n

/-- The position of the first element that `p` picks. -/
def indexOfFirst {α : Type} (p : α → Bool) : List α → Option Nat
  | [] => none
  | x :: xs => if p x then some 0 else (indexOfFirst p xs).map (· + 1)

/-- The element with the least measure, the first of those that tie. -/
def leastBy {α : Type} (f : α → Nat) : List α → Option α
  | [] => none
  | x :: xs =>
    match leastBy f xs with
    | none => some x
    | some y => if f x ≤ f y then some x else some y

end Sys2Proof.Machine
end

