-- ==== Sys2Proof/Machine/State.lean ====
section
/-! DEFINITION. The state of the module: every piece the manual names, as plain data, and the state
after reset. Coordinates are numbers: unit u = 9 * cluster + core, core 8 being the cluster's control
core; a context's key is 8 * u + context, so that keys stand in the order of R19 and R89. -/

namespace Sys2Proof.Machine

/-! ## A context's registers (R44) -/

/-- R166: a run vector register: its entries, value and count. -/
abbrev RunVec := List (Word × Nat)

/-- R57, R169: a predicate register: active count, width code, group. -/
structure Pred where
  active : BitVec 13
  width : BitVec 2
  group : BitVec 3
  deriving DecidableEq, Repr

/-- R155: a hardware loop. -/
structure LoopRec where
  depth : BitVec 3 := 0
  active : Bool := false
  start : Word := 0
  remain : Word := 0
  deriving DecidableEq, Repr

/-- R44, R49: the register files an instruction reads at issue, with the full/empty bits. -/
structure Bank where
  s : Vector Word 32
  t : Vector Word 16
  a : Vector Addr 16
  v : Vector RunVec 32
  q : Vector Pred 8
  d : Vector (BitVec 512) 16
  sFull : BitVec 32
  aFull : BitVec 16
  vFull : BitVec 32
  deriving DecidableEq, Repr

/-- One effect that lands on a register: a value, a bit cleared by SETEMPTY (R165), or a system
register written by WRSYS (R403: at the end of its issue cycle). -/
inductive RegVal where
  | s (n : Nat) (w : Word)
  | a (n : Nat) (x : Addr)
  | v (n : Nat) (r : RunVec)
  | q (n : Nat) (p : Pred)
  | d (n : Nat) (x : BitVec 512)
  | empty (file : RegFile) (n : Nat)
  | sys (n : Nat) (w : Word)
  deriving DecidableEq, Repr

/-- R208: a codebook read that an F slot has left behind: the codebook's address, and how each value
field is looked up: as FCBD's index, else as FCBE's value of type `ty`. -/
structure CodeRead where
  va : Nat
  index : Bool
  ty : BitVec 4
  deriving DecidableEq, Repr

/-- R45 to R53: a result in flight. `enq` enters the result queue when it lands; `due` is the cycle
from which reads see it; `seq` orders bundles by issue. -/
structure Pending where
  vals : List RegVal
  enq : Option Word := none
  due : Nat
  fixed : Bool
  seq : Nat
  slot : Nat
  /-- R98: the scoreboard slot that the landing completes. -/
  sb : Option Nat := none
  /-- R208: the codebook read that gives the values, which are the source's until it is performed. -/
  late : Option CodeRead := none
  deriving DecidableEq, Repr

/-- R109: the classes of engine requests, by code: tl.cpy, tl.grf, tl.xfm, tl.fab, tl.rly, tl.sto. -/
abbrev TlClass := Nat

/-- R109, R318: a request a context has issued: class, number, promise, and whether it is done. -/
structure ReqRec where
  cls : TlClass
  num : Nat
  promise : Option Addr := none
  done : Bool := false
  deriving DecidableEq, Repr

/-- R302, R303, R470: a queued fault record: cause, inner cause, TCODE, faulting address, and the
ten words of the deferred fault record when there is one. -/
structure FaultRec where
  cause : Nat
  inner : Nat := 0
  tcode : Word := 0
  addr : Addr := 0
  words : List Word := []
  deriving DecidableEq, Repr

/-- R405: a task record as the queues and contexts hold it. -/
structure Task where
  /-- The model's number of the task, one for each push or launch. -/
  uid : Nat := 0
  entry : Word
  args : Vector Word 4
  stage : BitVec 3 := 0
  aff : Nat := 0
  hasAff : Bool := false
  cc : Bool := false
  ascope : BitVec 3 := 0
  jv : Bool := false
  jcl : Nat := 0
  job : Nat := 0
  ticket : Word := 0
  control : Bool := false
  kernel : Option Nat := none
  deriving DecidableEq, Repr

/-- R220, R225, R271: how an access in progress treats memory. -/
inductive AccessKind where
  | load | store | atomic | tagq | peek
  deriving DecidableEq, Repr

/-- R83: how a context waits for a page. -/
inductive PageWay where
  /-- Its slot has not come to it. -/
  | undecided
  /-- The task parks, once the context is quiet. -/
  | park
  /-- The task parks, and no mapping was found meanwhile. -/
  | parkNoMap
  | inPlace
  deriving DecidableEq, Repr

/-- R217, R235, R238: how far the admission of an access has come. -/
inductive AccessState where
  /-- Sent to the owner at the given cycle. -/
  | asking (since : Nat)
  /-- R235: queued at the owner. -/
  | queued
  /-- R235: refused for want of a waiter place; asks again at the given cycle. -/
  | retry (at' : Nat)
  /-- R83, R238: met a page that is not present. -/
  | page (va : Addr) (way : PageWay)
  /-- R300: held by the guard of a node. -/
  | held (node : Word)
  | admitted
  /-- R219: a fault: cause, TCODE, address. -/
  | fault (cause : Nat) (tcode : Word) (addr : Addr)
  deriving DecidableEq, Repr

/-- One access of an L or E slot that waits for its admission. -/
structure Access where
  slot : Nat
  kind : AccessKind
  /-- The byte ranges touched: address and size. -/
  va : Addr
  size : Nat
  st : AccessState
  /-- R113, R235: it was queued on a suspension, so that it completes with an acquire. -/
  queued : Bool := false
  /-- R235: it raised the demand. -/
  raised : Bool := false
  /-- R303: the deferred fault record that a DEFER of this access leaves. -/
  words : List Word := []
  deriving DecidableEq, Repr

/-- R221: an entry of the store buffer: bytes at an address, the store that it is a part of, and the
scoreboard slot that the store completes. -/
structure StoreEntry where
  id : Nat
  store : Nat
  va : Addr
  bytes : List Byte
  sb : Option Nat := none
  seq : Nat := 0
  /-- R300: held by a source guard until the protective force completes. -/
  held : Bool := false
  /-- A partial byte at the end: R225, VST of an odd number of 4-bit elements. -/
  nibble : Bool := false
  deriving DecidableEq, Repr

/-- R223: the atomics. -/
inductive AtomicOp where
  | add | min | max | swp | cas | and | or | fadd
  deriving DecidableEq, Repr

/-- R223: an atomic whose slot has committed and that is not yet performed. -/
structure AtomicReq where
  id : Nat
  op : AtomicOp
  ty : BitVec 4
  va : Addr
  s : Word
  cmp : Word
  dest : Nat
  sb : Option Nat
  seq : Nat
  slot : Nat
  deriving DecidableEq, Repr

/-- R81: what a context that waits waits for. -/
inductive Why where
  /-- R50: empty sources. -/
  | regs (rs : List (RegFile × Nat))
  /-- R98: scoreboard slots of a wait mask. -/
  | scoreboard (mask : BitVec 8)
  /-- R217: an access's admission. -/
  | admission (slot : Nat)
  /-- R221: room in the store buffer. -/
  | storeRoom (n : Nat)
  /-- Stores of the context that must be applied first (R97, R208). -/
  | storesApplied
  /-- R108: loads bound, stores applied, the domain's L1 clean, and classes of requests done. -/
  | fence (loads stores clean : Bool) (classes : BitVec 6)
  /-- R110: a timeline's goal. -/
  | timeline (cls goal : Nat)
  /-- R321: an MTC value. -/
  | deadline (t : Addr)
  /-- R321: requests that were not done. -/
  | requests (rs : List (Nat × Nat))
  /-- R421: a hurdle object's phase. -/
  | hurdle (va : Addr) (q : Word)
  /-- R193, R255, R256: the turn of a slot on an accumulator, and an MDRAIN's verdict. -/
  | turn (n : Nat)
  /-- R412: a job counter at zero. -/
  | job (c : Nat)
  /-- R412, R421: nothing more: it has held. -/
  | passed
  /-- R415: an event in the queue. -/
  | event
  /-- R297: a slot of the thunk table. -/
  | table
  /-- R298: entries of a die's suspension directory, or of its source guard. -/
  | dieRoom (guard : Bool) (die n : Nat)
  /-- R300: a node with no tile SUSPENDED or EVALUATING. -/
  | node (h : Word)
  /-- R367: no guard on these flat spans, which a send guard has held. -/
  | sendGuard (spans : List (Nat × Nat))
  /-- R102, R112: the context's stores are applied and, for a scope wider than its domain, the domain's
  L1 is clean. -/
  | released (wide : Bool)
  /-- R230, R300: a sector with no dirty byte left in the domain's L1. -/
  | flushed (va : Addr)
  /-- R283: EVALUATING tiles under a destination. -/
  | tiles (sectors : List Addr)
  /-- R193: a chain or a queued operation on an accumulator. -/
  | accumulator (n : Nat)
  /-- R245, R250: the array. -/
  | array
  /-- R355: a baton. -/
  | baton (h : Word) (k : Nat)
  /-- R416: a scoreboard entry of the stream controller. -/
  | streamEntry
  /-- R406: the acceptance of a pushed task. -/
  | queueRoom (cluster queue : Nat)
  /-- R307, R328: room in an engine's queue. -/
  | engine (kind cluster : Nat)
  /-- R449: room in a token ring. -/
  | token (ring : Nat)
  /-- R222: one cycle, for two scratchpad loads of one bank. -/
  | bank
  /-- R88: the context has met a fatal fault and fetches nothing more. -/
  | fatal
  deriving DecidableEq, Repr

/-- A wait at a slot (15: at issue): since when, whether it has become a block (R81, R218), the block
counter it adds to (R474), and what ends it. -/
structure Wait where
  slot : Nat
  since : Nat
  blocked : Bool
  cause : Nat
  why : Why
  deriving DecidableEq, Repr

/-- R409, R418: a push or a kernel launch that has added to its job counter and waits for room: its record,
and its queue value or its mask. -/
structure HeldPush where
  record : Nat
  arg : Word
  deriving DecidableEq, Repr

/-- R78: the states of a context. -/
inductive CtxState where
  | free | ready | issuing | blocked | draining | stopped
  deriving DecidableEq, Repr

/-- What the current bundle does when it completes (R153 to R160). -/
structure After where
  /-- A transfer was executed; its target when taken. -/
  transfer : Bool := false
  taken : Option Addr := none
  /-- R156: LOOP with count 0 leaves for this address. -/
  exit : Option Addr := none
  /-- R160: TRET was executed. -/
  resume : Bool := false
  deriving DecidableEq, Repr

/-- R161: the trap registers. TTARGET and TADDR count 16-bit units. -/
structure TrapRegs where
  cause : Word := 0
  addr : Word := 0
  done : BitVec 10 := 0
  code : Word := 0
  inh : Bool := false
  dly : Bool := false
  target : Word := 0
  /-- R160: what the trapped bundle's committed slots still do at its completion. -/
  after : After := {}
  yieldDue : Bool := false
  deriving DecidableEq, Repr

/-- R474: the lap counters. -/
structure Laps where
  fill : Vector (Vector Word 10) 9
  nop : Vector (Vector Word 10) 9
  stall : Vector Word 11
  block : Vector Word 5
  deriving DecidableEq, Repr

/-- R426: an entry of the snapshot latch bank: a result that lands after restoration, with the
cycles still to run. -/
structure Latch where
  after : Nat
  pend : Pending
  deriving DecidableEq, Repr

/-- A context of a core or a CCC. -/
structure Ctx where
  st : CtxState
  /-- The state held before STOPPED (R78). -/
  held : CtxState
  bank : Bank
  /-- R26: the operands as read at the bundle's issue. -/
  rd : Bank
  sb : Vector Nat 8
  issued : Vector Nat 6
  completed : Vector Nat 6
  loops : Vector LoopRec 8
  rq : List Word
  /-- R211: the random word the bundle popped. -/
  srWord : Word
  /-- BADDR as a byte offset from the first byte of code (R470). -/
  pc : Addr
  /-- The address of the bundle that follows in memory. -/
  fall : Addr
  done : BitVec 10
  dly : Bool
  /-- The pending target of a delay position, when its transfer was taken. -/
  target : Option Addr
  /-- R29, R30: cycles of an idle run still to run. -/
  idle : Option Nat
  after : After
  /-- The bundle at pc has issued and is partly committed or waits. -/
  opened : Bool
  /-- The cycle in which it issued. -/
  issueAt : Nat
  /-- R474: the bundle at pc has been counted. -/
  counted : Bool
  /-- Y of a bundle with a transfer acts after the delay bundle (R28). -/
  yieldDue : Bool
  trap : TrapRegs
  faddr : Addr
  sleepValid : Bool
  deadline : Addr
  /-- R321: the promised requests a halted SLEEPTO waits for. -/
  harwa : Bool
  halt : Bool
  stageh : Bool
  faults : List FaultRec
  deferRec : Vector Word 10
  sprint : Nat
  task : Option Task
  /-- R85: the number and window address of the task's spill region. -/
  spill : Option Nat
  wait : Option Wait
  storeBuf : List StoreEntry
  /-- R221: parts of a committed store that have not yet entered the buffer. -/
  storeQ : List StoreEntry
  /-- R98: L slots of the bundle at pc whose access counts at a scoreboard slot and has not committed:
  slot and scoreboard slot. -/
  sbSet : List (Nat × Nat)
  /-- R113: an acquire at module scope that a guard still delays. -/
  acquireDue : Bool
  accs : List Access
  atomics : List AtomicReq
  reqs : List ReqRec
  pend : List Pending
  /-- R173: the cycle in which the bundle's precheck ends. -/
  preEnd : Option Nat
  /-- R173: the precheck duration K of the bundle. -/
  preK : Nat
  nextIssue : Nat
  drowsy : Bool
  lastIssue : Nat
  laps : Laps
  ignoreB : Bool
  stepping : Bool
  push : Option HeldPush
  /-- R412, R421: what a JOBWAIT or a hurdle wait of the bundle at pc waits for has held; the PHASE that the
  passing test read. -/
  passed : Option Word
  /-- R466: the context stops before its next bundle. -/
  stopDue : Bool
  /-- R175, R201: a stop that waits for the results of V and F slots in flight: slot and cause. -/
  stopAt : Option (Nat × Nat)
  /-- R49, R173: registers that the bundle's issue found full and emptied, with the slot: a slot that
  faults gives its registers back. -/
  emptied : List (Nat × RegFile × Nat)
  /-- R80: the bundle before the one at pc completed, where a handler's first bundle stands behind one
  that trapped. -/
  ended : Bool
  /-- R469: the context stopped at the entry of its handler. -/
  trapHeld : Bool
  latches : List Latch
  seq : Nat
  deriving DecidableEq, Repr

/-- R77, R169: the reset value of a predicate for a logical length. -/
def Pred.full (vl : Nat) : Pred := { active := BitVec.ofNat 13 vl, width := 3, group := 1 }

/-- R77: the bank of a context for a logical vector length, every bit full. -/
def Bank.init (vl : Nat) : Bank :=
  { s := Vector.replicate 32 0, t := Vector.replicate 16 0, a := Vector.replicate 16 0
    v := Vector.replicate 32 [(0, vl)], q := Vector.replicate 8 (Pred.full vl)
    d := Vector.replicate 16 0, sFull := 0xFFFFFFFF, aFull := 0xFFFF, vFull := 0xFFFFFFFF }

/-- R474: all lap counters zero. -/
def Laps.zero : Laps :=
  { fill := Vector.replicate 9 (Vector.replicate 10 0)
    nop := Vector.replicate 9 (Vector.replicate 10 0)
    stall := Vector.replicate 11 0, block := Vector.replicate 5 0 }

/-- A FREE context (R461; log entry 3 for the register values). -/
def Ctx.reset : Ctx :=
  { st := .free, held := .free, bank := Bank.init 128, rd := Bank.init 128
    sb := Vector.replicate 8 0, issued := Vector.replicate 6 0, completed := Vector.replicate 6 0
    loops := Vector.replicate 8 {}, rq := [], srWord := 0, pc := 0, fall := 0, done := 0, dly := false
    target := none, idle := none, after := {}, opened := false, issueAt := 0, counted := false, yieldDue := false
    trap := {}, faddr := 0, sleepValid := false, deadline := 0, harwa := false, halt := false
    stageh := false, faults := [], deferRec := Vector.replicate 10 0, sprint := 0, task := none
    spill := none, wait := none, storeBuf := [], storeQ := [], sbSet := [], acquireDue := false, accs := [], atomics := [], reqs := [], pend := []
    preEnd := none, preK := 1, nextIssue := 0, drowsy := false
    lastIssue := 0, laps := Laps.zero, ignoreB := false, stepping := false, push := none, passed := none, stopDue := false
    stopAt := none, emptied := [], ended := false, trapHeld := false, latches := [], seq := 0 }

/-! ## Numbers (R116, R121) -/

/-- A value exact before rounding: (-1)^neg * mag * 2^exp, an infinity, or NaN. -/
inductive Num where
  | nan
  | inf (neg : Bool)
  | fin (neg : Bool) (mag : Nat) (exp : Int)
  deriving DecidableEq, Repr

/-- +0. -/
def Num.zero : Num := .fin false 0 0

/-- R303: who raised a demand: its kind (0 to 4; 5 for the settle forcing of R305), context, slot and
bundle; none for forces that deliver nothing. -/
structure DemandSite where
  kind : Nat
  key : Nat
  slot : Nat
  addr : Word
  /-- The engine's own number of the request or walk that demands; 0 for none. -/
  req : Nat := 0
  deriving DecidableEq, Repr

/-! ## Arrays (R240 to R264) -/

/-- R257, R258: a kept verdict: drain type, saturation, and the rows of values after correction. -/
structure Verdict where
  ty : BitVec 4
  sat : Bool
  rows : List (List Word)
  deriving DecidableEq, Repr

/-- R242: an accumulator tile. Element (i, n) of the data is key 128 * i + n; unlisted is 0. -/
structure Acc where
  int : Bool := false
  data : SMap Word := []
  rc : SMap Word := []
  cc : SMap Word := []
  ck : Word := 0
  sums : SMap Word := []
  pending : Bool := false
  verdict : Option Verdict := none
  deriving DecidableEq, Repr

/-- R256: an operation in the M queue, with the operand values that it read. -/
inductive MOpKind where
  | push (ty : BitVec 4) (row : Nat) (vals : List Num)
  | shift
  | macc (acc : Nat) (rows : List (Nat × List Num))
  | clr (acc : Nat) (int : Bool)
  | endChain (acc : Nat)
  /-- R255: the place of an MDRAIN that waits for its verdict: accumulator, type, SAT. -/
  | drain (acc : Nat) (ty : BitVec 4) (sat : Bool)
  /-- R193: the place of a VACC or a VACCW that waits for earlier operations. -/
  | row (acc : Nat)
  deriving DecidableEq, Repr

/-- R256: an M operation with the context, task and bundle that issued it, and once it has started the first
cycle in which its effect may land. -/
structure MOp where
  kind : MOpKind
  key : Nat
  task : Nat
  addr : Word := 0
  due : Nat := 0
  deriving DecidableEq, Repr

/-- R240 to R264: a core's array and accumulator store. Weight (n, k) is key 128 * n + k. -/
structure Arr where
  accs : Vector Acc 8
  active : SMap Num := []
  shadow : SMap Num := []
  activeTy : BitVec 4 := 1
  shadowTy : BitVec 4 := 1
  wchk : SMap Word := []
  /-- R245: the task that holds the array. -/
  holder : Option Nat := none
  /-- R246: the evaluation that holds it. -/
  evaluator : Option Nat := none
  evalWaiting : List Nat := []
  /-- Open chains: accumulator and task. -/
  chains : List (Nat × Nat) := []
  /-- MCHAINs that wait, as context keys, in issue order. -/
  waiting : List Nat := []
  /-- R193, R256: chains whose MEND has issued and not yet completed. -/
  ending : List (Nat × Nat) := []
  queue : List MOp := []
  running : List MOp := []
  /-- R257: an MDRAIN's test in progress: accumulator, type, SAT. -/
  deciding : Option (Nat × BitVec 4 × Bool) := none
  /-- R479: the MDRAIN that asked for that test. -/
  asker : DemandSite := { kind := 0, key := 0, slot := 0, addr := 0 }
  /-- R257: a test that ended uncorrectable: accumulator, type, SAT, failing rows and columns. -/
  uncorrectable : Option (Nat × BitVec 4 × Bool × Nat × Nat) := none
  /-- R261: verdicts counted, and each physical row's count and stamp. -/
  verdicts : Word := 0
  cnt : SMap Nat := []
  first : SMap Word := []
  retired : List Nat := []
  /-- R262: how many of the retirements are applied to the mapping. -/
  applied : Nat := 0
  degraded : Bool := false
  deriving DecidableEq, Repr

/-- The array right after reset (R242, log entry 3). -/
def Arr.reset : Arr := { accs := Vector.replicate 8 {} }

/-! ## Memory (R90 to R94, R232 to R238) -/

/-- R92: cache policies. -/
inductive Policy where
  | wb | stream | uc
  deriving DecidableEq, Repr

/-- R92, R442: a page of a session's device page tables. -/
structure Page where
  va : Nat
  size : Nat
  policy : Policy := .wb
  isLazy : Bool := false
  secure : Bool := false
  writable : Bool := true
  /-- R92, R453: backed by host memory. -/
  host : Bool := false
  present : Bool := false
  /-- The bus address of a host-backed page's frame. -/
  bus : Nat := 0
  /-- R442: mapped into the host's aperture at this offset. -/
  aperture : Option Nat := none
  /-- R453: a page-service request is outstanding. -/
  asked : Bool := false
  /-- R454: the 1 GiB range of physical HBM, by 192 * die + n, that its capacity is reserved in. -/
  range : Nat := 0
  /-- R9: the offset of its frame within its die's HBM. -/
  phys : Nat := 0
  deriving DecidableEq, Repr

/-- R238, R452, R453: a page fault reported to a die's memory-management processor: the page's first
address (any address in it when no mapping holds it), the number of the page-service request once one
is out, and the engine requests that wait for it. -/
structure PageFault where
  session : Nat
  va : Nat
  number : Option Nat := none
  engines : List Nat := []
  deriving DecidableEq, Repr

/-- R433: a host window. -/
structure HostWindow where
  base : Addr := 0
  limit : Addr := 0
  en : Bool := false
  rdonly : Bool := false
  deriving DecidableEq, Repr

/-- R234: the tag of a sector on a lazy page. -/
inductive Tag where
  | value | suspended | evaluating | poison
  deriving DecidableEq, Repr

/-- R235: an access queued at the owner on an EVALUATING sector: the context and its slot, or the read of
an engine's request, walk or evaluation (0: none). -/
structure Waiter where
  key : Nat
  slot : Nat
  engine : Nat := 0
  deriving DecidableEq, Repr

/-- R234, R298: a sector's tag, the node and tile that own it, and the queued accesses. -/
structure TagRec where
  tag : Tag := .value
  /-- Handle of the owning node (R231, R273). -/
  node : Word := 0
  launch : Nat := 0
  waiters : List Waiter := []
  deriving DecidableEq, Repr

/-- R21, R235: a sector that the owner has read for an engine in its turn of the queue: the engine's
request, walk or evaluation, the sector's flat key, its bytes, and whether the read is over. -/
structure EngineRead where
  who : Nat
  key : Nat
  bytes : List Byte
  spent : Bool := false
  deriving DecidableEq, Repr

/-- R93, R232: a sector held by an L1: its bytes, dirty marks, policy, whether its page is read-only,
and its place in the LRU order. -/
structure L1Sector where
  bytes : List Byte
  dirty : List Bool
  policy : Policy
  readOnly : Bool
  used : Nat
  deriving DecidableEq, Repr

/-! ## Regions and nodes (R266 to R303) -/

/-- R266, R274: what an operation keeps of a descriptor: the region, and the map of its role. -/
structure Region where
  base : Nat := 0
  ty : BitVec 4 := 0
  rows : Nat := 0
  cols : Nat := 0
  pitch : Nat := 0
  trailer : Nat := 0
  tr : Nat := 1
  tc : Nat := 1
  scale : Nat := 0
  sstride : Nat := 0
  codebook : Nat := 0
  map : Word := 0
  deriving DecidableEq, Repr

/-- R275: the states of a destination tile. -/
inductive TileState where
  | suspended | linked | evaluating | value | poison | dropped
  deriving DecidableEq, Repr

/-- R275: the states of a node that is not FREE. -/
inductive NodeState where
  | pending | active | spilled
  deriving DecidableEq, Repr

/-- R276: the tile operations. -/
inductive TileOp where
  | tmul | tmac | tmap | tzip | tred | txpose | tcvt | tcopy
  deriving DecidableEq, Repr

/-- R274, R275: a node: its record, the state of each destination tile in row order, and the LINKED
predecessor of each: node and tile. `seq` is the append order of its cluster's table. `mark` is not 0
while the node is in a save area (R304): it keeps its handle apart from those of the table. -/
structure Node where
  cluster : Nat
  index : Nat
  gen : Nat
  launch : Nat
  session : Nat
  task : Nat
  op : TileOp
  ctl : BitVec 14
  p : Word
  stream : Nat
  key : Nat
  slot : Nat
  addr : Word
  d : Region
  a : Region
  b : Region
  st : NodeState := .pending
  tiles : List TileState
  preds : List (List (Word × Nat)) := []
  seq : Nat := 0
  mark : Nat := 0
  deriving DecidableEq, Repr

/-- R302: an evaluation's failure: inner cause, inner TCODE and address. -/
structure EvalFail where
  inner : Nat
  code : Word := 0
  addr : Addr := 0
  deriving DecidableEq, Repr

/-- R292: what an evaluation has come to. -/
inductive EvalState where
  | waiting
  /-- Computed: the tile's raw rows, scales and checks, and the core whose array it holds. -/
  | computed (rows : List (List Word)) (scales : List (List Nat)) (rc cc : List Word) (ck : Word)
      (core : Option Nat)
  | failed (f : EvalFail)
  deriving DecidableEq, Repr

/-- R292, R293: an evaluation of one tile: its node, chain, the evaluation that demanded it, and the
site of the first demand. -/
structure Eval where
  id : Nat
  node : Word
  tile : Nat
  chain : Nat
  parent : Option Nat := none
  site : Option DemandSite := none
  st : EvalState := .waiting
  /-- R292: LINKED predecessors whose value stands in the tile. -/
  got : List (Word × Nat) := []
  /-- R140, R296: readings of its inputs that were uncorrectable. -/
  tries : Nat := 0
  deriving DecidableEq, Repr

/-! ## Engine requests (R109, R307) -/

/-- R334 to R340: an operation of a transform unit, with the registers it took at issue. -/
inductive XfOp where
  | transpose (d a : Region)
  | convert (d a : Region) (mode : BitVec 3) (sat : Bool) (rw : Word)
  /-- Source region, stream address, chunk kind, capacity, UB and PB. -/
  | encode (a : Region) (base kind cap ub pb : Nat)
  /-- Destination region, stream address and PB. -/
  | decode (d : Region) (base pb : Nat)
  /-- R295, R328: the TXPOSE or TCVT tile of an evaluation. -/
  | tile (eval : Nat)
  deriving DecidableEq, Repr

/-- What a request asks an engine to do. -/
inductive EngWork where
  /-- R287: FORCE: the tiles it named. -/
  | force (tiles : List (Word × Nat))
  /-- R288, R313: TSTORE (with `mapped`) and the tile form of CPY. -/
  | tiles (d a : Region) (mapped : Bool)
  /-- R312: the byte form of CPY: destination, source, length. -/
  | bytes (dst src len : Nat)
  /-- R315: CPYG, or with `scatter` CPYS: index vector and count. -/
  | rows (d a : Region) (idx n : Nat) (scatter : Bool)
  /-- R324: CPSTOR: destination, starting block, NSID, block count and size, queue pair, TQ, codec, and
  its UB and PB. -/
  | storage (dst lba nsid count block qp tq : Nat) (codec : Option Nat) (ub pb : Nat)
  /-- R327: an operation of transform unit 0 (transposer), 1, 2 (converters), 3, 4 (codecs); of 5, of the
  converter that is first free (R295). -/
  | xform (unit : Nat) (op : XfOp)
  /-- R363: NSEND and NMCAST: the destination's descriptor, both regions, and the number of peers. -/
  | send (dd : BitVec 512) (d a : Region) (peers : Nat)
  /-- R379: a relay, which the list of relays holds under the request's number. -/
  | relay
  deriving DecidableEq, Repr

/-- A request in an engine's hands: its own number, who issued it, its class and number, its engine's
cluster, the unit code of R413, its EV bit, the handle that its event carries instead of the number,
the first cycle in which the engine may start it, how far it has come, and whether it is finished
(`failed`: on an engine fault) but not yet done. -/
structure EngReq where
  id : Nat
  key : Nat
  slot : Nat
  addr : Word
  cls : Nat
  num : Nat
  launch : Nat
  cluster : Nat
  unit : Nat
  ev : Bool := false
  handle : Option Word := none
  ready : Nat := 0
  pos : Nat := 0
  started : Bool := false
  finished : Bool := false
  failed : Bool := false
  /-- R315: the index vector once it is read. -/
  data : List Nat := []
  /-- R140, R340: readings of the present tile or chunk that failed. -/
  tries : Nat := 0
  /-- R319, R320: a clock lowering was announced when it issued; its promise is broken by congestion or by a
  lowering that was not. -/
  warned : Bool := false
  slow : Bool := false
  work : EngWork
  deriving DecidableEq, Repr

/-! ## Walks (R344 to R360) -/

/-- R354: the baton of a slot; Pend as a mask of cores. -/
inductive Baton where
  | engine
  | full (pend : Nat)
  | compute
  | done
  deriving DecidableEq, Repr

/-- R351: the state of a walk; `held` is an active walk of a launch that does not run. -/
inductive WalkState where
  | active | ended | stopped
  deriving DecidableEq, Repr

/-- R346: a walk record. -/
structure WalkRec where
  p0 : Nat
  q0 : Nat
  dp1 : Int
  dq1 : Int
  dp2 : Int
  dq2 : Int
  n1 : Nat
  count : Nat
  sscale : Nat
  strail : Nat
  spitch : Nat
  stride : Nat
  n : Nat
  ring : Nat
  deriving DecidableEq, Repr

/-- A walk: its own number, place and generation, who issued it, its region and multicast set, its
record, its first tile, its batons, the tiles moved, the fills given back per core and slot (per slot
for a storer), and a storer's slots in the order their batons arrived. -/
structure Walk where
  id : Nat
  cluster : Nat
  engine : Nat
  slot : Nat
  gen : Nat
  launch : Nat
  key : Nat
  task : Nat
  eslot : Nat
  addr : Word
  storer : Bool
  ev : Bool
  d : Region
  mcast : Nat
  record : WalkRec
  j0 : Nat
  st : WalkState := .active
  batons : List Baton
  moved : Nat := 0
  given : SMap Nat := []
  arrivals : List Nat := []
  /-- R140: readings of the present tile that were uncorrectable. -/
  tries : Nat := 0
  deriving DecidableEq, Repr

/-! ## Nakan sends (R363 to R370) -/

/-- R364: the part of a request that one port sends: its peers, the next tile, and the record of the
node that the tile was found to come from (R367). -/
structure SendPart where
  req : Nat
  port : Nat
  peers : List Nat
  pos : Nat := 0
  node : Option Node := none
  /-- R284, R367: of a TMAC, the addends of the tiles that were evaluated meanwhile. -/
  addend : SMap (List (List Word)) := []
  deriving DecidableEq, Repr

/-- R366 to R369: a tile sent to a peer and not yet answered, or to be sent again. -/
structure SentTile where
  req : Nat
  port : Nat
  peer : Nat
  tile : Nat
  attempt : Nat
  sent : Nat
  resend : Bool := false
  node : Option Node := none
  addend : SMap (List (List Word)) := []
  deriving DecidableEq, Repr

/-! ## Relays (R372 to R398) -/

/-- R374: a level of a relay record. -/
structure RelayLevel where
  n : Nat
  c : Int
  k : Int
  o : Nat
  m : Nat
  ss : Int
  ds : Int
  deriving DecidableEq, Repr

/-- R374: an entry of a relay record: KIND, P0 and XOFF. -/
structure RelayEntry where
  kind : Nat
  p0 : Nat
  xoff : Int
  deriving DecidableEq, Repr

/-- R373: a relay record, FINAL made good. -/
structure RelayRec where
  op : Nat
  e2 : Bool
  ty : BitVec 4
  chan : BitVec 16
  epoch : BitVec 16
  g : Nat
  final : Nat
  nt : Nat
  tr : Nat
  tc : Nat
  toff : Nat
  tstr : Nat
  entries : List RelayEntry
  levels : List RelayLevel
  sbase : Nat
  dbase : Nat
  gtab : Nat
  cwbase : Nat
  deriving DecidableEq, Repr

/-- R379, R380. -/
inductive RelayState where
  | active | ended | stopped
  deriving DecidableEq, Repr

/-- R382: a step in flight: its number and kind, its first tiles, its peer, the sequence number of its
first packet, and the next tile. -/
structure Flight where
  n : Nat
  kind : Nat
  src : Nat
  dst : Nat
  peer : Nat
  seq : Nat
  pos : Nat := 0
  /-- R383: readings of the local tile that were uncorrectable. -/
  tries : Nat := 0
  deriving DecidableEq, Repr

/-- R379: a relay: its request's number, place and generation, launch, snapshot, progress, packets
counted per peer, and why it stopped. -/
structure Relay where
  id : Nat
  stack : Nat
  slot : Nat
  gen : Nat
  launch : Nat
  r : RelayRec
  ids : List Nat
  st : RelayState := .active
  next : Nat := 0
  doneSteps : Nat := 0
  flights : List Flight := []
  sentTo : SMap Nat := []
  taken : SMap Nat := []
  warned : Bool := false
  why : Nat := 0
  whyStep : Nat := 0
  deriving DecidableEq, Repr

/-- R381: where a packet that a relay has sent stands. -/
inductive RelayWait where
  /-- Sent at an MTC tick. -/
  | out (t : Nat)
  /-- Answered busy at an MTC tick. -/
  | busy (t : Nat)
  /-- To be read and sent again. -/
  | again
  deriving DecidableEq, Repr

/-- R381, R384: a tile that a relay has sent and that is not yet acknowledged: the relay, the step, the
source tile, the attempt, and the packet. -/
structure RelaySent where
  relay : Nat
  step : Nat
  src : Nat
  peer : Nat
  attempt : Nat
  st : RelayWait
  pkt : RelayPacket
  /-- R384: readings of the source tile that were uncorrectable. -/
  tries : Nat := 0
  deriving DecidableEq, Repr

/-- R381: a packet in a unit's receive buffer: its stack, when it came, whether the module itself sent it,
and whether its receiving step has acknowledged it. -/
structure RelayHeld where
  stack : Nat
  pkt : RelayPacket
  at' : Nat
  own : Bool
  acked : Bool := false
  deriving DecidableEq, Repr

/-- R381, R396: a stop notice that matches no relay. -/
structure RelayNotice where
  stack : Nat
  chan : BitVec 16
  epoch : BitVec 16
  peer : BitVec 10
  cause : BitVec 8
  at' : Nat
  deriving DecidableEq, Repr

/-- R372: an entry of a unit's command queue: a relay by its request's number, a tile, or a stop notice. -/
inductive RelayCmd where
  | start (id : Nat)
  | tile (p : RelayPacket)
  | notice (chan epoch : BitVec 16) (peer : BitVec 10) (cause : BitVec 8)
  deriving DecidableEq, Repr

/-! ## Units -/

/-- R74: a bank of instruction memory: image id (0: none) and when it was last launched. -/
structure ImemBank where
  image : Addr := 0
  /-- The bank holds code of the image in its place `part` of the run. -/
  part : Nat := 0
  parts : Nat := 0
  last : Nat := 0
  dirty : Bool := false
  deriving DecidableEq, Repr

/-- R83: a parked task: what its frame does not hold of its context, its frame's number, the page it
waits for, and when it was parked. -/
structure Parked where
  ctx : Ctx
  frame : Nat
  page : Addr
  slot : Nat := 0
  ready : Bool := false
  noMap : Bool := false
  seq : Nat := 0
  deriving DecidableEq, Repr

/-- A core or a CCC. -/
structure UnitSt where
  /-- R78: the context that is ISSUING. -/
  cur : Option Nat := none
  /-- R79: the context that last left ISSUING, and the first cycle in which the next may issue. -/
  last : Nat := 7
  mayIssue : Nat := 0
  /-- R174, R201: the first cycle in which each vector pipe and the F pipe is free. -/
  vBusy : Vector Nat 3
  fBusy : Nat := 0
  key : Addr := 0
  counter : Addr := 0
  banks : Vector ImemBank 4
  /-- R74: the byte offset of the running launch's code. -/
  codeBase : Nat := 0
  arr : Arr
  l1 : SMap L1Sector := []
  /-- R230: sectors with a fill asked for by PREF. -/
  fills : List (Addr × Option (Nat × Nat)) := []
  clock : Nat := 0
  parked : List Parked := []
  /-- R85: the spill regions of the launch: window address and whether a task holds it. -/
  spills : List (Addr × Bool) := []
  deriving DecidableEq, Repr

/-- A unit with nothing running. -/
def UnitSt.reset (u : Nat) : UnitSt :=
  { banks := Vector.replicate 4 {}, arr := Arr.reset, vBusy := Vector.replicate 3 0
    counter := BitVec.ofNat 64 ((if u % 9 == 8 then 128 + u / 9 else 8 * (u / 9) + u % 9) * 2 ^ 48) }

/-! ## Clusters -/

/-- R405, R406: an entry of a task queue. -/
structure QEntry where
  task : Task
  seq : Nat
  launch : Nat
  deriving DecidableEq, Repr

/-- R406: a task queue: its entries, oldest first, and its next sequence number. -/
structure TaskQueue where
  entries : List QEntry := []
  next : Nat := 1
  deriving DecidableEq, Repr

/-- R416: what an entry of the stream controller's scoreboard is. -/
inductive StreamState where
  | free
  /-- A transfer, with the model's number of its copy. -/
  | pending (req : Nat)
  | resident
  | failed
  /-- A kernel that waits for the entries of a mask, or pushes: task, queue, COUNT, tasks pushed. -/
  | waiting (mask : Word) (task : Task) (queue count : Nat)
  | pushing (task : Task) (queue count pushed : Nat)
  deriving DecidableEq, Repr

/-- R416: an entry with its generation. -/
structure StreamEntry where
  gen : Nat := 0
  st : StreamState := .free
  deriving DecidableEq, Repr

/-- R325: a half of the storage staging area: the request that holds it, its queue pair, the MTC tick at which
its command times out, and whether the blocks are staged; a half with no request and `lost` waits for a
command that timed out. -/
structure Half where
  req : Option Nat := none
  qp : Nat := 0
  deadline : Nat := 0
  staged : Bool := false
  lost : Bool := false
  deriving DecidableEq, Repr

/-- R341: a codec's config registers. -/
structure CodecCfg where
  ub : Word := 65536
  pb : Word := 0
  route : Word := 0
  deriving DecidableEq, Repr

/-- A cluster's control core registers and engines. -/
structure ClusterSt where
  /-- R403: priorities of the task queues, listed where not 0. -/
  qpri : SMap (BitVec 3) := []
  queues : SMap TaskQueue := []
  rdata : Word := 0
  rstat : Word := 0
  dlimit : BitVec 4 := 8
  /-- R407: the queue last served at each priority, and the core that last took a queued task. -/
  served : SMap Nat := []
  lastCore : Nat := 7
  /-- R411: job counters. -/
  jobs : SMap Nat := []
  /-- R413: events, oldest first; those after the first 256 are held by the engines that post them. -/
  events : List (Word × Word) := []
  /-- R415: contexts that wait for an event, in the order they began. -/
  evWaiters : List Nat := []
  /-- R416: the stream controller's scoreboard. -/
  streamCtl : Vector StreamEntry 32 := Vector.replicate 32 {}
  /-- R318, R324: Busy and StoBusy of the Pacer, in MTC ticks. -/
  busy : Nat := 0
  stoBusy : Nat := 0
  halves : Vector Half 2 := Vector.replicate 2 {}
  codecs : Vector CodecCfg 2 := Vector.replicate 2 {}
  deriving DecidableEq, Repr

/-! ## Launches (R66 to R89, R440) -/

/-- R70, R73: what the kernel header says, with its counts rounded. -/
structure Header where
  flags : BitVec 16 := 0
  imageId : Addr := 0
  scalars : Nat := 0
  vectors : Nat := 0
  descs : Nat := 0
  vl : Nat := 128
  stage : Nat := 0
  spillBytes : Nat := 0
  sprint : Nat := 0
  handler : Word := 0xFFFFFFFF
  control : Word := 0
  codeSize : Nat := 0
  dataSize : Nat := 0
  deriving DecidableEq, Repr

/-- Where a launch stands. -/
inductive LaunchState where
  | queued | running | preempting | preempted | retiring
  deriving DecidableEq, Repr

/-- R264, R425: what a pre-empted launch keeps: by key what the save frames do not hold of its contexts,
and by unit its array, its parked
tasks and spill regions; its clusters' queues, scoreboard, counters, events and codecs; and the
generations of its node and walk slots. -/
structure Saved where
  ctxs : SMap Ctx
  arrs : SMap Arr
  parked : SMap (List Parked)
  spills : SMap (List (Addr × Bool))
  clusters : SMap ClusterSt
  gens : SMap Nat
  walkGens : SMap Nat
  storerEnds : SMap Nat
  deriving DecidableEq, Repr

/-- R440: how a launch ended: its status and RESULT. -/
structure Ending where
  status : Nat
  result : Addr := 0
  deriving DecidableEq, Repr

/-- A launch from its command to its completion. -/
structure Launch where
  uid : Nat
  session : Nat
  ring : Nat
  tag : BitVec 16 := 0
  id : Word := 0
  mask : BitVec 16 := 0
  image : Addr := 0
  place : Addr := 0
  args : Vector Word 4
  st : LaunchState := .queued
  hdr : Header := {}
  /-- Launched by a graph node rather than by a command of its own. -/
  graph : Bool := false
  secure : Bool := false
  /-- The code bytes that its banks hold (R74, R75). -/
  code : List Byte := []
  saved : Option Saved := none
  /-- R85, R323: the L2 slices that the launch reserves, by 160 * die + n, and those of each cluster's
  staging area. -/
  slices : List Nat := []
  staging : SMap (Nat × Nat) := []
  /-- R85, R246, R304, R360: each cluster's save areas: range of HBM, by 192 * die + n, and offset. -/
  store : SMap (Nat × Nat) := []
  /-- R398: the relay save area of each stack reduce unit. -/
  relayStore : SMap (Nat × Nat) := []
  /-- R305: the settle forcing has begun. -/
  settling : Bool := false
  ending : Option Ending := none
  deriving DecidableEq, Repr

/-- R88, R89: a fatal fault on its way to the management processor. -/
structure FatalReport where
  launch : Nat
  cause : Nat
  key : Nat
  slot : Nat
  addr : Word
  code : Word := 0
  inner : Nat := 0
  deriving DecidableEq, Repr

/-! ## Sessions (R434, R447, R453, R458) -/

/-- R323: a namespace slot. -/
structure NSlot where
  v : Bool := false
  nsid : Word := 0
  lbas : Nat := 0
  maxb : Nat := 0
  qp : Nat := 0
  tq : Nat := 0
  deriving DecidableEq, Repr

/-- R447, R450: a token ring, with the module's producer index, TCONS, pending count and first time. -/
structure TokenRing where
  en : Bool := false
  log2 : Nat := 0
  bus : Nat := 0
  count : Nat := 0
  time : Nat := 0
  vector : Nat := 0
  producer : Nat := 0
  tcons : Nat := 0
  pending : Nat := 0
  first : Nat := 0
  deriving DecidableEq, Repr

/-- R434: a session. Peers map an id to its port; page-service entries hold a request's number and
whether it is answered. -/
structure Session where
  opened : Bool := false
  secure : Bool := false
  ownId : Nat := 0
  hasPeers : Bool := false
  peers : SMap Nat := []
  windows : List (Nat × Nat) := []
  psBus : Nat := 0
  psLog2 : Nat := 0
  psVector : Nat := 0
  psProducer : Nat := 0
  psNumber : Nat := 0
  psEntries : List (Nat × Bool) := []
  rings : Vector TokenRing 16 := Vector.replicate 16 {}
  nslots : Vector NSlot 16 := Vector.replicate 16 {}
  deriving DecidableEq, Repr

/-- R439: a queue pair: sizes, doorbells, the SQ's place in the storage region, and its tail. -/
structure QPair where
  log2 : Nat := 0
  sqBell : Nat := 0
  cqBell : Nat := 0
  sq : Nat := 0
  tail : Nat := 0
  cqHead : Nat := 0
  deriving DecidableEq, Repr

/-! ## Command rings and the management processor (R430 to R464) -/

/-- R436: a completion entry that waits to be posted. -/
structure Completion where
  tag : BitVec 16
  status : Nat
  node : Nat := 0xFFFF
  result : Addr := 0
  deriving DecidableEq, Repr

/-- R445: a graph in progress: its VA, the node it stands at, the count and the limit, the bytes of the
node once it is read and until it completes, and the launch that it waits for. -/
structure GraphRun where
  va : Nat
  node : Nat
  count : Nat := 0
  limit : Nat
  bytes : List Byte := []
  launch : Option Nat := none
  deriving DecidableEq, Repr

/-- R437: the command that a ring runs. -/
inductive RingJob where
  | idle
  | launch (uid : Nat)
  | image (p : ImageP)
  | graph (g : GraphRun)
  | preempt (uid : Nat)
  | resume (uid : Nat)
  deriving DecidableEq, Repr

/-- R435: a command ring: its registers, the session it is bound to, the command in progress and its
tag, completions that wait for PHEAD, and R437's RST in progress. Indices count on from 0 without
wrapping at the ring's size (log entry 12). -/
structure CmdRing where
  cbase : Addr := 0
  csize : BitVec 4 := 0
  ctail : Word := 0
  chead : Word := 0
  pbase : Addr := 0
  psize : BitVec 4 := 0
  phead : Word := 0
  ptail : Word := 0
  en : Bool := false
  vector : BitVec 6 := 0
  rst : Bool := false
  session : Option Nat := none
  job : RingJob := .idle
  tag : BitVec 16 := 0
  posts : List Completion := []
  deriving DecidableEq, Repr

/-- R431: an entry of the MSI-X table; its mask bit is set at reset (log entry 13). -/
structure MsixEntry where
  addr : Addr := 0
  data : Word := 0
  masked : Bool := true
  deriving DecidableEq, Repr

/-- R459: a verified patch: its version, and its SHA-512. -/
structure Patch where
  version : Word
  digest : BitVec 512
  deriving DecidableEq, Repr

/-- R454: a 1 GiB range of HBM that some mapping or launch holds: its world, and the blocks held, as
offset and size. -/
structure HbmRange where
  secure : Bool := false
  blocks : List (Nat × Nat) := []
  deriving DecidableEq, Repr

/-- R262, R463, R461: what a reset keeps and what the status registers hold. -/
structure Firmware where
  ready : Bool := true
  failed : Bool := false
  bfail : BitVec 4 := 0
  ttrip : Bool := false
  staged : Option Patch := none
  active : Option Patch := none
  /-- R463: the limiter's target in W. -/
  power : Nat := 3000
  deriving DecidableEq, Repr

/-- R465: the debug port's registers; the model's own places of the trace buffer: the block whose anchor
is set, and that records are dropped until TCTL is written; the stages halted, by launch. -/
structure DebugPort where
  ddata : Addr := 0
  dstat : BitVec 4 := 0
  dsess : BitVec 3 := 0
  en : Bool := false
  tbase : Addr := 0
  tsize : Word := 0
  tctl : Word := 0
  toff : Nat := 0
  twraps : Nat := 0
  tdrop : Word := 0
  block : Option Nat := none
  full : Bool := false
  halted : List (Nat × Nat) := []
  /-- R55, R468: an access that woke a drowsy bank: the cycle in which it completes, and its status. -/
  late : Option (Nat × BitVec 4) := none
  deriving DecidableEq, Repr

/-- The model's own (log entry 1): what the machine does next in this cycle, in order. -/
inductive Turn where
  | latch (key : Nat)
  | land (key : Nat)
  | admission (key : Nat)
  | again (key : Nat)
  | store (key : Nat)
  | atomic (key : Nat)
  | fill (unit : Nat)
  | array (unit : Nat)
  | evaluate (id : Nat)
  | copies (cluster : Nat)
  | storage (cluster : Nat)
  | transform (cluster : Nat)
  | walk (id : Nat)
  | port (n : Nat)
  | unanswered (i : Nat)
  | inbox
  | relay (id : Nat)
  | relaySent (i : Nat)
  | relayHeld (i : Nat)
  | relayQueue (stack : Nat)
  | request (id : Nat)
  | kernels (cluster : Nat)
  | page (session va : Nat)
  | translate (die : Nat)
  | flit (boundary : Bool) (n : Nat)
  | token (session ring : Nat)
  | host
  | ring (n : Nat)
  | fatal (uid : Nat)
  | launch (uid : Nat)
  | clock
  | sample
  | clear (key : Nat)
  | sleep (key : Nat)
  | stop (key : Nat)
  | codebook (key : Nat)
  | debug
  | drain (key : Nat)
  | blocks (key : Nat)
  | drowsy (key : Nat)
  | dispatch (cluster : Nat)
  | restore (unit : Nat)
  | random (unit : Nat)
  | schedule (unit : Nat)
  | tired (key : Nat)
  | issue (unit : Nat)
  | precheck (key : Nat)
  deriving DecidableEq, Repr

/-- What the module sends out, in order: interrupts (R431), tiles, answers, packets and notices. -/
inductive Signal where
  /-- R431: an MSI-X message: its vector, address and data. -/
  | vector (n : Nat) (addr : Addr) (data : Word)
  /-- R365: a tile for a peer. -/
  | tile (peer : Nat) (p : TilePacket)
  /-- R366: the answer to a tile: 0 acknowledged, 7 NAK, else the reason of a refusal. -/
  | answer (port : Nat) (peer : Nat) (p q : Nat) (code : Nat)
  /-- R381: a relay packet for the unit of a stack number in a peer. -/
  | relayTile (peer stack : Nat) (p : RelayPacket)
  /-- R381, R383: the answer to one: 0 acknowledged, 7 NAK, 8 busy, else the reason of a refusal. -/
  | relayAnswer (peer stack : Nat) (chan epoch : BitVec 16) (seq code : Nat)
  /-- R396: a stop notice. -/
  | stopNotice (peer stack : Nat) (chan epoch : BitVec 16) (cause : Nat)
  deriving DecidableEq, Repr

/-! ## The module -/

/-- The model's own: how the slot just executed left its context. -/
inductive Flow where
  /-- Committed. -/
  | done
  /-- Not committed: it waits and is tried again. -/
  | wait
  /-- A trap or fatal fault: the bundle goes no further. -/
  | trapped
  deriving DecidableEq, Repr

/-- The machine. Maps list what differs from the default that their accessor names. -/
structure State where
  /-- The model's own: steps that happen next, from outside or from an engine (log entry 1). -/
  inputs : List Instr
  /-- The model's own: the times and orders that the manual does not promise (log entry 2). -/
  choices : List Nat
  /-- The model's own: how many open values have been taken (log entry 2). -/
  freeCount : Nat
  /-- The model's own: the context and the slot that an instruction acts for (log entry 1). -/
  cur : Nat
  slot : Nat
  /-- The model's own: the slot just executed waits, traps or is done (log entry 1). -/
  flow : Flow
  /-- The model's own: what still happens in this cycle (log entry 1). -/
  agenda : List Turn
  /-- The model's own: numbers given to tasks, accesses, stores and engine requests. -/
  nextUid : Nat
  cycle : Nat
  mtc : Addr
  /-- R12, R13: the core clock in Hz, and the ticks owed to MTC times the clock. -/
  clock : Nat
  mtcFrac : Nat
  mem : List Host.Cell
  ctxs : SMap Ctx
  units : SMap UnitSt
  clusters : SMap ClusterSt
  tags : SMap TagRec
  /-- The pages of each session. -/
  pages : SMap (List Page)
  /-- R238: page faults reported and not yet resolved, in arrival order. -/
  faults : List PageFault
  /-- R238, R453: engine requests that were refused a page. -/
  refused : List Nat
  /-- R8, R237: by die, the pages whose translations its owner TLB holds, newest first, and those that
  its walkers look for: session and first address. -/
  tlbs : SMap (List (Nat × Nat))
  walkers : SMap (List (Nat × Nat))
  /-- R21, R235: sectors that the owners have read for engines. -/
  engineReads : List EngineRead
  /-- R239: sectors, by flat key, whose data holds an uncorrectable ECC error. -/
  ecc : List Nat
  /-- R273: the nodes that are not FREE, oldest first; generations by 1024 * cluster + slot. -/
  nodes : List Node
  gens : SMap Nat
  evals : List Eval
  /-- R109: engine requests, in issue order. -/
  engs : List EngReq
  /-- R344: walks whose slot is not free, and the generations of the slots, by cluster, engine, slot. -/
  walks : List Walk
  walkGens : SMap Nat
  /-- R359: by walk slot, the handle of the last storer that ended there. -/
  storerEnds : SMap Nat
  /-- R364, R366: parts of sends, tiles not yet answered, and tiles that wait in a receiving port. -/
  parts : List SendPart
  sent : List SentTile
  inbox : List TilePacket
  /-- R372: relays, the generations of relay slots by 16 * stack + slot, packets sent and not yet
  acknowledged, the receive buffers, and stop notices kept. -/
  relays : List Relay
  relayGens : SMap Nat
  relaySent : List RelaySent
  relayBuf : List RelayHeld
  relayNotices : List RelayNotice
  /-- R372: by stack number, the command queue of its unit: 64 entries, and behind them what waits at a port. -/
  relayQ : SMap (List RelayCmd)
  /-- R361: ports marked failed, and each port's failed copies of its present flit. -/
  portFailed : BitVec 16
  portFlits : SMap Nat
  /-- R302: engine requests and walks whose demand failed: they stop. -/
  deferred : List Nat
  /-- R454: worlds of the L2 slices, true for secure; slice 160 * die + n. -/
  slices : SMap Bool
  sessions : SMap Session
  qpairs : SMap QPair
  /-- R319: an announced lowering of the clock: its Hz and the MTC tick at which it takes effect. -/
  announced : Option (Nat × Nat)
  signals : List Signal
  hostWins : Vector HostWindow 8
  viol : Word
  launches : List Launch
  fatals : List FatalReport
  rings : SMap CmdRing
  msix : SMap MsixEntry
  /-- R300: the host's writes that wait: session, aperture offset and bytes, oldest first. -/
  hostHeld : List (Nat × Nat × List Byte)
  /-- R431: the MSI-X pending-bit array. -/
  msixPend : BitVec 64
  firmware : Firmware
  /-- R11: each boundary's failed copies of its present flit. -/
  boundaryFlits : SMap Nat
  /-- R454: ranges of HBM that mappings hold, 192 * die + n. -/
  hbm : SMap HbmRange
  /-- R454: the worlds of the clusters. -/
  worlds : BitVec 16
  dbg : DebugPort
  deriving DecidableEq, Repr

/-- R461: the module after its reset and bring-up. -/
def State.reset : State :=
  { inputs := [], choices := [], freeCount := 0, cur := 0, slot := 0, flow := .done, agenda := []
    nextUid := 1, cycle := 0, mtc := 0, clock := 2700000000, mtcFrac := 0, mem := [], ctxs := []
    units := [], clusters := [], tags := [], pages := [], faults := [], refused := [], tlbs := [], walkers := [], engineReads := [], ecc := [], nodes := [], gens := [], evals := [], engs := [], deferred := []
    walks := [], walkGens := [], storerEnds := [], parts := [], sent := [], inbox := []
    relays := [], relayGens := [], relaySent := [], relayBuf := [], relayNotices := [], relayQ := []
    portFailed := 0, portFlits := [],
    slices := []
    sessions := [], qpairs := [], announced := none, signals := []
    hostWins := Vector.replicate 8 {}, viol := 0, launches := [], fatals := []
    rings := [], msix := [], hostHeld := [], msixPend := 0, firmware := {}, boundaryFlits := [], hbm := [], worlds := 0
    dbg := {} }

/-- Why a step stops without a next state. No instruction of this hardware is left without an effect
by the manual, so no meaning raises one. -/
inductive Fault where
  /-- Never raised: the type is inhabited so that the interface has a fault to name. Safe. -/
  | none
  deriving DecidableEq, Repr

/-- Why an instruction has no meaning in the model. -/
inductive Refusal where
  /-- Raised by `exec` for an instruction that has no meaning yet. Safe: the model stops. -/
  | notModelled (mnemonic : String)
  deriving DecidableEq, Repr

end Sys2Proof.Machine
end

