-- ==== Sys2Proof/Machine/Ops.lean ====
section
/-! DEFINITION. The named operations over the state: coordinates, memory, address windows, contexts,
results in flight, waiting, taking a trap and returning from one. -/

namespace Sys2Proof.Machine

/-! ## Memory as a list of cells; an unlisted byte reads 0 (log entry 4) -/

/-- What an address that is not listed reads as (log entry 4). -/
def memDefault : Byte := 0

/-- One byte of memory. -/
def memGet : List Host.Cell → Nat → Byte
  | [], _ => memDefault
  | (j, b) :: rest, k => if j = k then b else memGet rest k

/-- Every address in a list is above `k`. -/
def memAbove (k : Nat) : List Host.Cell → Bool
  | [] => true
  | (j, _) :: _ => decide (k < j)

/-- The canonical form: addresses strictly rise, and no entry is what an unlisted byte reads as. -/
def Memory.wf : List Host.Cell → Bool
  | [] => true
  | (j, b) :: rest => memAbove j rest && decide (b ≠ memDefault) && Memory.wf rest

/-- The cells from address `k` on. -/
def memFrom (k : Nat) : List Host.Cell → List Host.Cell
  | [] => []
  | (j, b) :: rest => if j < k then memFrom k rest else (j, b) :: memFrom k rest

/-- The cells before address `k`. -/
def memUpto (k : Nat) : List Host.Cell → List Host.Cell
  | [] => []
  | (j, b) :: rest => if j < k then (j, b) :: memUpto k rest else memUpto k rest

/-- `n` bytes from `k` on, from cells that begin no earlier. -/
def memTake : List Host.Cell → Nat → Nat → List Byte
  | _, _, 0 => []
  | [], k, n + 1 => memDefault :: memTake [] (k + 1) n
  | (j, b) :: rest, k, n + 1 =>
    if j = k then b :: memTake rest (k + 1) n else memDefault :: memTake ((j, b) :: rest) (k + 1) n

/-- `n` bytes from `k` on. -/
def memRead (m : List Host.Cell) (k n : Nat) : List Byte := memTake (memFrom k m) k n

/-- The cells that bytes from `k` on take. -/
def memCells (k : Nat) : List Byte → List Host.Cell
  | [] => []
  | b :: bs => if b = memDefault then memCells (k + 1) bs else (k, b) :: memCells (k + 1) bs

/-- Writes bytes from `k` on; a byte that holds what an unlisted one reads as is not listed. -/
def memWrite (m : List Host.Cell) (k : Nat) (bs : List Byte) : List Host.Cell :=
  memUpto k m ++ memCells k bs ++ memFrom (k + bs.length) m

/-- Bytes from `lo` to below `hi` take what an unlisted byte reads as. -/
def memClear (m : List Host.Cell) (lo hi : Nat) : List Host.Cell :=
  m.filter fun c => !(decide (lo ≤ c.1) && decide (c.1 < hi))

/-! ## Coordinates (00_scope.md) -/

/-- The unit of a context. -/
def unitOf (key : Nat) : Nat := key / 8
/-- The context number within its unit. -/
def ctxOf (key : Nat) : Nat := key % 8
/-- The cluster of a unit. -/
def clusterOf (u : Nat) : Nat := u / 9
/-- The core number of a unit; 8 for a CCC. -/
def coreOf (u : Nat) : Nat := u % 9
/-- The unit is a CCC. -/
def isCcc (u : Nat) : Bool := u % 9 == 8
/-- R6: the die of a cluster. -/
def dieOf (cluster : Nat) : Nat := cluster / 4
/-- The unit of core `n` of cluster `c`. -/
def unitNo (c n : Nat) : Nat := 9 * c + n
/-- The CCC of cluster `c`. -/
def cccNo (c : Nat) : Nat := 9 * c + 8
/-- R7: contexts of a unit. -/
def ctxCount (u : Nat) : Nat := if isCcc u then 4 else 8
/-- The keys of a unit's contexts. -/
def keysOf (u : Nat) : List Nat := (List.range (ctxCount u)).map (8 * u + ·)
/-- The units of a cluster: its cores, then its CCC. -/
def unitsOf (c : Nat) : List Nat := (List.range 9).map (9 * c + ·)

/-! ## Parts of the state -/

/-- A context. -/
def State.ctxAt (s : State) (key : Nat) : Ctx := s.ctxs.get Ctx.reset key
/-- Replaces a context. -/
def State.setCtx (s : State) (key : Nat) (c : Ctx) : State := { s with ctxs := s.ctxs.put key c }
/-- Changes a context. -/
def State.updCtx (s : State) (key : Nat) (f : Ctx → Ctx) : State := s.setCtx key (f (s.ctxAt key))
/-- The context an instruction acts for. -/
def State.ctx (s : State) : Ctx := s.ctxAt s.cur
/-- Changes the context an instruction acts for. -/
def State.upd (s : State) (f : Ctx → Ctx) : State := s.updCtx s.cur f
/-- A unit. -/
def State.unitAt (s : State) (u : Nat) : UnitSt := s.units.get (UnitSt.reset u) u
/-- Replaces a unit. -/
def State.setUnit (s : State) (u : Nat) (x : UnitSt) : State := { s with units := s.units.put u x }
/-- Changes a unit. -/
def State.updUnit (s : State) (u : Nat) (f : UnitSt → UnitSt) : State := s.setUnit u (f (s.unitAt u))
/-- A cluster. -/
def State.clusterAt (s : State) (c : Nat) : ClusterSt := s.clusters.get {} c
/-- Changes a cluster. -/
def State.updCluster (s : State) (c : Nat) (f : ClusterSt → ClusterSt) : State :=
  { s with clusters := s.clusters.put c (f (s.clusterAt c)) }
/-- The unit of the acting context. -/
def State.unit (s : State) : Nat := unitOf s.cur
/-- The cluster of the acting context. -/
def State.cluster (s : State) : Nat := clusterOf s.unit
/-- Marks how the slot ended. -/
def State.ends (s : State) (f : Flow) : State := { s with flow := f }

/-- The next promised-to-nobody number of the tape, 0 when it is empty, and the state without it. -/
def State.choice (s : State) : Nat × State :=
  match s.choices with
  | [] => (0, s)
  | c :: cs => (c, { s with choices := cs })

/-- An open 32-bit value (log entry 2). -/
def State.freeWord (s : State) : Word × State :=
  (Config.freeWord s.freeCount, { s with freeCount := s.freeCount + 1 })

/-- An open byte (log entry 2). -/
def State.freeByte (s : State) : Byte × State :=
  (Config.freeByte s.freeCount, { s with freeCount := s.freeCount + 1 })

/-- A fresh number for a task, access, store or request. -/
def State.fresh (s : State) : Nat × State := (s.nextUid, { s with nextUid := s.nextUid + 1 })

/-! ## Launches -/

/-- The launch holds its extent: from its start until it retires. -/
def Launch.live (l : Launch) : Bool :=
  l.st == .running || l.st == .preempting || l.st == .retiring

/-- R66: the launch that runs on a cluster. -/
def State.launchOn (s : State) (c : Nat) : Option Launch :=
  s.launches.find? fun l => l.live && l.mask.getLsbD c

/-- A launch by the model's number. -/
def State.launchBy (s : State) (uid : Nat) : Option Launch := s.launches.find? (·.uid == uid)

/-- Changes a launch. -/
def State.updLaunch (s : State) (uid : Nat) (f : Launch → Launch) : State :=
  { s with launches := modifyFirst (·.uid == uid) f s.launches }

/-- A launch with nothing: stands where no launch runs. -/
def Launch.none : Launch := { uid := 0, session := 0, ring := 0, args := Vector.replicate 4 0 }

/-- The launch of the acting context's cluster. -/
def State.launch (s : State) : Launch := (s.launchOn s.cluster).getD Launch.none

/-- The header of the launch on a context's cluster. -/
def State.hdrOf (s : State) (key : Nat) : Header :=
  ((s.launchOn (clusterOf (unitOf key))).getD Launch.none).hdr

/-- The session whose addresses a unit uses. -/
def State.sessionOf (s : State) (u : Nat) : Nat :=
  ((s.launchOn (clusterOf u)).getD Launch.none).session

/-! ## Addresses (R90, R91)

A flat key names one byte of the whole module: the high part is the space, the low part the place in
it. Device frames are zero-filled and unaliased, so a session's paged byte is its virtual address. -/

/-- The key of a byte of a session's device pages. -/
def devKey (session va : Nat) : Nat := (1 + session) * 2 ^ 64 + va
/-- The key of a byte of the host's bus. -/
def busKey (bus : Nat) : Nat := 16 * 2 ^ 64 + bus
/-- The key of a byte of a core's scratchpad. -/
def spadKey (c n off : Nat) : Nat := 17 * 2 ^ 64 + (8 * c + n) * 2 ^ 20 + off
/-- The key of a byte of a cluster's SRAM. -/
def sramKey (c off : Nat) : Nat := 18 * 2 ^ 64 + c * 2 ^ 24 + off
/-- The key of a byte of an L2 slice. -/
def l2Key (die slice off : Nat) : Nat := 19 * 2 ^ 64 + (die * 160 + slice) * 2 ^ 20 + off
/-- The key of a byte of a unit's instruction memory. -/
def imemKey (u off : Nat) : Nat := 20 * 2 ^ 64 + u * 2 ^ 18 + off

/-- The key of a byte of a die's HBM that no session maps, by its physical offset. -/
def hbmKey (die p : Nat) : Nat := 23 * 2 ^ 64 + die * 2 ^ 38 + p

/-- R90, R91: where an address leads. -/
inductive Place where
  /-- Reserved region, reserved window or a set bit that must be zero. -/
  | bad
  /-- Region 0x0 to 0x3: HBM of a die. -/
  | hbm (die : Nat)
  /-- Region 0x8: host-backed memory owned by a die. -/
  | host (die : Nat)
  /-- Window 0x0. -/
  | ownPad (off : Nat)
  /-- Window 0x1. -/
  | sram (off : Nat)
  /-- Window 0x2. -/
  | pad (core off : Nat)
  /-- Window 0x3. -/
  | slice (die n off : Nat)
  deriving DecidableEq, Repr

/-- R91: a window address, for a core or a CCC. -/
def windowOf (ccc : Bool) (va : Addr) : Place :=
  match (va.extractLsb' 48 4).toNat with
  | 0 => if ccc || va.extractLsb' 20 28 != 0 then .bad else .ownPad (va.extractLsb' 0 20).toNat
  | 1 => if va.extractLsb' 24 24 != 0 then .bad else .sram (va.extractLsb' 0 24).toNat
  | 2 =>
    if ccc || va.extractLsb' 23 25 != 0 then .bad
    else .pad (va.extractLsb' 20 3).toNat (va.extractLsb' 0 20).toNat
  | 3 =>
    if va.extractLsb' 30 18 != 0 || 160 ≤ (va.extractLsb' 20 8).toNat then .bad
    else .slice (va.extractLsb' 28 2).toNat (va.extractLsb' 20 8).toNat (va.extractLsb' 0 20).toNat
  | _ => .bad

/-- R90: where an address of a core (or, with `ccc`, a CCC) leads. -/
def placeOf (ccc : Bool) (va : Addr) : Place :=
  if va.extractLsb' 56 8 != 0 then .bad
  else match (va.extractLsb' 52 4).toNat with
    | 0 => .hbm 0
    | 1 => .hbm 1
    | 2 => .hbm 2
    | 3 => .hbm 3
    | 8 => .host (va.extractLsb' 50 2).toNat
    | 15 => windowOf ccc va
    | _ => .bad

/-- The place is a window of region 0xF. -/
def Place.isWindow : Place → Bool
  | .ownPad _ => true
  | .sram _ => true
  | .pad _ _ => true
  | .slice _ _ _ => true
  | .bad => false
  | .hbm _ => false
  | .host _ => false

/-- R90: the die that owns a paged address. -/
def ownerDie (va : Addr) : Nat :=
  if va.extractLsb' 52 4 == 8 then (va.extractLsb' 50 2).toNat else (va.extractLsb' 52 2).toNat

/-- The page of a session that holds an address. -/
def findPage (ps : List Page) (va : Nat) : Option Page :=
  ps.find? fun p => decide (p.va ≤ va) && decide (va < p.va + p.size)

/-- The page of a session that holds an address. -/
def State.pageOf (s : State) (session : Nat) (va : Addr) : Option Page :=
  findPage (s.pages.get [] session) va.toNat

/-- R9: the stack that holds a physical offset of a die's HBM: blocks of 4 KiB go round its four. -/
def stackAt (die p : Nat) : Nat := 4 * die + p / 2 ^ 12 % 4

/-- R9, R90: the stack that holds a byte of a session's device memory, by the place of its page's frame. -/
def State.stackOf (s : State) (session : Nat) (va : Addr) : Option Nat :=
  if 2 ^ 54 ≤ va.toNat then none
  else (s.pageOf session va).map fun p => stackAt (ownerDie va) (p.phys + (va.toNat - p.va))

/-- R10: the dies that a transfer passes through, its own and its owner's among them: a diagonal one
crosses the boundary that changes the column first. Dies 2r and 2r + 1 stand in row r. -/
def pathOf (src dst : Nat) : List Nat :=
  if src == dst then [src]
  else if src % 2 != dst % 2 && src / 2 != dst / 2 then [src, src / 2 * 2 + dst % 2, dst]
  else [src, dst]

/-- R10: the boundary between two dies: 0-1, 1-3, 3-2 and 2-0. -/
def boundaryOf (a b : Nat) : Option Nat :=
  [(0, 1), (1, 3), (3, 2), (2, 0)].findIdx? fun p => p == (a, b) || p == (b, a)

/-- R10: the boundaries that a transfer crosses, in order. -/
def boundaries (src dst : Nat) : List Nat :=
  let p := pathOf src dst
  (p.zip (p.drop 1)).filterMap fun x => boundaryOf x.1 x.2

/-- Changes the page of a session that holds an address. -/
def State.updPage (s : State) (session : Nat) (va : Addr) (f : Page → Page) : State :=
  let hit := fun (p : Page) => decide (p.va ≤ va.toNat) && decide (va.toNat < p.va + p.size)
  { s with pages := s.pages.put session (modifyFirst hit f (s.pages.get [] session)) }

/-- The flat key of a byte as unit `u` addresses it in a session. A host-backed page leads to its
frame on the bus; a byte with no place gets the key of its device address, and is never accessed. -/
def State.flat (s : State) (u session : Nat) (va : Addr) : Nat :=
  match placeOf (isCcc u) va with
  | .ownPad off => spadKey (clusterOf u) (coreOf u) off
  | .sram off => sramKey (clusterOf u) off
  | .pad n off => spadKey (clusterOf u) n off
  | .slice d n off => l2Key d n off
  | .host _ =>
    match s.pageOf session va with
    | some p => busKey (p.bus + (va.toNat - p.va))
    | none => devKey session va.toNat
  | .hbm _ => devKey session va.toNat
  | .bad => devKey session va.toNat

/-- A sector's number among a session's sectors, for the tags. -/
def sectorKey (session : Nat) (va : Addr) : Nat := devKey session va.toNat / 128

/-- The first address of the sector that holds an address. -/
def sectorBase (va : Addr) : Addr := BitVec.ofNat 64 (va.toNat / 128 * 128)

/-- R234: the tag of the sector that holds an address; VALUE where its page is not lazy. -/
def State.tagOf (s : State) (session : Nat) (va : Addr) : TagRec := s.tags.get {} (sectorKey session va)

/-- Writes a tag. -/
def State.setTag (s : State) (session : Nat) (va : Addr) (t : TagRec) : State :=
  { s with tags := s.tags.put (sectorKey session va) t }

/-! ## Owner accesses (R104) -/

/-- R433: some enabled window holds the whole range, writable when `write`. -/
def hostAllowed (ws : Vector HostWindow 8) (bus n : Nat) (write : Bool) : Bool :=
  ws.toList.any fun w => w.en && decide (w.base.toNat ≤ bus) && decide (bus + n ≤ w.limit.toNat + 1)
    && !(write && w.rdonly)

/-- R433: counts a refused request. -/
def State.violate (s : State) : State :=
  { s with viol := if s.viol == 0xFFFFFFFF then s.viol else s.viol + 1 }

/-- R104: bytes read at their owner. -/
def State.ownerRead (s : State) (u session : Nat) (va : Addr) (n : Nat) : List Byte :=
  memRead s.mem (s.flat u session va) n

/-- R234: a write to a POISON sector first zeroes it. -/
def State.cleanse (s : State) (session : Nat) (va : Addr) : State :=
  if (s.tagOf session va).tag == .poison then
    let base := sectorBase va
    { s with mem := memWrite s.mem (devKey session base.toNat) (List.replicate 128 0)
             tags := s.tags.del (sectorKey session va) }
  else s

/-- R104, R234, R433: bytes of one sector written at their owner; a write to host memory outside the
windows is discarded and counted. -/
def State.ownerWrite (s : State) (u session : Nat) (va : Addr) (bs : List Byte) : State :=
  match placeOf (isCcc u) va with
  | .host _ =>
    let k := s.flat u session va
    if hostAllowed s.hostWins (k - busKey 0) bs.length true then { s with mem := memWrite s.mem k bs }
    else s.violate
  | p =>
    let s1 := if p.isWindow then s else s.cleanse session va
    { s1 with mem := memWrite s1.mem (s1.flat u session va) bs }

/-- A little-endian number read at the owner. -/
def State.ownerNat (s : State) (u session : Nat) (va : Addr) (n : Nat) : Nat :=
  leNat (s.ownerRead u session va n)

/-! ## Identity and operands (R36) -/

/-- R36: an operand specifier, read from the registers as the bundle's issue saw them. -/
def State.spec (s : State) (x : BitVec 6) (imm : Word) : Word :=
  let n := x.toNat
  let c := s.ctx
  if n < 32 then (if n = 0 then 0 else c.rd.s.getD n 0)
  else if n < 48 then c.rd.t.getD (n - 32) 0
  else match n with
    | 48 => BitVec.ofNat 32 (ctxOf s.cur)
    | 49 => BitVec.ofNat 32 (coreOf s.unit)
    | 50 => BitVec.ofNat 32 s.cluster
    | 51 => match c.task with
      | some t => t.stage.setWidth 32
      | none => 0
    | 52 => BitVec.ofNat 32 (dieOf s.cluster)
    | 53 => BitVec.ofNat 32 s.launch.hdr.vl
    | 54 => 1
    | 55 => 2
    | 56 => 4
    | 57 => 8
    | 58 => 16
    | 59 => 32
    | 60 => 0xFFFFFFFF
    | 61 => 0x80000000
    | 62 => 0x7FFFFFFF
    | _ => imm

/-- A named scalar as read at issue; s0 reads 0. -/
def State.rdS (s : State) (n : Nat) : Word := if n = 0 then 0 else s.ctx.rd.s.getD n 0
/-- An address register as read at issue. -/
def State.rdA (s : State) (n : Nat) : Addr := s.ctx.rd.a.getD n 0
/-- A descriptor as read at issue. -/
def State.rdD (s : State) (n : Nat) : BitVec 512 := s.ctx.rd.d.getD n 0
/-- A predicate as read at issue. -/
def State.rdQ (s : State) (n : Nat) : Pred := s.ctx.rd.q.getD n (Pred.full s.launch.hdr.vl)
/-- A run vector as read at issue. -/
def State.rdV (s : State) (n : Nat) : RunVec := s.ctx.rd.v.getD n [(0, s.launch.hdr.vl)]

/-! ## Instruction memory (R25, R76) -/

/-- R25, R76: up to 64 bytes of code from a byte offset on; none at or beyond the code size or at an
odd offset. -/
def State.codeBytes (s : State) (key : Nat) (pc : Addr) : Option (List Byte) :=
  let size := (s.hdrOf key).codeSize
  if size ≤ pc.toNat || pc.toNat % 2 == 1 then none
  else some (memRead s.mem (imemKey (unitOf key) ((s.unitAt (unitOf key)).codeBase + pc.toNat))
    (min 64 (size - pc.toNat)))

/-- The header of the bundle at a byte offset. -/
def State.headerAt (s : State) (key : Nat) (pc : Addr) : BitVec 64 :=
  BitVec.ofNat 64 (leNat (((s.codeBytes key pc).getD []).take 8))

/-! ## Results in flight (R45 to R53) -/

/-- The full/empty bit of a register. -/
def Bank.full (b : Bank) (file : RegFile) (n : Nat) : Bool :=
  match file with
  | .s => n == 0 || b.sFull.getLsbD n
  | .a => b.aFull.getLsbD n
  | .v => b.vFull.getLsbD n
  | .q => true
  | .d => true

/-- Sets or clears a bit of a mask. -/
def setBit {w : Nat} (m : BitVec w) (n : Nat) (b : Bool) : BitVec w :=
  if b then m ||| BitVec.ofNat w (2 ^ n) else m &&& ~~~(BitVec.ofNat w (2 ^ n))

/-- R49: writes the full/empty bit of a register. -/
def Bank.setFull (b : Bank) (file : RegFile) (n : Nat) (v : Bool) : Bank :=
  match file with
  | .s => { b with sFull := setBit b.sFull n v }
  | .a => { b with aFull := setBit b.aFull n v }
  | .v => { b with vFull := setBit b.vFull n v }
  | .q => b
  | .d => b

/-- R53: enters the result queue. -/
def Bank.enter (b : Bank) (w : Word) : Bank :=
  { b with t := Vector.ofFn fun i => if i.val = 0 then w else b.t.getD (i.val - 1) 0 }

/-- R47, R49: one value lands; s0 keeps 0 and q0 its fixed value. -/
def Bank.land (b : Bank) : RegVal → Bank
  | .s n w => if n = 0 then b else { b with s := b.s.setIfInBounds n w }.setFull .s n true
  | .a n x => { b with a := b.a.setIfInBounds n x }.setFull .a n true
  | .v n r => { b with v := b.v.setIfInBounds n r }.setFull .v n true
  | .q n p => if n = 0 then b else { b with q := b.q.setIfInBounds n p }
  | .d n x => { b with d := b.d.setIfInBounds n x }
  | .empty f n => b.setFull f n false
  | .sys _ _ => b

/-- The register a value goes to. -/
def RegVal.dest : RegVal → Option (RegFile × Nat)
  | .s n _ => if n = 0 then none else some (.s, n)
  | .a n _ => some (.a, n)
  | .v n _ => some (.v, n)
  | .q n _ => some (.q, n)
  | .d n _ => some (.d, n)
  | .empty _ _ => none
  | .sys _ _ => none

/-- Adds a result in flight for the acting slot. -/
def State.pushPend (s : State) (vals : List RegVal) (enq : Option Word) (due : Nat) (fixed : Bool)
    (sb : Option Nat := none) : State :=
  s.upd fun c => { c with pend := c.pend ++ [{ vals, enq, due, fixed, seq := c.seq, slot := s.slot, sb }] }

/-- R49: a variable-latency producer empties its destination at issue. -/
def Bank.emptyDests (b : Bank) (vals : List RegVal) : Bank :=
  vals.foldl (fun b v => match v.dest with | some (f, n) => b.setFull f n false | none => b) b

/-- R45, R46: a fixed-latency result of the acting slot, seen from `lat` cycles after its commit. -/
def State.fixed (s : State) (lat : Nat) (vals : List RegVal) (enq : Option Word := none)
    (sb : Option Nat := none) : State :=
  (s.pushPend vals enq (s.cycle + lat) true sb).ends .done

/-- R49: destinations are emptied in the cycle of the bundle's issue, and not again where their slot
commits later. -/
def Ctx.emptyNow (c : Ctx) (cycle : Nat) (vals : List RegVal) : Bank :=
  if c.issueAt == cycle then c.bank.emptyDests vals else c.bank

/-- R45, R49: a variable-latency result of the acting slot, seen from cycle `due`. -/
def State.variable (s : State) (due : Nat) (vals : List RegVal) (enq : Option Word := none)
    (sb : Option Nat := none) : State :=
  ((s.upd fun c => { c with bank := c.emptyNow s.cycle vals }).pushPend vals enq due false sb).ends .done

/-- R143: a fixed-latency S result in s[dst], which also enters the queue. -/
def State.scalarOut (s : State) (dst : BitVec 5) (lat : Nat) (w : Word) : State :=
  s.fixed lat [.s dst.toNat w] (some w)

/-- R143: a fixed-latency address result; its low word enters the queue. -/
def State.addrOut (s : State) (dst : BitVec 5) (lat : Nat) (x : Addr) : State :=
  s.fixed lat [.a dst.toNat x] (some (x.setWidth 32))

/-- A result of unpromised time: one cycle after the next, later by what the tape says. -/
def State.laterDue (s : State) : Nat × State :=
  let (c, s) := s.choice
  (s.cycle + 2 + c, s)

/-- A variable-latency scalar result with no promised time. -/
def State.scalarLater (s : State) (dst : BitVec 5) (w : Word) : State :=
  let (due, s) := s.laterDue
  s.variable due [.s dst.toNat w]

/-! ## Interrupts (R431) -/

/-- R431: signals an MSI-X vector; a masked one is pending. -/
def State.interrupt (s : State) (n : Nat) : State :=
  let e := s.msix.get {} n
  if e.masked then { s with msixPend := setBit s.msixPend n true }
  else { s with signals := s.signals ++ [.vector n e.addr e.data] }

/-! ## The trace buffer (R476 to R479) -/

/-- A 16-bit unit address as the registers hold it. -/
def unitsAddr (x : Addr) : Word := (x >>> 1).setWidth 32
/-- The byte offset of a 16-bit unit address. -/
def bytesAddr (w : Word) : Addr := w.setWidth 64 <<< 1

/-- R477: the first 8 bytes of a block are its anchor. -/
def tracePlace (off : Nat) : Nat := if off % 4096 == 0 then off + 8 else off

/-- R477: the parts of a record from an offset on, and the offset after it. -/
def traceParts : Nat → Nat → List Byte → List (Nat × List Byte) × Nat
  | 0, off, _ => ([], off)
  | fuel + 1, off, bs =>
    if bs.isEmpty then ([], off)
    else
      let o := tracePlace off
      let k := min bs.length (4096 - o % 4096)
      let (ps, e) := traceParts fuel (o + k) (bs.drop k)
      ((o, bs.take k) :: ps, e)

/-- R476: bytes of the buffer are written at their owner; where no present page of the session holds
them they are lost (log entry 14). -/
def State.traceStore (s : State) (off : Nat) (bs : List Byte) : State :=
  let va := s.dbg.tbase.toNat + off
  match s.pageOf s.dbg.dsess.toNat (BitVec.ofNat 64 va) with
  | none => s
  | some p =>
    if !p.present || p.isLazy || 2 ^ 54 ≤ va then s
    else { s with mem := memWrite s.mem (devKey s.dbg.dsess.toNat va) bs }

/-- R477: the anchor of a block. -/
def State.traceAnchor (s : State) (block off : Nat) : State :=
  s.traceStore (4096 * block) (leBytes 8 (off + s.dbg.twraps % 2 ^ 32 * 2 ^ 32))

/-- R476, R477: writes a record at the write offset. -/
def State.tracePut (s : State) (bs : List Byte) : State :=
  let (ps, e) := traceParts (bs.length + 1) s.dbg.toff bs
  let o := tracePlace s.dbg.toff
  let s := if s.dbg.block == some (o / 4096) then s else s.traceAnchor (o / 4096) (o % 4096)
  let s := (ps.drop 1).foldl (fun s x => s.traceAnchor (x.1 / 4096) 0) s
  let s := ps.foldl (fun s x => s.traceStore x.1 x.2) s
  { s with dbg := { s.dbg with toff := e, block := some (o / 4096) } }

/-- R478: a record is dropped. -/
def State.traceDrop (s : State) : State :=
  let n := s.dbg.tdrop
  { s with dbg := { s.dbg with full := true, tdrop := if n == 0xFFFFFFFF then n else n + 1 } }

/-- R476, R478: writes a record, wraps, or drops it. -/
def State.traceRecord (s : State) (bs : List Byte) : State :=
  let d := s.dbg
  let size := d.tsize.toNat
  if d.full || size < 4096 then s.traceDrop
  else if (traceParts (bs.length + 1) d.toff bs).2 ≤ size then s.tracePut bs
  else if d.tctl.getLsbD 1 then
    let o := tracePlace d.toff
    let s := if o < size then s.tracePut (leBytes (size - o) ((size - o) * 256)) else s
    let dbg := { s.dbg with toff := 0, twraps := d.twraps + 1, block := none }
    { s with dbg }.tracePut bs
  else s.traceDrop

/-- R479: a record's header. -/
def State.traceHead (s : State) (kind len : Nat) : List Byte :=
  leBytes 8 (kind + len * 256 + s.mtc.toNat % 2 ^ 32 * 2 ^ 32)

/-- R479: a coordinate word. -/
def State.coordWord (s : State) (key slot cause : Nat) : List Byte :=
  let stage := match (s.ctxAt key).task with
    | some t => t.stage.toNat
    | none => 0
  leBytes 4 (clusterOf (unitOf key) + coreOf (unitOf key) * 2 ^ 4 + ctxOf key * 2 ^ 8 + stage * 2 ^ 11
    + slot * 2 ^ 14 + cause * 2 ^ 18)

/-- R465: the debug port is enabled for the session of the launch on a context's cluster. -/
def State.debugged (s : State) (key : Nat) : Bool :=
  s.dbg.en && (match s.launchOn (clusterOf (unitOf key)) with
    | some l => l.session == s.dbg.dsess.toNat
    | none => false)

/-- R476: records of a kind are written for a context's launch: its bit of TCTL. -/
def State.traces (s : State) (key bit : Nat) : Bool :=
  s.debugged key && s.dbg.tctl.getLsbD 0 && s.dbg.tctl.getLsbD bit

/-- R479: a trap record. -/
def State.traceTrap (s : State) (key slot cause : Nat) (code : Word) : State :=
  if s.traces key 3 then
    s.traceRecord (s.traceHead 2 24 ++ s.coordWord key slot cause
      ++ leBytes 4 (unitsAddr (s.ctxAt key).pc).toNat ++ leBytes 8 code.toNat)
  else s

/-- R479: a correction record: action, row, column, physical row and node. -/
def State.traceFix (s : State) (key slot : Nat) (addr : Word) (action i j row : Nat) (node : Word) : State :=
  if s.traces key 4 then
    s.traceRecord (s.traceHead 3 24 ++ s.coordWord key slot 0 ++ leBytes 4 addr.toNat
      ++ leBytes 4 (action + i * 2 ^ 8 + j * 2 ^ 16 + row * 2 ^ 24) ++ leBytes 4 node.toNat)
  else s

/-- R466: an operation of the debug port that was in progress is complete once no context is still to
stop. -/
def State.debugDone (s : State) : State :=
  if s.dbg.dstat == 15 && s.dbg.late.isNone && !s.ctxs.any (fun p => p.2.stopDue) then { s with dbg := { s.dbg with dstat := 0 } } else s

/-- R175, R201: a result of a V or F slot is in flight. -/
def Ctx.vectorsFly (c : Ctx) : Bool := c.pend.any fun p => 2 ≤ p.slot && p.slot ≤ 5

/-- R78, R467, R479: a context is STOPPED, with a stop record. -/
def State.stopNow (s : State) (key slot cause : Nat) : State :=
  let c := s.ctxAt key
  let s := if s.traces key 5 then
      s.traceRecord (s.traceHead 4 16 ++ s.coordWord key slot cause ++ leBytes 4 (unitsAddr c.pc).toNat)
    else s
  let held := if c.st == .issuing then .ready else c.st
  let s := (s.setCtx key { c with st := .stopped, held, stopDue := false, stopAt := none, stepping := false }).debugDone
  let u := unitOf key
  if (s.unitAt u).cur == some (ctxOf key) then
    s.updUnit u fun x => { x with cur := none, last := ctxOf key, mayIssue := s.cycle + 2 }
  else s

/-- R175, R201, R467: a context stops: once the results of its V and F slots in flight have landed. -/
def State.stopCtx (s : State) (key slot cause : Nat) : State :=
  let c := s.ctxAt key
  if c.vectorsFly then s.setCtx key { c with stopDue := true, stopAt := some (slot, cause), stepping := false }
  else s.stopNow key slot cause

/-- R175, R201: the stop that a context waits for comes. -/
def State.stopTurn (s : State) (key : Nat) : State :=
  let c := s.ctxAt key
  match c.stopAt with
  | none => s
  | some (slot, cause) => if c.vectorsFly then s else s.stopNow key slot cause

/-! ## Waiting (R81, R218) -/

/-- R81: the acting context blocks at once at its slot. -/
def State.blockFor (s : State) (cause : Nat) (why : Why) : State :=
  let w : Wait := { slot := s.slot, since := s.cycle, blocked := true, cause, why }
  (s.upd fun c => { c with wait := some w }).ends .wait

/-- R218: a stall at a slot; one that already waits there keeps its beginning. -/
def Ctx.stallAt (c : Ctx) (slot cycle cause : Nat) (why : Why) : Wait :=
  let since := match c.wait with
    | some w => if w.slot == slot then w.since else cycle
    | none => cycle
  { slot, since, blocked := false, cause, why }

/-- R218: the acting slot waits: a stall for 64 cycles, then a block. -/
def State.stallFor (s : State) (cause : Nat) (why : Why) : State :=
  (s.upd fun c => { c with wait := some (c.stallAt s.slot s.cycle cause why) }).ends .wait

/-- R79: the context that issues leaves ISSUING at the end of this cycle; one that a HALT waits for then
stops (R467). -/
def State.leaveIssuing (s : State) (key : Nat) (next : CtxState) : State :=
  let u := unitOf key
  let due := (s.ctxAt key).stopDue
  let s := s.updCtx key fun c => { c with st := next }
  let s := if (s.unitAt u).cur == some (ctxOf key) then
      s.updUnit u fun x => { x with cur := none, last := ctxOf key, mayIssue := s.cycle + 2 }
    else s
  if due && next != .free then s.stopCtx key 15 0x97 else s

/-- R81, R218: a waiting context blocks now. -/
def State.blockNow (s : State) (key : Nat) : State :=
  (s.updCtx key fun c => { c with wait := c.wait.map fun w => { w with blocked := true } }).leaveIssuing
    key .blocked

/-! ## Traps (R86 to R88, R161) -/

/-- R88, R89: a fatal fault of a context: the context fetches nothing more and the report goes to the
management processor. -/
def State.fatal (s : State) (key slot cause : Nat) (code : Word := 0) (inner : Nat := 0) : State :=
  let c := s.ctxAt key
  match s.launchOn (clusterOf (unitOf key)) with
  | none => s.ends .trapped
  | some l =>
    { s.setCtx key { c with wait := some { slot, since := s.cycle, blocked := true, cause := 4, why := .fatal } }
      with fatals := s.fatals ++ [{ launch := l.uid, cause, key, slot, addr := unitsAddr c.pc, code, inner }]
           flow := .trapped }

/-- R162: TCAUSE. -/
def tcauseWord (slot sub cause : Nat) : Word := BitVec.ofNat 32 (slot * 65536 + sub * 256 + cause)

/-- R155: the active loops. -/
def activeLoops (ls : Vector LoopRec 8) : Nat := (ls.toList.filter (·.active)).length

/-- R155: the innermost active loop. -/
def innermost (ls : Vector LoopRec 8) : Option Nat :=
  (List.range 8).foldl (fun best k =>
    let l := ls.getD k {}
    if !l.active then best
    else match best with
      | some b => if (ls.getD b {}).depth.toNat < l.depth.toNat then some k else some b
      | none => some k) none

/-- The bundle that follows in memory the one at a byte offset. -/
def State.bundleAfter (s : State) (key : Nat) (pc : Addr) : Addr :=
  pc + BitVec.ofNat 64 (let h := s.headerAt key pc
    if hdrIdle h then 8 else bundleLen h)

/-- R153, R154, R157, R470: the pending target of a context in a delay position: that of a transfer taken;
else where the delay bundle leads: back to START when it carries LE and its loop goes on, or to the bundle that
follows it (DEDUCED, notes/assumptions/45.md). -/
def State.pendingTarget (s : State) (key : Nat) : Addr :=
  let c := s.ctxAt key
  match c.target, innermost c.loops with
  | some t, _ => t
  | none, some k =>
    let l := c.loops.getD k {}
    if hdrLE (s.headerAt key c.pc) && 1 < l.remain.toNat then bytesAddr l.start else s.bundleAfter key c.pc
  | none, none => s.bundleAfter key c.pc

/-- R87, R161: the trap registers after a trap of `c`, with the slots in `done` committed; `target` is the
pending target of a delay position. TTARGET counts 16-bit units, so that bit 0 of an odd target of RET is
lost when its delay bundle traps, and no IFETCH follows TRET (DESIGN CHOICE, notes/assumptions/46.md). -/
def Ctx.trapRegs (c : Ctx) (slot sub cause : Nat) (code : Word) (done : BitVec 10) (target : Addr) : TrapRegs :=
  { cause := tcauseWord slot sub cause, addr := unitsAddr c.pc, done, code, inh := true, dly := c.dly
    target := if c.dly then unitsAddr target else 0
    after := c.after, yieldDue := c.yieldDue }

/-- R49, R173: the bank once the slots not in `done` have given back what the bundle's issue emptied. -/
def Ctx.givenBack (c : Ctx) (done : BitVec 10) : Bank :=
  c.emptied.foldl (fun b x => if done.getLsbD x.1 then b else b.setFull x.2.1 x.2.2 true) c.bank

/-- R98: the counts once the uncommitted accesses of the bundle have given back what its issue set. -/
def Ctx.sbBack (c : Ctx) : Vector Nat 8 :=
  c.sbSet.foldl (fun v x => v.setIfInBounds x.2 (v.getD x.2 0 - 1)) c.sb

/-- R87 step 3: the context goes on at the handler, in the same sprint. -/
def Ctx.enterHandler (c : Ctx) (handler : Word) (t : TrapRegs) (faddr : Option Addr) (cycle : Nat) : Ctx :=
  { c with trap := t, faddr := faddr.getD c.faddr, pc := bytesAddr handler, done := 0, dly := false
           target := none, after := {}, yieldDue := false, opened := false, counted := false, wait := none, preEnd := none
           bank := c.givenBack t.done, emptied := [], sb := c.sbBack, sbSet := [], ended := false
           accs := [], push := none, passed := none, nextIssue := max c.nextIssue (cycle + 1) }

/-- R466, R469: after a trap is recorded: with FSTOP, or when the context was stepping, it stops before
the first bundle of the handler. -/
def State.afterTrap (s : State) (key slot cause : Nat) : State :=
  if s.debugged key && s.dbg.tctl.getLsbD 15 then
    (s.updCtx key fun c => { c with trapHeld := true, halt := true }).stopCtx key slot cause
  else if (s.ctxAt key).stepping || (s.ctxAt key).stopDue then
    (s.updCtx key fun c => { c with halt := c.halt || c.stepping }).stopCtx key 15 0x97
  else s

/-- R87: a recoverable trap of a context at a slot (15: the header), with the slots in `done`
committed; it turns fatal without a handler or inside one. -/
def State.trapCtx (s : State) (key slot sub cause : Nat) (code : Word) (done : BitVec 10)
    (faddr : Option Addr := none) : State :=
  let c := s.ctxAt key
  let h := (s.hdrOf key).handler
  if h == 0xFFFFFFFF || c.trap.inh then s.fatal key slot cause code
  else
    let s := s.traceTrap key slot cause code
    let s := s.setCtx key (c.enterHandler h (c.trapRegs slot sub cause code done (s.pendingTarget key)) faddr s.cycle)
    (s.afterTrap key slot cause).ends .trapped

/-- R87: a recoverable trap at the acting slot. -/
def State.trap (s : State) (cause : Nat) (code : Word) (faddr : Option Addr := none) : State :=
  s.trapCtx s.cur s.slot 0 cause code s.ctx.done faddr

/-- A fatal fault at the acting slot. -/
def State.fatalHere (s : State) (cause : Nat) : State := s.fatal s.cur s.slot cause

/-- R160: the return from the handler, at the completion of TRET's bundle: the context stands at the
recorded bundle with the recorded slots done, and issues in the second cycle after TRET; after a delay
position the next fetch is TTARGET. A transfer slot that the handler marks done in TDONE and that never ran
is a transfer not taken (DESIGN CHOICE, notes/assumptions/47.md). -/
def Ctx.returnFrom (c : Ctx) (cycle : Nat) : Ctx :=
  { c with pc := bytesAddr c.trap.addr, done := c.trap.done, dly := c.trap.dly
           target := if c.trap.dly then some (bytesAddr c.trap.target) else none
           after := c.trap.after, yieldDue := c.trap.yieldDue, opened := false, counted := true
           trap := { c.trap with inh := false }, nextIssue := cycle + 2 }

end Sys2Proof.Machine
end

