-- ==== Sys2Proof/Machine/Operands.lean ====
section
/-! DEFINITION. Operand forms: the specifiers, immediates, lanes and modifiers of the slots, and the
system registers that RDSYS and WRSYS name. -/

namespace Sys2Proof.Machine

/-! ## S slot (R35, R36, R147, R148) -/

/-- R35, R36: the imm field as operand 63 reads it. -/
def immS (f : SFields) : Word := f.imm.signExtend 32
/-- Operand A. -/
def State.opA (s : State) (f : SFields) : Word := s.spec f.a (immS f)
/-- Operand B. -/
def State.opB (s : State) (f : SFields) : Word := s.spec f.b (immS f)

/-- R147: the lane width that w sets. -/
def laneW (w : BitVec 2) : Nat :=
  match w.toNat with
  | 0 => 32
  | 1 => 16
  | 2 => 8
  | _ => 4
/-- R147: the number of lanes. -/
def laneN (w : BitVec 2) : Nat := 32 / laneW w
/-- R147: lane `i` of width `wd`. -/
def lane (wd : Nat) (x : Word) (i : Nat) : Nat := x.toNat / 2 ^ (wd * i) % 2 ^ wd
/-- R147: a word from its lanes, lane 0 first; each is cut to its width. -/
def ofLanes (wd : Nat) : List Nat → Nat
  | [] => 0
  | x :: xs => x % 2 ^ wd + 2 ^ wd * ofLanes wd xs
/-- The signed value of a lane. -/
def signedLane (wd : Nat) (x : Nat) : Int := if x < 2 ^ (wd - 1) then x else (x : Int) - (2 ^ wd : Nat)

/-- R148: the source lane of lane `i` under modifier `m`. -/
def swzSrc (m : BitVec 3) (n i : Nat) : Nat :=
  match m.toNat with
  | 0 => i
  | 1 => 0
  | 2 => n - 1
  | 3 => i ^^^ 1
  | 4 => n - 1 - i
  | 5 => i % (n / 2)
  | 6 => n / 2 + i % (n / 2)
  | _ => (i + 1) % n

/-- R148: the lanes of an operand rearranged by its modifier. -/
def swzLanes (w : BitVec 2) (m : BitVec 3) (x : Word) : List Nat :=
  (List.range (laneN w)).map fun i =>
    lane (laneW w) x (if m == 0 then i else swzSrc m (laneN w) i)

/-! ## System registers (R161, R403) -/

/-- R403: entries held by a task queue. -/
def State.queueCount (s : State) (c q : Nat) : Nat :=
  ((s.clusterAt c).queues.get {} q).entries.length

/-- R161: TFLAGS. -/
def tflagsWord (t : TrapRegs) : Word :=
  (if t.inh then 1 else 0) + (if t.dly then 2 else 0)

/-- R161, R403: the value of a system register of a context. -/
def State.sysRead (s : State) (key n : Nat) : Word :=
  let c := s.ctxAt key
  let cl := clusterOf (unitOf key)
  let arg (i : Nat) : Word := match c.task with | some t => t.args.getD i 0 | none => 0
  if n ≤ 3 then arg n
  else if 0x28 ≤ n && n ≤ 0x2F then (c.loops.getD (n - 0x28) {}).remain
  else if 0x100 ≤ n && n ≤ 0x11F then ((s.clusterAt cl).qpri.get 0 (n - 0x100)).setWidth 32
  else if 0x120 ≤ n && n ≤ 0x13F then BitVec.ofNat 32 (s.queueCount cl (n - 0x120))
  else match n with
    | 0x04 => match c.task with
      | some t => t.entry
      | none => 0
    | 0x10 => c.trap.cause
    | 0x11 => c.trap.addr
    | 0x12 => c.trap.done.setWidth 32
    | 0x13 => c.trap.code
    | 0x14 => tflagsWord c.trap
    | 0x15 => c.trap.target
    | 0x18 => c.faddr.setWidth 32
    | 0x19 => (c.faddr >>> 32).setWidth 32
    | 0x20 => BitVec.ofNat 32 c.sprint
    | 0x21 => BitVec.ofNat 32 (s.hdrOf key).sprint
    | 0x30 => (s.hdrOf key).flags.setWidth 32
    | 0x151 => (s.clusterAt cl).rdata
    | 0x152 => (s.clusterAt cl).rstat
    | 0x160 => (s.clusterAt cl).dlimit.setWidth 32
    | _ => 0

/-- R403: a WRSYS value outside its register's range, a reserved field value. -/
def wrsysBad (n : Nat) (w : Word) : Bool :=
  if 0x100 ≤ n && n ≤ 0x11F then w.extractLsb' 3 29 != 0
  else if n == 0x160 then w.toNat == 0 || 8 < w.toNat
  else false

/-- R161: a write to TADDR in the handler: TRET then enters the named bundle afresh. -/
def TrapRegs.setAddr (t : TrapRegs) (w : Word) : TrapRegs :=
  { t with addr := w, done := 0, dly := false, after := {}, yieldDue := false }

/-- R341: a config register of a codec, by the low part of its port. -/
def CodecCfg.setReg (c : CodecCfg) (port : Nat) (w : Word) : CodecCfg :=
  match port with
  | 0x100 => { c with ub := w }
  | 0x108 => { c with pb := w }
  | _ => { c with route := w }

/-- R161, R329, R403: a system register is written; numbers from 0x1000 on stand for the config ports of
the codecs. Outside the handler TADDR and TDONE keep their value,
and TDONE takes no bit of a slot absent from the trapped bundle. -/
def State.sysWrite (s : State) (key n : Nat) (w : Word) : State :=
  let c := s.ctxAt key
  let cl := clusterOf (unitOf key)
  if n == 0x11 then
    if c.trap.inh then s.setCtx key { c with trap := c.trap.setAddr w } else s
  else if n == 0x12 then
    if c.trap.inh then
      let mask := (s.headerAt key (bytesAddr c.trap.addr)).extractLsb' 0 10
      s.setCtx key { c with trap := { c.trap with done := w.setWidth 10 &&& mask } }
    else s
  else if 0x100 ≤ n && n ≤ 0x11F then
    s.updCluster cl fun k => { k with qpri := k.qpri.put (n - 0x100) (w.setWidth 3) }
  else if n == 0x151 then s.updCluster cl fun k => { k with rdata := w }
  else if 0x1000 ≤ n then
    s.updCluster cl fun k =>
      let i := if n < 0x1900 then 0 else 1
      { k with codecs := k.codecs.setIfInBounds i ((k.codecs.getD i {}).setReg (n % 0x200) w) }
  else if n == 0x160 then s.updCluster cl fun k => { k with dlimit := w.setWidth 4 }
  else s

/-- R54: a register at or above the launch's count; s0, the queue, addresses and predicates never. -/
def Header.gated (h : Header) (file : RegFile) (n : Nat) : Bool :=
  match file with
  | .s => n != 0 && h.scalars ≤ n
  | .v => h.vectors ≤ n
  | .d => h.descs ≤ n
  | .a => false
  | .q => false

/-! ## Landing (R45 to R53) -/

/-- The position of the `n`-th result of a list that satisfies `p`, counted from 0. -/
def takeNth {α : Type} (p : α → Bool) : List α → Nat → Option (α × List α)
  | [], _ => none
  | x :: xs, n =>
    if p x then
      match n with
      | 0 => some (x, xs)
      | n + 1 => (takeNth p xs n).map fun (y, ys) => (y, x :: ys)
    else (takeNth p xs n).map fun (y, ys) => (y, x :: ys)

/-- R47, R49, R53: a result lands on its context's registers, and enters the result queue. -/
def State.landPend (s : State) (key : Nat) (p : Pending) : State :=
  let s := s.updCtx key fun c =>
    let b := p.vals.foldl Bank.land c.bank
    { c with bank := match p.enq with | some w => b.enter w | none => b }
  p.vals.foldl (fun s v => match v with | .sys n w => s.sysWrite key n w | _ => s) s

/-- The order in which results land: due cycle, then issue order, then slot (R47, R53). -/
def Pending.before (a b : Pending) : Bool :=
  a.due < b.due || (a.due == b.due && (a.seq < b.seq || (a.seq == b.seq && a.slot ≤ b.slot)))

/-- The first result to land among those that `p` picks. -/
def firstPend (p : Pending → Bool) : List Pending → Option Pending
  | [] => none
  | x :: xs =>
    match firstPend p xs with
    | none => if p x then some x else none
    | some y => if p x && x.before y then some x else some y

/-- A list without the first copy of an element. -/
def dropFirst {α : Type} [DecidableEq α] (x : α) : List α → List α
  | [] => []
  | y :: ys => if y = x then ys else y :: dropFirst x ys

end Sys2Proof.Machine
end

