-- ==== Sys2Proof/Machine/Flags.lean ====
section
/-! DEFINITION. The flags of this hardware: the full/empty bits an instruction tests (R49, R50), the
0-or-1 results of comparisons (R145, R152), and the width test of a predicate (R169). -/

namespace Sys2Proof.Machine

/-- R145: a comparison's result. -/
def flagWord (b : Bool) : Word := if b then 1 else 0

/-- R145: the six integer comparisons. -/
inductive Cmp where
  | eq | ne | lt | ltu | le | leu
  deriving DecidableEq, Repr

/-- R145: whether a comparison holds. -/
def Cmp.holds (c : Cmp) (a b : Word) : Bool :=
  match c with
  | .eq => a == b
  | .ne => a != b
  | .lt => BitVec.slt a b
  | .ltu => BitVec.ult a b
  | .le => BitVec.sle a b
  | .leu => BitVec.ule a b

/-- R57: the width code of an element width. -/
def widthCode (w : Nat) : BitVec 2 :=
  match w with
  | 4 => 0
  | 8 => 1
  | 16 => 2
  | _ => 3

/-- R57: a predicate as a word. -/
def Pred.word (p : Pred) : Word :=
  (p.group.setWidth 32 <<< 15) ||| (p.width.setWidth 32 <<< 13) ||| p.active.setWidth 32

/-- R57: a predicate from its word. -/
def Pred.ofWord (w : Word) : Pred :=
  { active := w.extractLsb' 0 13, width := w.extractLsb' 13 2, group := w.extractLsb' 15 3 }

/-- R50: an instruction's reads whose full/empty bit is tested, for a bank: those that trap (or, with
`trap` false, block) and are empty. -/
def emptyReads (b : Bank) (trap : Bool) (rs : List RegRead) : List (RegFile × Nat) :=
  rs.filterMap fun r =>
    if r.nameOnly || r.trap != trap || b.full r.file r.num then none else some (r.file, r.num)

end Sys2Proof.Machine
end

