-- ==== Sys2Proof/Machine/Numbers.lean ====
section
/-! DEFINITION. Number formats and rounding (R116 to R130): values are held exactly and rounded once. -/

namespace Sys2Proof.Machine

/-! ## Types (R116, R119, R167) -/

/-- R167: the element width of a type code; MX types by their element. -/
def tyWidth (t : BitVec 4) : Nat :=
  match t.toNat with
  | 0 | 6 | 10 => 32
  | 1 | 7 | 11 => 16
  | 2 | 3 | 8 | 12 | 14 => 8
  | _ => 4

/-- The element type of an MX type (R120); every other type is its own. -/
def tyElemOf (t : BitVec 4) : BitVec 4 := if t == 14 then 2 else if t == 15 then 4 else t

/-- A signed integer type. -/
def tySigned (t : BitVec 4) : Bool := 6 ≤ t.toNat && t.toNat ≤ 9
/-- An unsigned integer type. -/
def tyUnsigned (t : BitVec 4) : Bool := 10 ≤ t.toNat && t.toNat ≤ 13
/-- An integer type. -/
def tyIsInt (t : BitVec 4) : Bool := tySigned t || tyUnsigned t
/-- A plain float type: fp32, bf16, e4m3, e5m2 or e2m1. -/
def tyIsFloat (t : BitVec 4) : Bool := t.toNat ≤ 4

/-- Mantissa bits of a float type. -/
def manBits (t : BitVec 4) : Nat :=
  match t.toNat with
  | 0 => 23
  | 1 => 7
  | 2 => 3
  | 3 => 2
  | _ => 1
/-- Exponent bits of a float type. -/
def expBits (t : BitVec 4) : Nat :=
  match t.toNat with
  | 0 | 1 => 8
  | 2 => 4
  | 3 => 5
  | _ => 2
/-- Exponent bias of a float type. -/
def expBias (t : BitVec 4) : Nat :=
  match t.toNat with
  | 0 | 1 => 127
  | 2 => 7
  | 3 => 15
  | _ => 1
/-- The magnitude bits of the largest finite value (R116). -/
def maxFinite (t : BitVec 4) : Nat :=
  match t.toNat with
  | 0 => 0x7F7FFFFF
  | 1 => 0x7F7F
  | 2 => 0x7E
  | 3 => 0x7B
  | _ => 0x7
/-- The bits of +infinity, for the types that have one. -/
def infBits (t : BitVec 4) : Option Nat :=
  match t.toNat with
  | 0 => some 0x7F800000
  | 1 => some 0x7F80
  | 3 => some 0x7C
  | _ => none
/-- R122: what a NaN becomes in a type other than cb4. -/
def nanBits (t : BitVec 4) : Nat :=
  match t.toNat with
  | 0 => 0x7FC00000
  | 1 => 0x7FC0
  | 2 => 0x7F
  | 3 => 0x7E
  | 4 => 0x7
  | _ => 0

/-- R119: the low W bits of a value field, extended as its type says. -/
def norm (t : BitVec 4) (w : Word) : Word :=
  match t.toNat with
  | 7 => (w.setWidth 16).signExtend 32
  | 8 => (w.setWidth 8).signExtend 32
  | 9 => (w.setWidth 4).signExtend 32
  | 0 | 6 | 10 => w
  | 1 | 11 => (w.setWidth 16).setWidth 32
  | 2 | 3 | 12 | 14 => (w.setWidth 8).setWidth 32
  | _ => (w.setWidth 4).setWidth 32

/-! ## Exact values -/

/-- A finite value from its sign, magnitude and exponent. -/
def Num.ofMag (neg : Bool) (mag : Nat) (exp : Int) : Num := .fin neg mag exp

/-- The value of an integer. -/
def Num.ofInt (x : Int) : Num := .fin (decide (x < 0)) x.natAbs 0

/-- R116: a float's value from its sign, exponent field and mantissa. -/
def floatVal (t : BitVec 4) (bits : Nat) : Num :=
  let m := bits % 2 ^ manBits t
  let e := bits / 2 ^ manBits t % 2 ^ expBits t
  let neg := bits / 2 ^ (manBits t + expBits t) % 2 == 1
  let emax := 2 ^ expBits t - 1
  if e == emax && (t.toNat == 0 || t.toNat == 1 || t.toNat == 3) then
    if m == 0 then .inf neg else .nan
  else if t.toNat == 2 && e == emax && m == 7 then .nan
  else if e == 0 then .fin neg m (1 - (expBias t : Int) - manBits t)
  else .fin neg (2 ^ manBits t + m) ((e : Int) - expBias t - manBits t)

/-- R116, R167: the value of an element of a type other than cb4, in the low bits of a word. -/
def valOf (t : BitVec 4) (w : Word) : Num :=
  if tyIsFloat t then floatVal t (w.toNat % 2 ^ tyWidth t)
  else if tySigned t then .ofInt (norm t w).toInt
  else .ofInt (norm t w).toNat

/-- The sign of a value. -/
def Num.isNeg : Num → Bool
  | .nan => false
  | .inf n => n
  | .fin n _ _ => n
/-- The value is a zero. -/
def Num.isZero : Num → Bool
  | .fin _ m _ => m == 0
  | .nan => false
  | .inf _ => false
/-- The value is finite. -/
def Num.isFin : Num → Bool
  | .fin _ _ _ => true
  | .nan => false
  | .inf _ => false
/-- The value is a NaN. -/
def Num.isNan : Num → Bool
  | .nan => true
  | .inf _ => false
  | .fin _ _ _ => false

/-- Changes the sign. -/
def Num.neg : Num → Num
  | .nan => .nan
  | .inf n => .inf (!n)
  | .fin n m e => .fin (!n) m e
/-- The magnitude. -/
def Num.abs : Num → Num
  | .nan => .nan
  | .inf _ => .inf false
  | .fin _ m e => .fin false m e

/-- A signed mantissa at exponent `e0`, for an exponent not below it. -/
def scaleTo (neg : Bool) (m : Nat) (e e0 : Int) : Int :=
  let v := (m * 2 ^ (e - e0).toNat : Nat)
  if neg then -(v : Int) else v

/-- Exact sum of finite values; a zero sum is +0 unless both are negative zeros. -/
def addFin (n1 : Bool) (m1 : Nat) (e1 : Int) (n2 : Bool) (m2 : Nat) (e2 : Int) : Num :=
  if m1 == 0 && m2 == 0 then .fin (n1 && n2) 0 0
  else if m1 == 0 then .fin n2 m2 e2
  else if m2 == 0 then .fin n1 m1 e1
  else
    let e := min e1 e2
    let v := scaleTo n1 m1 e1 e + scaleTo n2 m2 e2 e
    .fin (decide (v < 0)) v.natAbs e

/-- Exact sum. -/
def Num.add : Num → Num → Num
  | .nan, _ => .nan
  | _, .nan => .nan
  | .inf a, .inf b => if a == b then .inf a else .nan
  | .inf a, .fin _ _ _ => .inf a
  | .fin _ _ _, .inf b => .inf b
  | .fin n1 m1 e1, .fin n2 m2 e2 => addFin n1 m1 e1 n2 m2 e2

/-- Exact difference. -/
def Num.sub (a b : Num) : Num := a.add b.neg

/-- Exact product. -/
def Num.mul : Num → Num → Num
  | .nan, _ => .nan
  | _, .nan => .nan
  | .inf a, .inf b => .inf (a != b)
  | .inf a, .fin n m _ => if m == 0 then .nan else .inf (a != n)
  | .fin n m _, .inf b => if m == 0 then .nan else .inf (n != b)
  | .fin n1 m1 e1, .fin n2 m2 e2 => .fin (n1 != n2) (m1 * m2) (e1 + e2)

/-- Multiplication by a power of two. -/
def Num.scale (x : Num) (k : Int) : Num :=
  match x with
  | .fin n m e => .fin n m (e + k)
  | .nan => .nan
  | .inf n => .inf n

/-- Order of values other than NaN: -1, 0 or 1; zeros are equal. -/
def Num.cmp : Num → Num → Int
  | .nan, _ => 0
  | _, .nan => 0
  | .inf a, .inf b => if a == b then 0 else if a then -1 else 1
  | .inf a, .fin _ _ _ => if a then -1 else 1
  | .fin _ _ _, .inf b => if b then 1 else -1
  | .fin n1 m1 e1, .fin n2 m2 e2 =>
    let e := min e1 e2
    let d := scaleTo n1 m1 e1 e - scaleTo n2 m2 e2 e
    if d < 0 then -1 else if d == 0 then 0 else 1

/-- a < b; false with a NaN. -/
def Num.lt (a b : Num) : Bool := !a.isNan && !b.isNan && a.cmp b == -1
/-- a ≤ b; false with a NaN. -/
def Num.le (a b : Num) : Bool := !a.isNan && !b.isNan && a.cmp b != 1
/-- a = b, with +0 = -0; false with a NaN. -/
def Num.eqv (a b : Num) : Bool := !a.isNan && !b.isNan && a.cmp b == 0

/-! ## Rounding (R123, R124, R127, R128) -/

/-- R123: whether a magnitude with kept part `n` and remainder `rem` of 2^shift rounds away from
zero, in mode `mode`; `r` is the random byte of R128. -/
def roundsUp (mode : BitVec 3) (neg : Bool) (r n rem shift : Nat) : Bool :=
  match mode.toNat with
  | 0 => decide (2 ^ shift < 2 * rem) || (2 * rem == 2 ^ shift && n % 2 == 1)
  | 1 => false
  | 2 => rem != 0 && !neg
  | 3 => rem != 0 && neg
  | 4 => decide (2 ^ shift ≤ 2 * rem)
  | _ => decide (256 ≤ rem * 256 / 2 ^ shift + r)

/-- A magnitude m * 2^e rounded to a multiple of 2^q, as that multiple. -/
def roundMag (mode : BitVec 3) (neg : Bool) (r m : Nat) (e q : Int) : Nat :=
  if q ≤ e then m * 2 ^ (e - q).toNat
  else
    let shift := (q - e).toNat
    let n := m / 2 ^ shift
    if roundsUp mode neg r n (m % 2 ^ shift) shift then n + 1 else n

/-- The sign bit of a float type. -/
def signBits (t : BitVec 4) (neg : Bool) : Nat := if neg then 2 ^ (tyWidth t - 1) else 0

/-- R124: what a float target holds for a result above its largest finite value. -/
def overflowBits (t : BitVec 4) (mode : BitVec 3) (sat neg : Bool) : Nat :=
  let away := match mode.toNat with
    | 1 => false
    | 2 => !neg
    | 3 => neg
    | _ => true
  if sat || !away || t.toNat == 4 then signBits t neg + maxFinite t
  else match infBits t with
    | some b => signBits t neg + b
    | none => signBits t neg + 0x7F

/-- R123, R124: a finite value rounded into a float type. -/
def roundFloat (t : BitVec 4) (mode : BitVec 3) (sat : Bool) (r : Nat) (neg : Bool) (m : Nat)
    (e : Int) : Nat :=
  if m == 0 then signBits t neg
  else
    let qmin : Int := 1 - (expBias t : Int) - manBits t
    let q := max (e + (Nat.log2 m : Int) - manBits t) qmin
    let n := roundMag mode neg r m e q
    let bits := (q - qmin).toNat * 2 ^ manBits t + n
    if maxFinite t < bits then overflowBits t mode sat neg else signBits t neg + bits

/-- The least and greatest value of an integer type. -/
def intRange (t : BitVec 4) : Int × Int :=
  let w := tyWidth t
  if tySigned t then (-(2 ^ (w - 1) : Nat), (2 ^ (w - 1) : Nat) - 1) else (0, (2 ^ w : Nat) - 1)

/-- Keeps an integer inside a range. -/
def clampInt (lo hi x : Int) : Int := if x < lo then lo else if hi < x then hi else x

/-- The low `w` bits of an integer. -/
def intBits (w : Nat) (x : Int) : Nat := (x % (2 ^ w : Nat)).toNat

/-- R125, R127: a value rounded once into a type other than cb4 and the MX types; the low W bits. -/
def roundTo (t : BitVec 4) (mode : BitVec 3) (sat : Bool) (r : Nat) (x : Num) : Nat :=
  if tyIsFloat t then
    match x with
    | .nan => nanBits t
    | .inf neg =>
      match infBits t with
      | some b => signBits t neg + b
      | none => overflowBits t mode sat neg
    | .fin neg m e => roundFloat t mode sat r neg m e
  else
    let (lo, hi) := intRange t
    match x with
    | .nan => 0
    | .inf neg => intBits (tyWidth t) (if neg then lo else hi)
    | .fin neg m e =>
      let n : Int := roundMag mode neg r m e 0
      intBits (tyWidth t) (clampInt lo hi (if neg then -n else n))

/-- R119: a value rounded into a type and placed in a 32-bit value field. -/
def putVal (t : BitVec 4) (mode : BitVec 3) (sat : Bool) (r : Nat) (x : Num) : Word :=
  norm t (BitVec.ofNat 32 (roundTo t mode sat r x))

/-- Rounds to fp32, nearest even. -/
def round32 (x : Num) : Word := BitVec.ofNat 32 (roundTo 0 0 false 0 x)

/-- The value of an fp32 word. -/
def fp32 (w : Word) : Num := floatVal 0 w.toNat

/-- R128: the random byte of element `i` under the word `w`. -/
def srByte (w : Word) (i : Nat) : Nat := ((w.rotateLeft (5 * i % 32)).setWidth 8).toNat

/-- R121: a subnormal of a type that is flushed becomes zero of the same sign. -/
def flushVal (t : BitVec 4) (x : Num) : Num :=
  match x with
  | .fin neg m e =>
    if t.toNat ≤ 3 && m != 0 && decide (e + (Nat.log2 m : Int) < 1 - (expBias t : Int)) then .fin neg 0 0
    else x
  | .nan => .nan
  | .inf n => .inf n

/-- R121: an fp32 word flushed. -/
def flush32 (w : Word) : Word :=
  if w.extractLsb' 23 8 == 0 then w &&& 0x80000000 else w

/-! ## cb4 (R118) -/

/-- The sixteen bf16 entries held by 32 bytes. -/
def codebookOf : List Byte → List Word
  | a :: b :: rest => (b ++ a).setWidth 32 :: codebookOf rest
  | [_] => []
  | [] => []

/-- The distance between two finite values. -/
def numDist (a b : Num) : Num := (a.sub b).abs

/-- The lowest index whose entry `better` prefers, among entries that `ok` allows. -/
def bestIndex (ok : Num → Bool) (better : Num → Num → Bool) : Nat → List Num → Option (Nat × Num)
  | _, [] => none
  | i, x :: xs =>
    match bestIndex ok better (i + 1) xs with
    | none => if ok x then some (i, x) else none
    | some (j, y) => if ok x && !better y x then some (i, x) else some (j, y)

/-- R118: the index a value takes in a codebook. -/
def cbIndex (cb : List Word) (x : Num) : Nat :=
  let vals := cb.map (valOf 1)
  let pick := match x with
    | .nan => bestIndex Num.isNan (fun _ _ => false) 0 vals
    | .inf neg =>
      match bestIndex (· == Num.inf neg) (fun _ _ => false) 0 vals with
      | some p => some p
      | none => bestIndex Num.isFin (fun y z => if neg then y.lt z else z.lt y) 0 vals
    | .fin _ _ _ => bestIndex Num.isFin (fun y z => (numDist y x).lt (numDist z x)) 0 vals
  (pick.map Prod.fst).getD 0

/-- R118: the value an index names. -/
def cbVal (cb : List Word) (i : Nat) : Num := valOf 1 (cb.getD i 0)

/-! ## fp32 operations (R152) -/

/-- R152: the smaller or larger of two fp32 words, -0 below +0, a NaN giving way. -/
def fminmax (wantMax : Bool) (a b : Word) : Word :=
  let x := fp32 a
  let y := fp32 b
  if x.isNan && y.isNan then 0x7FC00000
  else if x.isNan then b
  else if y.isNan then a
  else
    let aLess := x.lt y || (x.eqv y && x.isNeg && !y.isNeg)
    if aLess != wantMax then a else b

end Sys2Proof.Machine
end

