-- ==== Sys2Proof/Machine/Functions.lean ====
section
/-! DEFINITION. The functions of the special-function unit, correctly rounded (R202, R203). Roots and
reciprocals are truncated with a sticky bit, so that one rounding of them is exact. The others are
enclosed by fixed-point series, at growing precision until both ends round alike. -/

namespace Sys2Proof.Machine

/-! ## Roots and reciprocals -/

/-- The integer square root, bit by bit from bit `i - 1` down. -/
def isqrtFrom (n r : Nat) : Nat → Nat
  | 0 => r
  | i + 1 => isqrtFrom n (if (r + 2 ^ i) * (r + 2 ^ i) ≤ n then r + 2 ^ i else r) i

/-- The integer square root. -/
def isqrt (n : Nat) : Nat := isqrtFrom n 0 (Nat.log2 n / 2 + 1)

/-- A truncated magnitude with one bit below that tells whether anything was cut off. -/
def sticky (neg : Bool) (n : Nat) (exact : Bool) (e : Int) : Num :=
  .fin neg (2 * n + (if exact then 0 else 1)) (e - 1)

/-- 1/x for a finite non-zero x. -/
def rcpNum (neg : Bool) (m : Nat) (e : Int) : Num :=
  let k := Nat.log2 m + 64
  sticky neg (2 ^ k / m) (2 ^ k % m == 0) (-e - k)

/-- √x for a positive x. -/
def sqrtNum (m : Nat) (e : Int) : Num :=
  let j : Nat := if e % 2 == 0 then 128 else 129
  let n := m * 2 ^ j
  let r := isqrt n
  sticky false r (r * r == n) ((e - j) / 2)

/-- 1/√x for a positive x. -/
def rsqNum (m : Nat) (e : Int) : Num :=
  let k0 := Nat.log2 m + 128
  let k : Nat := if (e + (k0 : Int)) % 2 == 0 then k0 else k0 + 1
  let r := isqrt (2 ^ k / m)
  sticky false r (r * r * m == 2 ^ k) ((-e - k) / 2)

/-! ## Fixed point with `p` bits below the point -/

/-- A product. -/
def fxMul (p : Nat) (a b : Int) : Int := a * b / (2 ^ p : Nat)
/-- m * 2^e, rounded down. -/
def fxOf (p m : Nat) (e : Int) : Int :=
  let k := e + p
  if 0 ≤ k then ((m * 2 ^ k.toNat : Nat) : Int) else ((m / 2 ^ (-k).toNat : Nat) : Int)
/-- Series terms enough for precision `p` and an argument below 2. -/
def fxTerms (p : Nat) : Nat := p / 3 + 12

/-- Σ sgn^k / ((2k+1) d^(2k+1)) over `n` terms: atan (sgn = -1) or atanh of 1/d. -/
def fxArcInv (sgn : Int) (d : Nat) (n k : Nat) (term : Int) : Int :=
  match n with
  | 0 => 0
  | n + 1 => term / (2 * k + 1 : Nat) + sgn * fxArcInv sgn d n (k + 1) (term / (d * d : Nat))
/-- ln 2 = 2 atanh (1/3). -/
def fxLn2 (p : Nat) : Int := 2 * fxArcInv 1 3 (fxTerms p) 0 ((2 ^ p : Nat) / 3)
/-- π = 16 atan (1/5) - 4 atan (1/239). -/
def fxPi (p : Nat) : Int :=
  16 * fxArcInv (-1) 5 (fxTerms p) 0 ((2 ^ p : Nat) / 5)
    - 4 * fxArcInv (-1) 239 (fxTerms p) 0 ((2 ^ p : Nat) / 239)

/-- e^r by Horner's rule, from term `k` on. -/
def fxExpFrom (p : Nat) (r : Int) (k : Nat) : Nat → Int
  | 0 => (2 ^ p : Nat)
  | n + 1 => (2 ^ p : Nat) + fxMul p r (fxExpFrom p r (k + 1) n) / (k : Nat)
/-- e^r. -/
def fxExp (p : Nat) (r : Int) : Int := fxExpFrom p r 1 (fxTerms p)

/-- 1 - r²/(k(k+1)) (1 - r²/((k+2)(k+3)) (…)). -/
def fxAlt (p : Nat) (r2 : Int) (k : Nat) : Nat → Int
  | 0 => (2 ^ p : Nat)
  | n + 1 => (2 ^ p : Nat) - fxMul p r2 (fxAlt p r2 (k + 2) n) / (k * (k + 1) : Nat)
/-- sin r. -/
def fxSin (p : Nat) (r : Int) : Int := fxMul p r (fxAlt p (fxMul p r r) 2 (fxTerms p))
/-- cos r. -/
def fxCos (p : Nat) (r : Int) : Int := fxAlt p (fxMul p r r) 1 (fxTerms p)

/-- Σ z^(2k+1)/(2k+1) for |z| ≤ 1/5. -/
def fxAtanhFrom (p : Nat) (z2 : Int) (k : Nat) (term : Int) : Nat → Int
  | 0 => 0
  | n + 1 => term / (2 * k + 1 : Nat) + fxAtanhFrom p z2 (k + 1) (fxMul p term z2) n

/-! ## Enclosures -/

/-- A number times a power of two. -/
def numOfFx (v e : Int) : Num := .fin (decide (v < 0)) v.natAbs e

/-- The bound of the error of every series below, in units of its last place. -/
def fxErr : Int := 65536

/-- The two ends about an approximation v * 2^e. -/
def around (v e : Int) : Num × Num := (numOfFx (v - fxErr) e, numOfFx (v + fxErr) e)

/-- e^x as v and k with e^x = v * 2^(k - p), for |x| < 512 given at precision `p`. -/
def expParts (p : Nat) (x : Int) : Int × Int :=
  let l := fxLn2 p
  let k := x / l
  (fxExp p (x - k * l), k)

/-- A signed magnitude. -/
def signed (neg : Bool) (x : Int) : Int := if neg then -x else x

/-- The functions of R202 that are enclosed. -/
inductive Func where
  | exp | exp2 | log2 | tanh | sigm | sin | cos
  deriving DecidableEq, Repr

/-- A value just below 1, and one below every subnormal: R202 rounds any such value alike. -/
def nearlyOne (neg : Bool) : Num := .fin neg (2 ^ 300 - 1) (-300)
/-- Below every subnormal. -/
def nearlyZero : Num := .fin false 1 (-1000)
/-- Above every finite value. -/
def hugeNum : Num := .fin false 1 1000

/-- sin or cos: the argument is reduced by quarter turns. -/
def trigAround (p : Nat) (cosine neg : Bool) (m : Nat) (e : Int) : Num × Num :=
  let big := p + (max 0 (e + Nat.log2 m + 2)).toNat
  let x := fxOf big m e
  let h := fxPi big / 2
  let n := x / h
  let r := (x - n * h) / (2 ^ (big - p) : Nat)
  let k := (n % 4).toNat + (if cosine then 1 else 0)
  let v := if k % 2 == 0 then fxSin p r else fxCos p r
  let v := if k % 4 < 2 then v else -v
  around (if neg && !cosine then -v else v) (-p)

/-- log2 of a positive number that is no power of two. -/
def logAround (p m : Nat) (e : Int) : Num × Num :=
  let l := Nat.log2 m
  let up := decide (3 * 2 ^ l < 2 * m)
  let s := if up then l + 1 else l
  let one : Int := (2 ^ s : Nat)
  let z := ((m : Int) - one) * (2 ^ p : Nat) / ((m : Int) + one)
  let ln := 2 * fxAtanhFrom p (fxMul p z z) 0 z (fxTerms p)
  around ((e + s) * (2 ^ p : Nat) + ln * (2 ^ p : Nat) / fxLn2 p) (-p)

/-- An enclosure of a function at the finite non-zero number (-1)^neg m 2^e, at precision `p`. -/
def enclose (f : Func) (p : Nat) (neg : Bool) (m : Nat) (e : Int) : Num × Num :=
  let top := e + Nat.log2 m
  match f with
  | .exp =>
    if 8 ≤ top then (if neg then (nearlyZero, nearlyZero) else (hugeNum, hugeNum))
    else
      let (v, k) := expParts p (signed neg (fxOf p m e))
      around v (k - p)
  | .exp2 =>
    if 8 ≤ top then (if neg then (nearlyZero, nearlyZero) else (hugeNum, hugeNum))
    else
      let x := signed neg (fxOf p m e)
      let k := x / (2 ^ p : Nat)
      let frac := x - k * (2 ^ p : Nat)
      if 0 ≤ e || (frac == 0 && -e ≤ p) then (numOfFx 1 k, numOfFx 1 k)
      else around (fxExp p (fxMul p frac (fxLn2 p))) (k - p)
  | .log2 =>
    if m == 2 ^ Nat.log2 m then (.ofInt top, .ofInt top) else logAround p m e
  | .tanh =>
    if 6 ≤ top then (nearlyOne neg, nearlyOne neg)
    else
      let (v, k) := expParts p (2 * fxOf p m e)
      let a := v * (2 ^ k.toNat : Nat)
      let one : Int := (2 ^ p : Nat)
      around (signed neg ((a - one) * one / (a + one))) (-p)
  | .sigm =>
    if 8 ≤ top then
      (if neg then (nearlyZero, nearlyZero) else (nearlyOne false, nearlyOne false))
    else
      let (v, k) := expParts p (-(fxOf p m e))
      let d : Int := (2 ^ (p - k).toNat : Nat)
      if neg then around (v * d / (d + v)) (k - p) else around ((2 ^ p : Nat) * d / (d + v)) (-p)
  | .sin => trigAround p false neg m e
  | .cos => trigAround p true neg m e

/-- R202: rounds at growing precision until both ends agree; 960 bits decide every argument. -/
def roundFunc (f : Func) (t : BitVec 4) (mode : BitVec 3) (sat : Bool) (r : Nat) (neg : Bool) (m : Nat)
    (e : Int) : List Nat → Nat
  | [] => roundTo t mode sat r (enclose f 1920 neg m e).1
  | p :: ps =>
    let (lo, hi) := enclose f p neg m e
    let a := roundTo t mode sat r lo
    if a = roundTo t mode sat r hi then a else roundFunc f t mode sat r neg m e ps

/-- R203: a function at a value that is infinite or zero. -/
def funcSpecial (f : Func) (x : Num) : Num :=
  let one : Num := .ofInt 1
  match f, x with
  | _, .nan => .nan
  | .exp, .inf n => if n then .zero else .inf false
  | .exp, .fin _ _ _ => one
  | .exp2, .inf n => if n then .zero else .inf false
  | .exp2, .fin _ _ _ => one
  | .log2, .inf n => if n then .nan else .inf false
  | .log2, .fin _ _ _ => .inf true
  | .tanh, .inf n => .fin n 1 0
  | .tanh, .fin n _ _ => .fin n 0 0
  | .sigm, .inf n => if n then .zero else one
  | .sigm, .fin _ _ _ => .fin false 1 (-1)
  | .sin, .inf _ => .nan
  | .sin, .fin n _ _ => .fin n 0 0
  | .cos, .inf _ => .nan
  | .cos, .fin _ _ _ => one

/-- R202, R203: an enclosed function, rounded into a float type. -/
def funcOf (f : Func) (t : BitVec 4) (mode : BitVec 3) (sat : Bool) (r : Nat) (x : Num) : Nat :=
  match x with
  | .nan => roundTo t mode sat r .nan
  | .inf n => roundTo t mode sat r (funcSpecial f (.inf n))
  | .fin neg m e =>
    if m == 0 then roundTo t mode sat r (funcSpecial f x)
    else if f == .log2 && neg then roundTo t mode sat r .nan
    else roundFunc f t mode sat r neg m e [96, 192, 448, 960]

/-- R202, R203: FRCP. -/
def rcpOf (x : Num) : Num :=
  match x with
  | .nan => .nan
  | .inf n => .fin n 0 0
  | .fin n m e => if m == 0 then .inf n else rcpNum n m e
/-- R202, R203: FRSQ. -/
def rsqOf (x : Num) : Num :=
  match x with
  | .nan => .nan
  | .inf n => if n then .nan else .zero
  | .fin n m e => if m == 0 then .inf n else if n then .nan else rsqNum m e
/-- R202, R203: FSQRT. -/
def sqrtOf (x : Num) : Num :=
  match x with
  | .nan => .nan
  | .inf n => if n then .nan else .inf false
  | .fin n m e => if m == 0 then x else if n then .nan else sqrtNum m e

/-- R204: a value rounded to an integral one. -/
def integralOf (mode : BitVec 3) (r : Nat) (x : Num) : Num :=
  match x with
  | .nan => .nan
  | .inf n => .inf n
  | .fin n m e => if m == 0 then x else .fin n (roundMag mode n r m e 0) 0

/-- R126, R205: the scale byte of a block for an element type with `emax`. -/
def scaleByte (emax : Int) (xs : List Num) : Nat :=
  if xs.any fun x => !x.isFin then 255
  else
    let tops := xs.filterMap fun x => match x with
      | .fin _ m e => if m == 0 then none else some (e + Nat.log2 m)
      | .nan => none
      | .inf _ => none
    match tops with
    | [] => 0
    | t :: ts => (clampInt (-127) 127 (ts.foldl max t - emax) + 127).toNat

/-- R126: the exponent of the largest power of two of an element type. -/
def emaxOf (t : BitVec 4) : Int := if tyElemOf t == 4 then 2 else 8

end Sys2Proof.Machine
end

