-- ==== Sys2Proof/Machine/Checks.lean ====
section
/-! DEFINITION. The checks of a checked tile: lines, corner, location, correction and regeneration
(R132 to R140). A tile's values stand row by row; integer values are numbers without a fraction. -/

namespace Sys2Proof.Machine

/-- R132: the checks of a tile. -/
structure Sums where
  rc : List Word
  cc : List Word
  ck : Word
  deriving DecidableEq, Repr

/-- A tile's values, row by row. -/
abbrev Grid := List (List Num)

/-- R136: the exponent t of a type; none for integer types, whose sums are exact. -/
def toleranceOf (t : BitVec 4) : Option Nat :=
  match t.toNat with
  | 0 => some 16
  | 1 => some 7
  | 2 | 14 => some 3
  | 3 => some 2
  | 4 | 5 | 15 => some 1
  | _ => none

/-- R268, R279: the check kind of a type: fp32 checks or i32 checks. -/
def kindOf (t : BitVec 4) : Nat := if tyIsInt t then 1 else 0

/-- The integer that a value without a fraction is. -/
def Num.toInt : Num → Int
  | .fin n m e => scaleTo n m e 0
  | .nan => 0
  | .inf _ => 0

/-- The exact sum of values. -/
def sumNum (xs : List Num) : Num := xs.foldl Num.add .zero

/-- R136: the value of a check entry. -/
def entryVal (tol : Option Nat) (w : Word) : Num :=
  match tol with
  | some _ => fp32 w
  | none => .ofInt w.toInt

/-- R136: a line of values against its entry. -/
def lineOk (tol : Option Nat) (xs : List Num) (entry : Word) : Bool :=
  match tol with
  | none => decide ((sumNum xs).toInt % 4294967296 = (entry.toNat : Int))
  | some t =>
    let c := fp32 entry
    xs.all Num.isFin && c.isFin &&
      ((sumNum xs).sub c).abs.le
        ((((sumNum (xs.map Num.abs)).add c.abs).scale (-(t : Int))).add (.fin false 1 (-126)))

/-- The values of a column. -/
def column (g : Grid) (j : Nat) : List Num := g.map fun r => r.getD j .zero

/-- R138: the failing rows. -/
def badRows (tol : Option Nat) (g : Grid) (s : Sums) : List Nat :=
  (List.range g.length).filter fun i => !lineOk tol (g.getD i []) (s.rc.getD i 0)
/-- R138: the failing columns of a tile with `n` columns. -/
def badCols (tol : Option Nat) (n : Nat) (g : Grid) (s : Sums) : List Nat :=
  (List.range n).filter fun j => !lineOk tol (column g j) (s.cc.getD j 0)
/-- R137: the corner on the rc entries. -/
def cornerRows (tol : Option Nat) (s : Sums) : Bool := lineOk tol (s.rc.map (entryVal tol)) s.ck
/-- R137: the corner on the cc entries. -/
def cornerCols (tol : Option Nat) (s : Sums) : Bool := lineOk tol (s.cc.map (entryVal tol)) s.ck

/-- R134: a check made from values: their exact sum, rounded to fp32 or modulo 2^32. -/
def checkOf (int : Bool) (xs : List Num) : Word :=
  if int then BitVec.ofInt 32 (sumNum xs).toInt else round32 (sumNum xs)

/-- R134: the checks of a tile with `n` columns. -/
def makeSums (int : Bool) (n : Nat) (g : Grid) : Sums :=
  { rc := g.map (checkOf int), cc := (List.range n).map fun j => checkOf int (column g j)
    ck := checkOf int g.flatten }

/-- The values of a list but for one position. -/
def without (xs : List Num) (k : Nat) : List Num := xs.take k ++ xs.drop (k + 1)

/-- R139: the exact value of an element by its row's check. -/
def fromRow (tol : Option Nat) (g : Grid) (s : Sums) (i j : Nat) : Num :=
  (entryVal tol (s.rc.getD i 0)).sub (sumNum (without (g.getD i []) j))
/-- R139: the exact value of an element by its column's check. -/
def fromCol (tol : Option Nat) (g : Grid) (s : Sums) (i j : Nat) : Num :=
  (entryVal tol (s.cc.getD j 0)).sub (sumNum (without (column g j) i))

/-- Replaces elements of a grid. -/
def setElems (g : Grid) (cs : List (Nat × Nat × Num)) : Grid :=
  cs.foldl (fun g (i, j, x) => modifyNth (fun r => r.set j x) g i) g

/-- R138: the outcome of a test: the tile as passed on, its checks, and the corrected elements. -/
inductive Tested where
  | good (g : Grid) (s : Sums) (located : List (Nat × Nat × Num))
  | bad
  deriving Repr

/-- R139: corrects elements, each rounded by `place`, and tests again. -/
def correct (tol : Option Nat) (n : Nat) (g : Grid) (s : Sums) (place : Nat → Nat → Num → Num)
    (cs : List (Nat × Nat × Num)) : Tested :=
  let cs := cs.map fun (i, j, x) => (i, j, place i j x)
  let g' := setElems g cs
  if (badRows tol g' s).isEmpty && (badCols tol n g' s).isEmpty && cornerRows tol s && cornerCols tol s
  then .good g' s cs
  else .bad

/-- R138: tests a tile with `n` columns and acts on the first row of the table that matches. -/
def testTile (tol : Option Nat) (n : Nat) (g : Grid) (s : Sums) (place : Nat → Nat → Num → Num) :
    Tested :=
  let int := tol.isNone
  let r := badRows tol g s
  let c := badCols tol n g s
  match r, c with
  | [], [] =>
    if cornerRows tol s && cornerCols tol s then .good g s []
    else .good g { s with ck := checkOf int g.flatten } []
  | [i], [j] => correct tol n g s place [(i, j, fromRow tol g s i j)]
  | [i], js =>
    if js.isEmpty then
      if cornerCols tol s then .good g { s with rc := s.rc.set i (checkOf int (g.getD i [])) } [] else .bad
    else correct tol n g s place (js.map fun j => (i, j, fromCol tol g s i j))
  | is, [j] =>
    if is.isEmpty then
      if cornerRows tol s then .good g { s with cc := s.cc.set j (checkOf int (column g j)) } [] else .bad
    else correct tol n g s place (is.map fun i => (i, j, fromRow tol g s i j))
  | is, [] =>
    if cornerCols tol s then
      .good g { s with rc := is.foldl (fun rc i => rc.set i (checkOf int (g.getD i []))) s.rc } []
    else .bad
  | [], js =>
    if cornerRows tol s then
      .good g { s with cc := js.foldl (fun cc j => cc.set j (checkOf int (column g j))) s.cc } []
    else .bad
  | _, _ => .bad

/-- R138, R479: a correction: its action (1 element, 2 rc, 3 cc, 4 ck), row and column. -/
structure Fix where
  action : Nat
  i : Nat := 0
  j : Nat := 0
  deriving DecidableEq, Repr

/-- R259: the logical array row that a correction is charged to. -/
def Fix.row (f : Fix) : Nat := if f.action == 1 || f.action == 3 then f.j else 128

/-- R138: what a test that ends well corrects. -/
def fixesOf (tol : Option Nat) (n : Nat) (g : Grid) (s : Sums) (located : List (Nat × Nat × Num)) : List Fix :=
  if !located.isEmpty then located.map fun e => { action := 1, i := e.1, j := e.2.1 }
  else
    let r := (badRows tol g s).map fun i => { action := 2, i }
    let c := (badCols tol n g s).map fun j => { action := 3, j }
    if !r.isEmpty || !c.isEmpty then r ++ c
    else if cornerRows tol s && cornerCols tol s then []
    else [{ action := 4 }]

/-- R479: the correction records of a read; `charged` when an array's rows are charged. -/
def State.traceFixes (s : State) (key slot : Nat) (addr node : Word) (charged : Bool) (fs : List Fix) : State :=
  fs.foldl (fun s f => s.traceFix key slot addr f.action f.i f.j (if charged then f.row else 0xFF) node) s

/-- R133: the header word of a trailer. -/
def trailerHead (kind m n : Nat) (ty : BitVec 4) : Word :=
  BitVec.ofNat 32 (kind * 2 ^ 18 + (n - 1) * 2 ^ 11 + (m - 1) * 2 ^ 4 + ty.toNat)

end Sys2Proof.Machine
end

