-- ==== Sys2Proof/Machine/Tiles.lean ====
section
/-! DEFINITION. Descriptors, regions and the bytes of tiles (R118 to R120, R132, R133, R266 to R269).
Functions that read memory take the reader as an argument: `rd a n` is the `n` bytes from `a` on. -/

namespace Sys2Proof.Machine

/-! ## Descriptors (R266, R267) -/

/-- A field of a descriptor. -/
def dField (d : BitVec 512) (lo n : Nat) : Nat := d.toNat / 2 ^ lo % 2 ^ n

/-- R266: word `w` of a descriptor. -/
def dWord (d : BitVec 512) (w : Nat) : Word := d.extractLsb' (32 * w) 32
/-- R272: a descriptor with word `w` replaced. -/
def dSetWord (d : BitVec 512) (w : Nat) (x : Word) : BitVec 512 :=
  BitVec.ofNat 512 (d.toNat - (dWord d w).toNat * 2 ^ (32 * w) + x.toNat * 2 ^ (32 * w))

/-- R266: what the engines take from a descriptor. -/
def regionOf (d : BitVec 512) (map : Nat) : Region :=
  { base := dField d 0 56, ty := BitVec.ofNat 4 (dField d 56 4), rows := dField d 64 16
    cols := dField d 80 16, pitch := dField d 96 32, trailer := dField d 128 32
    tr := dField d 160 7 + 1, tc := dField d 167 7 + 1, scale := dField d 192 56
    sstride := dField d 480 16, codebook := dField d 256 56, map := BitVec.ofNat 32 map }

/-- R266, R267: the index maps of the three roles. -/
def mapA (d : BitVec 512) : Nat := dField d 416 32
/-- R266. -/
def mapB (d : BitVec 512) : Nat := dField d 448 32
/-- R266. -/
def mapU (d : BitVec 512) : Nat := dField d 384 32
/-- R266. -/
def dCursor (d : BitVec 512) : Nat := dField d 496 16
/-- R266. -/
def dMcast (d : BitVec 512) : Nat := dField d 174 8
/-- R266. -/
def dBitmap (d : BitVec 512) : Nat := dField d 320 56

/-- R266: every reserved field is zero. -/
def reservedZero (d : BitVec 512) : Bool :=
  dField d 376 8 == 0 && dField d 312 8 == 0 && dField d 248 8 == 0 && dField d 182 10 == 0
    && dField d 60 4 == 0

/-- R5, R266: a descriptor as it is read out: its reserved fields are zero. -/
def dSeen (d : BitVec 512) : BitVec 512 :=
  let field (lo n : Nat) : BitVec 512 := BitVec.ofNat 512 ((2 ^ n - 1) * 2 ^ lo)
  d &&& ~~~(field 376 8 ||| field 312 8 ||| field 248 8 ||| field 182 10 ||| field 60 4)

/-- R267: a map's image of (u, v). -/
def mapImage (m : Word) (u v : Int) : Int × Int :=
  let f (lo n : Nat) : Int := signedLane' n (m.toNat / 2 ^ lo % 2 ^ n)
  (f 20 4 * u + f 16 4 * v + f 24 8, f 4 4 * u + f 0 4 * v + f 8 8)
where
  /-- Two's complement of `n` bits. -/
  signedLane' (n x : Nat) : Int := if x < 2 ^ (n - 1) then x else (x : Int) - (2 ^ n : Nat)

/-! ## Grids and bytes (R119, R120, R268) -/

/-- MX types. -/
def tyIsMx (t : BitVec 4) : Bool := t == 14 || t == 15
/-- R268: tiles down. -/
def Region.gr (r : Region) : Nat := r.rows / r.tr
/-- R268: tiles across. -/
def Region.gc (r : Region) : Nat := r.cols / r.tc
/-- R119: the packed size of `n` elements. -/
def packedSize (ty : BitVec 4) (n : Nat) : Nat := (n * tyWidth ty + 7) / 8
/-- R268: bytes of a trailer's place. -/
def trailerSpace (m n : Nat) : Nat := 256 * ((8 + 4 * m + 4 * n + 255) / 256)
/-- R268: the first byte of a tile's trailer. -/
def Region.trailerAt (r : Region) (p q : Nat) : Nat :=
  r.base + r.trailer + (p * r.gc + q) * trailerSpace r.tr r.tc
/-- R132: bytes of a trailer without its padding. -/
def Region.trailerSize (r : Region) : Nat := 8 + 4 * r.tr + 4 * r.tc

/-- R119: the bytes that hold part of a row: first byte and length. -/
def rowSpan (r : Region) (row col n : Nat) : Nat × Nat :=
  let w := tyWidth r.ty
  let first := col * w / 8
  (r.base + row * r.pitch + first, (col + n) * w / 8 + (if (col + n) * w % 8 == 0 then 0 else 1) - first)

/-- R268: the data bytes of a tile, row by row. -/
def Region.dataSpans (r : Region) (p q : Nat) : List (Nat × Nat) :=
  (List.range r.tr).map fun i => rowSpan r (p * r.tr + i) (q * r.tc) r.tc

/-- R120: the scale bytes of a tile. -/
def Region.scaleSpans (r : Region) (p q : Nat) : List (Nat × Nat) :=
  if tyIsMx r.ty then
    (List.range r.tr).map fun i => (r.scale + (p * r.tr + i) * r.sstride + q * r.tc / 32, r.tc / 32)
  else []

/-- R118: the bytes of the codebook. -/
def Region.codeSpans (r : Region) : List (Nat × Nat) := if r.ty == 5 then [(r.codebook, 32)] else []

/-- The data, trailer and scale bytes of a tile. -/
def Region.tileSpans (r : Region) (p q : Nat) : List (Nat × Nat) :=
  r.dataSpans p q ++ [(r.trailerAt p q, trailerSpace r.tr r.tc)] ++ r.scaleSpans p q

/-- R268: the data bytes of a region, row by row. -/
def Region.allData (r : Region) : List (Nat × Nat) :=
  (List.range r.rows).map fun i => (r.base + i * r.pitch, packedSize r.ty r.cols)
/-- R268: the trailers of a region. -/
def Region.allTrailers (r : Region) : List (Nat × Nat) :=
  if r.trailer == 0 then [] else [(r.base + r.trailer, r.gr * r.gc * trailerSpace r.tr r.tc)]
/-- R268: the scale bytes of a region. -/
def Region.allScales (r : Region) : List (Nat × Nat) :=
  if tyIsMx r.ty then (List.range r.rows).map fun i => (r.scale + i * r.sstride, r.cols / 32) else []
/-- R268: the bytes of a region, its trailers and its scales. -/
def Region.allSpans (r : Region) : List (Nat × Nat) := r.allData ++ r.allTrailers ++ r.allScales

/-- R268, R281: the bytes of a destination: data and trailers. -/
def Region.marked (r : Region) : List (Nat × Nat) := r.allData ++ r.allTrailers

/-- R268: the tiles of a grid, row by row. -/
def Region.tiles (r : Region) : List (Nat × Nat) :=
  (List.range r.gr).flatMap fun p => (List.range r.gc).map fun q => (p, q)

/-- The sectors that spans touch, each once, in the order they are met. -/
def sectorsOf (spans : List (Nat × Nat)) : List Nat :=
  (spans.flatMap fun (a, n) =>
    if n = 0 then [] else (List.range ((a + n - 1) / 128 - a / 128 + 1)).map (a / 128 + ·)).eraseDups

/-- Two spans share a byte. -/
def spansMeet (a b : Nat × Nat) : Bool := decide (a.1 < b.1 + b.2) && decide (b.1 < a.1 + a.2)

/-- Two lists of spans share a byte. -/
def anyMeet (xs ys : List (Nat × Nat)) : Bool := xs.any fun a => ys.any (spansMeet a)

/-- Every byte of a span lies in some span of a list of disjoint spans. -/
def spanInside (xs : List (Nat × Nat)) (b : Nat × Nat) : Bool :=
  ((xs.map fun a => min (a.1 + a.2) (b.1 + b.2) - max a.1 b.1).sum) == b.2

/-! ## Reading and writing tiles -/

/-- Elements of a row from its bytes: `skip` elements are passed over. -/
def unpackRow (ty : BitVec 4) (bs : List Byte) (skip n : Nat) : List Word :=
  let x := leNat bs
  let w := tyWidth ty
  (List.range n).map fun i => BitVec.ofNat 32 (x / 2 ^ (w * (skip + i)) % 2 ^ w)

/-- A row's bytes from its elements over the old bytes: `skip` elements are kept. -/
def packRow (ty : BitVec 4) (old : List Byte) (skip : Nat) (ws : List Word) : List Byte :=
  let w := tyWidth ty
  let x := leNat old
  let lo := w * skip
  let hi := lo + w * ws.length
  let mid := ws.foldr (fun v acc => acc * 2 ^ w + v.toNat % 2 ^ w) 0
  leBytes old.length (x % 2 ^ lo + mid * 2 ^ lo + x / 2 ^ hi * 2 ^ hi)

/-- A tile as read: raw elements row by row, its scale bytes and codebook. -/
structure RawTile where
  ty : BitVec 4
  m : Nat
  n : Nat
  rows : List (List Word)
  scales : List (List Nat) := []
  cb : List Word := []
  deriving DecidableEq, Repr

/-- Elements passed over before a tile's first in its first byte. -/
def Region.skipAt (r : Region) (q : Nat) : Nat := q * r.tc * tyWidth r.ty % 8 / tyWidth r.ty

/-- R119, R120: reads a tile's elements, scales and codebook. -/
def Region.readTile (r : Region) (rd : Nat → Nat → List Byte) (p q : Nat) : RawTile :=
  { ty := r.ty, m := r.tr, n := r.tc
    rows := (r.dataSpans p q).map fun (a, n) => unpackRow r.ty (rd a n) (r.skipAt q) r.tc
    scales := (r.scaleSpans p q).map fun (a, n) => (rd a n).map BitVec.toNat
    cb := if r.ty == 5 then codebookOf (rd r.codebook 32) else [] }

/-- R120: an E8M0 scale. -/
def scaleVal (b : Nat) : Num := if b == 255 then .nan else .fin false 1 ((b : Int) - 127)

/-- R134: the value of an element of a tile. -/
def RawTile.val (t : RawTile) (i j : Nat) : Num :=
  let w := (t.rows.getD i []).getD j 0
  if t.ty == 5 then cbVal t.cb (w.toNat % 16)
  else if tyIsMx t.ty then
    (valOf (tyElemOf t.ty) w).mul (scaleVal ((t.scales.getD i []).getD (j / 32) 127))
  else valOf t.ty w

/-- R134: the values of a tile. -/
def RawTile.grid (t : RawTile) : Grid :=
  (List.range t.m).map fun i => (List.range t.n).map fun j => t.val i j

/-- R139: the raw element that a correction puts in a tile. -/
def RawTile.rawFor (t : RawTile) (i j : Nat) (x : Num) : Word :=
  if t.ty == 5 then BitVec.ofNat 32 (cbIndex t.cb x)
  else if tyIsMx t.ty then
    let b := (t.scales.getD i []).getD (j / 32) 127
    BitVec.ofNat 32 (roundTo (tyElemOf t.ty) 0 true 0 (x.scale (127 - (b : Int))))
  else if tyIsInt t.ty then BitVec.ofNat 32 (intBits (tyWidth t.ty) x.toInt)
  else BitVec.ofNat 32 (roundTo t.ty 0 true 0 x)

/-- A tile with an element replaced. -/
def RawTile.setRaw (t : RawTile) (i j : Nat) (w : Word) : RawTile :=
  { t with rows := modifyNth (fun r => r.set j w) t.rows i }

/-- R139: the value that a correction leaves in an element. -/
def RawTile.place (t : RawTile) (i j : Nat) (x : Num) : Num := (t.setRaw i j (t.rawFor i j x)).val i j

/-- R132: the checks that a trailer's bytes hold. -/
def sumsOf (bs : List Byte) (m n : Nat) : Sums :=
  let w (k : Nat) : Word := BitVec.ofNat 32 (leNat ((bs.drop (4 * k)).take 4))
  { rc := (List.range m).map fun i => w (1 + i), cc := (List.range n).map fun j => w (1 + m + j)
    ck := w (1 + m + n) }

/-- R132: the bytes of a trailer without its padding. -/
def trailerBytes (ty : BitVec 4) (m n : Nat) (s : Sums) : List Byte :=
  (trailerHead (kindOf ty) m n ty :: (s.rc ++ s.cc ++ [s.ck])).flatMap fun w => leBytes 4 w.toNat

/-- R132: a trailer with its zero padding. -/
def trailerPadded (ty : BitVec 4) (m n : Nat) (s : Sums) : List Byte :=
  let bs := trailerBytes ty m n s
  bs ++ List.replicate (trailerSpace m n - bs.length) 0

/-- R133: the header word agrees with a reader's descriptor. -/
def headOk (ty : BitVec 4) (m n : Nat) (bs : List Byte) : Bool :=
  leNat (bs.take 4) == (trailerHead (kindOf ty) m n ty).toNat

/-- R136 to R139: verifies a tile as read against its trailer's bytes; what it passes on. -/
def verifyRaw (t : RawTile) (bs : List Byte) : Option (RawTile × Sums) :=
  if !headOk t.ty t.m t.n bs then none
  else match testTile (toleranceOf t.ty) t.n t.grid (sumsOf bs t.m t.n) t.place with
    | .bad => none
    | .good _ s located =>
      some (located.foldl (fun t (i, j, x) => t.setRaw i j (t.rawFor i j x)) t, s)

/-- R136 to R140: reads and verifies a tile. -/
def Region.verified (r : Region) (rd : Nat → Nat → List Byte) (p q : Nat) : Option (RawTile × Sums) :=
  verifyRaw (r.readTile rd p q) (rd (r.trailerAt p q) r.trailerSize)

/-- R138: what the read of a tile corrects; nothing when it is uncorrectable. -/
def Region.fixes (r : Region) (rd : Nat → Nat → List Byte) (p q : Nat) : List Fix :=
  let t := r.readTile rd p q
  let s := sumsOf (rd (r.trailerAt p q) r.trailerSize) t.m t.n
  match testTile (toleranceOf t.ty) t.n t.grid s t.place with
  | .bad => []
  | .good _ _ located => fixesOf (toleranceOf t.ty) t.n t.grid s located

/-- The writes that place a tile's data: address and bytes, over the bytes that `rd` gives. -/
def Region.dataWrites (r : Region) (rd : Nat → Nat → List Byte) (p q : Nat) (rows : List (List Word)) :
    List (Nat × List Byte) :=
  List.zipWith (fun (s : Nat × Nat) ws => (s.1, packRow r.ty (rd s.1 s.2) (r.skipAt q) ws))
    (r.dataSpans p q) rows

/-- The writes that place a tile with its scales and its trailer. -/
def Region.tileWrites (r : Region) (rd : Nat → Nat → List Byte) (p q : Nat) (t : RawTile) (s : Sums) :
    List (Nat × List Byte) :=
  r.dataWrites rd p q t.rows
    ++ List.zipWith (fun (sp : Nat × Nat) bs => (sp.1, bs.map (BitVec.ofNat 8))) (r.scaleSpans p q) t.scales
    ++ [(r.trailerAt p q, trailerPadded t.ty t.m t.n s)]

/-! ## Making tiles -/

/-- R125 to R129: a tile of a type from exact values, with its scales, under a mode; `rw` is the
random word of SR. -/
def encodeTile (ty : BitVec 4) (cb : List Word) (mode : BitVec 3) (sat : Bool) (rw : Word) (n : Nat)
    (g : Grid) : RawTile :=
  let r (i j : Nat) : Nat := srByte rw (i * n + j)
  let base : RawTile := { ty, m := g.length, n, rows := [], cb }
  if ty == 5 then
    { base with rows := g.map fun row => row.map fun x => BitVec.ofNat 32 (cbIndex cb x) }
  else if tyIsMx ty then
    let e := tyElemOf ty
    let scaleRow (row : List Num) : List Nat :=
      (List.range (n / 32)).map fun b => scaleByte (emaxOf ty) ((row.drop (32 * b)).take 32)
    let scales := g.map scaleRow
    let elem (i j : Nat) (x : Num) : Word :=
      let b := (scales.getD i []).getD (j / 32) 127
      if b == 255 then 0
      else BitVec.ofNat 32 (roundTo e mode true (r i j) (x.scale (127 - (b : Int))))
    { base with scales, rows := g.zipIdx.map fun (row, i) => row.zipIdx.map fun (x, j) => elem i j x }
  else
    { base with rows := g.zipIdx.map fun (row, i) => row.zipIdx.map fun (x, j) =>
        BitVec.ofNat 32 (roundTo ty mode sat (r i j) x) }

/-- R296: regenerated checks of a tile: from its own values. -/
def RawTile.regenerate (t : RawTile) : Sums := makeSums (tyIsInt t.ty) t.n t.grid

/-- The transpose of a list of rows with `n` columns. -/
def transposeRows (n : Nat) (rows : List (List Word)) : List (List Word) :=
  (List.range n).map fun j => rows.map fun r => r.getD j 0

end Sys2Proof.Machine
end

