-- ==== Sys2Proof/Machine/Nodes.lean ====
section
/-! DEFINITION. Nodes of the thunk tables as the memory side sees them: tags, demands, guards and the
end of an evaluation (R231, R234, R273 to R275, R291, R298 to R300). -/

namespace Sys2Proof.Machine

/-- R273: a node handle. -/
def handleWord (cluster index gen : Nat) : Word := BitVec.ofNat 32 (cluster * 2 ^ 28 + index * 2 ^ 18 + gen * 2 ^ 10)
/-- R273: a node's handle. -/
def Node.number (n : Node) : Word := handleWord n.cluster n.index n.gen
/-- R273, R304: a node's handle, marked in its zero bits while the node is in a save area. -/
def Node.handle (n : Node) : Word := n.number + BitVec.ofNat 32 n.mark
/-- R273: the cluster of a handle. -/
def handleCluster (h : Word) : Nat := (h.extractLsb' 28 4).toNat
/-- The node that a handle names. -/
def State.nodeOf (s : State) (h : Word) : Option Node := s.nodes.find? (·.handle == h)
/-- Changes a node. -/
def State.updNode (s : State) (h : Word) (f : Node → Node) : State :=
  { s with nodes := modifyFirst (·.handle == h) f s.nodes }

/-- The coordinates of a node's tile. -/
def Node.coord (n : Node) (t : Nat) : Nat × Nat := (t / n.d.gc, t % n.d.gc)
/-- The state of a node's tile. -/
def Node.tile (n : Node) (t : Nat) : TileState := n.tiles.getD t .dropped
/-- R281, R291: the bytes of a destination tile: data and trailer. The scale bytes of an MX destination are
neither tagged nor demanded (DEDUCED, notes/assumptions/57.md). -/
def Node.tileSpans (n : Node) (t : Nat) : List (Nat × Nat) :=
  n.d.dataSpans (n.coord t).1 (n.coord t).2 ++ [(n.d.trailerAt (n.coord t).1 (n.coord t).2, trailerSpace n.d.tr n.d.tc)]
/-- The sectors of a destination tile. -/
def Node.tileSectors (n : Node) (t : Nat) : List Nat := sectorsOf (n.tileSpans t)
/-- Tiles that pick out a state. -/
def Node.tilesIn (n : Node) (p : TileState → Bool) : List Nat :=
  (List.range n.tiles.length).filter fun t => p (n.tile t)
/-- The node's SUSPENDED tiles. -/
def Node.suspended (n : Node) : List Nat := n.tilesIn (· == .suspended)
/-- R275: a tile that keeps its node from being FREE. -/
def TileState.open' : TileState → Bool
  | .suspended => true
  | .linked => true
  | .evaluating => true
  | .value => false
  | .poison => false
  | .dropped => false
/-- R300: a tile that keeps a guard closed. -/
def TileState.unforced : TileState → Bool
  | .suspended => true
  | .evaluating => true
  | .linked => false
  | .value => false
  | .poison => false
  | .dropped => false

/-- R275: the state of a node from its tiles: none when it becomes FREE. -/
def Node.settled (n : Node) : Option NodeState :=
  if n.tiles.any (· == .evaluating) then some .active
  else if n.tiles.any TileState.open' then some (if n.mark != 0 then .spilled else .pending)
  else none

/-- R275: writes a tile's state; a node with no open tile leaves the table. -/
def State.setTile (s : State) (h : Word) (t : Nat) (st : TileState) : State :=
  match s.nodeOf h with
  | none => s
  | some n =>
    let n := { n with tiles := n.tiles.set t st }
    match n.settled with
    | some k => s.updNode h fun _ => { n with st := k }
    | none => { s with nodes := s.nodes.filter fun m => m.handle != h }

/-! ## Tags by sector number -/

/-- The tag record of a sector of a session. -/
def State.tagNo (s : State) (session sec : Nat) : TagRec := s.tags.get {} (sectorKey session (BitVec.ofNat 64 (sec * 128)))
/-- Writes a tag record. -/
def State.setTagNo (s : State) (session sec : Nat) (t : TagRec) : State :=
  s.setTag session (BitVec.ofNat 64 (sec * 128)) t

/-- R275, R291: the tag a sector of a node takes from the node's tiles that touch it. -/
def Node.sectorTag (n : Node) (sec : Nat) : Tag :=
  let ts := (List.range n.tiles.length).filter fun t => (n.tileSectors t).contains sec
  if ts.any fun t => n.tile t == .evaluating then .evaluating
  else if ts.any fun t => n.tile t == .suspended || n.tile t == .linked then .suspended
  else if ts.any fun t => n.tile t == .poison then .poison
  else .value

/-! ## Demands (R291) -/

/-- R291: demands one tile if it is SUSPENDED. -/
def State.demandTile (s : State) (h : Word) (chain parent : Option Nat) (site : Option DemandSite) (t : Nat) :
    State :=
  match s.nodeOf h with
  | none => s
  | some n =>
    if n.tile t != .suspended then s
    else
      let (id, s) := s.fresh
      let s := s.setTile h t .evaluating
      let s := (n.tileSectors t).foldl (fun s sec =>
        s.setTagNo n.session sec { s.tagNo n.session sec with tag := .evaluating }) s
      { s with evals := s.evals ++ [{ id, node := h, tile := t, chain := chain.getD id, parent, site }] }

/-- R291: demands tiles of a node. -/
def State.demandTiles (s : State) (h : Word) (ts : List Nat) (chain parent : Option Nat)
    (site : Option DemandSite) : State :=
  ts.foldl (fun s t => s.demandTile h chain parent site t) s

/-- R291: a demand that reaches a SUSPENDED sector. -/
def State.demandSector (s : State) (session sec : Nat) (chain parent : Option Nat)
    (site : Option DemandSite) : State :=
  match s.nodeOf (s.tagNo session sec).node with
  | none => s
  | some n =>
    s.demandTiles n.handle ((List.range n.tiles.length).filter fun t => (n.tileSectors t).contains sec)
      chain parent site

/-- R300: forces every SUSPENDED tile of a node for nobody. -/
def State.protectiveForce (s : State) (h : Word) : State :=
  match s.nodeOf h with
  | none => s
  | some n => s.demandTiles h n.suspended none none none

/-! ## Source guards (R299, R300) -/

/-- R278: the operands that a node's operation reads from a descriptor of its own. -/
def Node.sources (n : Node) : List Region :=
  match n.op with
  | .tmul => [n.a, n.b]
  | .tmac => [n.a, n.b]
  | .tzip => [n.a, n.b]
  | .tmap => [n.a]
  | .tred => [n.a]
  | .txpose => [n.a]
  | .tcvt => [n.a]
  | .tcopy => [n.a]

/-- R299: the guarded bytes of a node: its sources and the codebooks of its cb4 operands. -/
def Node.guarded (n : Node) : List (Nat × Nat) :=
  (n.sources.flatMap fun r => r.allSpans ++ r.codeSpans) ++ n.d.codeSpans

/-- Spans as flat keys, as a context's unit addresses them. -/
def State.flatSpans (s : State) (u session : Nat) (spans : List (Nat × Nat)) : List (Nat × Nat) :=
  spans.map fun (a, n) => (s.flat u session (BitVec.ofNat 64 a), n)

/-- R367: a kept record as its send guard holds writes: with handle 0, and one tile open. -/
def Node.asGuard (n : Node) : Node := { n with cluster := 0, index := 0, gen := 0, mark := 0, tiles := [.suspended] }

/-- R367: the records kept for the tiles that ports send, one for each tile at each port. -/
def State.kept (s : State) : List Node :=
  ((s.parts.filterMap (fun x => x.node.map fun n => (x.req, x.port, x.pos, n))
    ++ s.sent.filterMap fun x => x.node.map fun n => (x.req, x.port, x.tile, n)).eraseDups).map fun x => x.2.2.2

/-- R367: the send guards. -/
def State.sendGuards (s : State) : List Node := s.kept.map Node.asGuard

/-- R300, R367: the first node whose guard holds a write to flat spans; a node `but` is passed over. -/
def State.guardOf (s : State) (spans : List (Nat × Nat)) (but : Option Word) : Option Node :=
  (s.nodes ++ s.sendGuards).find? fun n =>
    some n.handle != but && n.tiles.any TileState.unforced
      && anyMeet spans (s.flatSpans (unitOf n.key) n.session n.guarded)

/-! ## Node records (R274) -/

/-- R274: the E opcode of a tile operation. -/
def TileOp.opcode : TileOp → Nat
  | .tmul => 0x10
  | .tmac => 0x11
  | .tmap => 0x12
  | .tzip => 0x13
  | .tred => 0x14
  | .txpose => 0x15
  | .tcvt => 0x16
  | .tcopy => 0x17

/-- R274: an operand record. -/
def Region.record (r : Region) : List Byte :=
  leBytes 8 (r.base + r.ty.toNat * 2 ^ 56) ++ leBytes 2 r.rows ++ leBytes 2 r.cols ++ leBytes 4 r.pitch
    ++ leBytes 4 r.trailer ++ leBytes 4 r.map.toNat
    ++ leBytes 8 (if tyIsMx r.ty then r.scale else if r.ty == 5 then r.codebook else 0)
    ++ leBytes 4 (r.tr - 1 + (r.tc - 1) * 2 ^ 7 + r.sstride * 2 ^ 14)

/-- R274, R290: the state of a node as its record and its status code it. -/
def NodeState.code : NodeState → Nat
  | .pending => 1
  | .active => 2
  | .spilled => 3

/-- R274: the record of a node. -/
def Node.record (n : Node) : List Byte :=
  leBytes 4 (n.gen * 2 ^ 24 + n.st.code * 2 ^ 20 + n.stream * 2 ^ 16 + n.op.opcode * 2 ^ 9) ++ leBytes 4 n.ctl.toNat
    ++ leBytes 4 n.p.toNat
    ++ leBytes 4 (ctxOf n.key * 2 ^ 29 + coreOf (unitOf n.key) * 2 ^ 25 + n.slot * 2 ^ 21) ++ leBytes 4 n.addr.toNat
    ++ n.d.record ++ n.a.record ++ n.b.record

/-! ## The end of an evaluation (R113, R302) -/

/-- After a tile's end: each sector takes its new tag; the accesses queued on sectors that are no
longer EVALUATING are released, in queue order. -/
def State.releaseSector (acc : State × List (Nat × Waiter)) (n : Node) (sec : Nat) : State × List (Nat × Waiter) :=
  let (s, ws) := acc
  let r := s.tagNo n.session sec
  let queue := r.waiters.map fun w => (sectorKey n.session (BitVec.ofNat 64 (sec * 128)), w)
  if r.node != n.handle then (s, ws)
  else
    let tag := n.sectorTag sec
    match tag with
    | .evaluating => (s, ws)
    | .suspended => (s.setTagNo n.session sec { r with tag, waiters := [] }, ws ++ queue)
    | .poison => (s.setTagNo n.session sec { tag := .poison }, ws ++ queue)
    | .value => (s.setTagNo n.session sec {}, ws ++ queue)

/-- R275: ends a tile, and gives the accesses it releases. -/
def State.endTile (s : State) (n : Node) (t : Nat) (st : TileState) : State × List (Nat × Waiter) :=
  let n' := { n with tiles := n.tiles.set t st }
  let (s, ws) := (n.tileSectors t).foldl (fun acc sec => State.releaseSector acc n' sec) (s, [])
  (s.setTile n.handle t st, ws)

/-- R289, R305: poisons the SUSPENDED and LINKED tiles of a node. -/
def State.poisonNode (s : State) (h : Word) : State × List (Nat × Waiter) :=
  match s.nodeOf h with
  | none => (s, [])
  | some n =>
    (n.tilesIn fun t => t == .suspended || t == .linked).foldl (fun acc t =>
      match acc.1.nodeOf h with
      | none => acc
      | some m =>
        let (s, ws) := acc.1.endTile m t .poison
        (s, acc.2 ++ ws)) (s, [])

/-- R298: entries that the nodes hold in a die's suspension directory. -/
def State.dirUse (s : State) (die : Nat) : Nat :=
  (s.nodes.map fun n =>
    if ownerDie (BitVec.ofNat 64 n.d.base) == die then n.tiles.length else 0).sum

/-- R299: the dies on which a node's guard entries stand: a window's is the home cluster's die. -/
def Node.guardDies (n : Node) : List Nat :=
  let die (a : Nat) : Nat :=
    if (BitVec.ofNat 64 a).extractLsb' 52 4 == 15 then dieOf n.cluster else ownerDie (BitVec.ofNat 64 a)
  (n.sources.map fun r => die r.base)
    ++ ((n.sources ++ [n.d]).filter fun r => r.ty == 5).map fun r => die r.codebook

/-- R298, R367: entries that the nodes and the send guards hold in a die's source guard. -/
def State.guardUse (s : State) (die : Nat) : Nat :=
  ((s.nodes ++ s.kept).map fun n => (n.guardDies.filter (· == die)).length).sum

end Sys2Proof.Machine
end

