-- ==== Sys2Proof/Machine/Memory.lean ====
section
/-! DEFINITION. The memory side: L1s (R93, R101, R102, R232), page and tag checks (R92, R217, R219,
R234 to R238, R300, R301), store buffers (R221), and the accesses of engines. -/

namespace Sys2Proof.Machine

/-! ## Pieces of an access -/

/-- R96: the parts of a byte range that fall in one sector each. -/
def piecesOf : Nat → Nat → Nat → List (Nat × Nat)
  | 0, _, _ => []
  | fuel + 1, va, n =>
    if n = 0 then []
    else
      let k := min n (128 - va % 128)
      (va, k) :: piecesOf fuel (va + k) (n - k)

/-- R96. -/
def pieces (va n : Nat) : List (Nat × Nat) := piecesOf (n / 128 + 2) va n

/-- R96: the parts of spans. -/
def piecesOfSpans (spans : List (Nat × Nat)) : List (Nat × Nat) := spans.flatMap fun (a, n) => pieces a n

/-- An address as a bit vector. -/
def ad (a : Nat) : Addr := BitVec.ofNat 64 a

/-- Who accesses: its unit, the session whose tables it uses, its launch, its world, and the engine
request it is for (0: none). -/
structure Party where
  unit : Nat
  session : Nat
  launch : Nat
  secure : Bool
  req : Nat := 0
  /-- The request, walk or evaluation whose reads queue at the owner (0: none). -/
  who : Nat := 0

/-- The party that a unit is for the launch on its cluster. -/
def State.unitParty (s : State) (u : Nat) : Party :=
  let l := (s.launchOn (clusterOf u)).getD Launch.none
  { unit := u, session := l.session, launch := l.uid, secure := l.secure }

/-- The party that a context is. -/
def State.partyOf (s : State) (key : Nat) : Party := s.unitParty (unitOf key)

/-! ## L1 (R93, R101, R102, R232) -/

/-- R101: the launch on a unit's cluster fuses its L1s. -/
def State.fusedL1 (s : State) (u : Nat) : Bool :=
  ((s.launchOn (clusterOf u)).getD Launch.none).hdr.flags.getLsbD 2

/-- R101: the unit whose L1 holds, or would hold, an address of a unit's domain; none for a CCC and
for windows. -/
def State.l1Unit (s : State) (u va : Nat) : Option Nat :=
  if isCcc u || 2 ^ 52 * 15 ≤ va then none
  else some (if s.fusedL1 u then unitNo (clusterOf u) (va / 256 % 8) else u)

/-- R101: the units of a unit's sharing domain. -/
def State.domain (s : State) (u : Nat) : List Nat :=
  if isCcc u then [] else if s.fusedL1 u then (List.range 8).map (unitNo (clusterOf u)) else [u]

/-- R101, R102: the scope code of a unit's domain: an operation is wider when its code is larger. -/
def State.domainScope (s : State) (u : Nat) : Nat := if s.fusedL1 u then 2 else 1

/-- R93: the sector that the domain's L1 holds at an address. -/
def State.l1Find (s : State) (u va : Nat) : Option L1Sector :=
  match s.l1Unit u va with
  | none => none
  | some c => (s.unitAt c).l1.find (va / 128)

/-- R93: the runs of dirty bytes of a sector, from an address on. -/
def dirtyRuns : Nat → List Byte → List Bool → List (Nat × List Byte)
  | va, b :: bs, d :: ds =>
    let rest := dirtyRuns (va + 1) bs ds
    if !d then rest
    else match rest with
      | [] => [(va, [b])]
      | (a, xs) :: more => if a = va + 1 then (va, b :: xs) :: more else (va, [b]) :: (a, xs) :: more
  | _, _, _ => []

/-- R93, R102, R300: writes a sector's dirty bytes back, unless a guard holds some of them, which is then
forced. -/
def State.writeBack (s : State) (c sec : Nat) : State :=
  match (s.unitAt c).l1.find sec with
  | none => s
  | some l =>
    if l.dirty.all (!·) then s
    else
      let session := s.sessionOf c
      let runs := dirtyRuns (sec * 128) l.bytes l.dirty
      match s.guardOf (s.flatSpans c session (runs.map fun r => (r.1, r.2.length))) none with
      | some n => s.protectiveForce n.handle
      | none =>
        let s := runs.foldl (fun s r => s.ownerWrite c session (ad r.1) r.2) s
        s.updUnit c fun x => { x with l1 := x.l1.put sec { l with dirty := List.replicate 128 false } }

/-- R102: writes back every dirty sector of the L1s of some units. -/
def State.writeBackAll (s : State) (us : List Nat) : State :=
  us.foldl (fun s c => (s.unitAt c).l1.foldl (fun s p => s.writeBack c p.1) s) s

/-- No dirty byte is left in the L1s of some units. -/
def State.allClean (s : State) (us : List Nat) : Bool :=
  us.all fun c => (s.unitAt c).l1.all fun p => p.2.dirty.all (!·)

/-- R102: invalidates the L1s of some units; a sector that a guard keeps dirty stays. -/
def State.invalidateAll (s : State) (us : List Nat) : State :=
  us.foldl (fun s c => s.updUnit c fun x => { x with l1 := x.l1.filter fun p => p.2.dirty.any id }) s

/-- Drops a sector from an L1. -/
def State.l1Drop (s : State) (c sec : Nat) : State := s.updUnit c fun x => { x with l1 := x.l1.del sec }

/-- R232: the line of a sector and the set of a line (log entry 8). -/
def lineOf (sec : Nat) : Nat := sec / 2
/-- R232: 512 sets of 16 lines of 256 bytes; in fused mode the core's bits are not part of the set. -/
def setOf (fused : Bool) (line : Nat) : Nat := if fused then line / 8 % 512 else line % 512

/-- R232: the last use of a line. -/
def lineUsed (l1 : SMap L1Sector) (line : Nat) : Nat :=
  l1.foldl (fun m p => if lineOf p.1 == line then max m p.2.used else m) 0

/-- R232: the line to evict before a sector is filled: none while its set has room. -/
def victimOf (l1 : SMap L1Sector) (fused : Bool) (sec : Nat) : Option Nat :=
  let lines := ((l1.map fun p => lineOf p.1).filter fun x =>
    setOf fused x == setOf fused (lineOf sec)).eraseDups
  if lines.contains (lineOf sec) || lines.length < 16 then none else leastBy (lineUsed l1) lines

/-- R93, R232: makes room for a sector; false when a guard holds the victim's dirty bytes. -/
def State.evictFor (s : State) (c sec : Nat) : State × Bool :=
  match victimOf (s.unitAt c).l1 (s.fusedL1 c) sec with
  | none => (s, true)
  | some line =>
    let s := (s.writeBack c (2 * line)).writeBack c (2 * line + 1)
    let kept := [2 * line, 2 * line + 1].filter fun x =>
      match (s.unitAt c).l1.find x with
      | none => false
      | some l => l.dirty.any id
    if kept.isEmpty then ((s.l1Drop c (2 * line)).l1Drop c (2 * line + 1), true) else (s, false)

/-- R232: notes the use of a sector. -/
def State.l1Touch (s : State) (u va : Nat) : State :=
  match s.l1Unit u va with
  | none => s
  | some c => s.updUnit c fun x =>
      match x.l1.find (va / 128) with
      | none => x
      | some l => { x with clock := x.clock + 1, l1 := x.l1.put (va / 128) { l with used := x.clock + 1 } }

/-- Some bytes of a list replaced from a position on. -/
def overwrite (bs : List Byte) (off : Nat) (new : List Byte) : List Byte :=
  bs.take off ++ new ++ bs.drop (off + new.length)

/-- R93: one part of a store is applied: to the L1 copy on a hit, through it for STREAM, else at the
owner. -/
def State.storePiece (s : State) (u session va : Nat) (bs : List Byte) : State :=
  match s.l1Unit u va, s.l1Find u va with
  | some c, some l =>
    if l.readOnly then s.ownerWrite u session (ad va) bs
    else
      let wb := l.policy == .wb
      let l := { l with
        bytes := overwrite l.bytes (va % 128) bs
        dirty := if wb then l.dirty.take (va % 128) ++ bs.map (fun _ => true) ++ l.dirty.drop (va % 128 + bs.length)
                 else l.dirty }
      let s := s.updUnit c fun x => { x with
        clock := x.clock + 1, l1 := x.l1.put (va / 128) { l with used := x.clock + 1 } }
      if wb then s else s.ownerWrite u session (ad va) bs
  | _, _ => s.ownerWrite u session (ad va) bs

/-! ## Admission (R217, R219, R234 to R238, R300, R301) -/

/-- What the memory side answers to an access. -/
inductive Verdict' where
  | ok
  /-- A fault: cause, TCODE and address. -/
  | fault (cause : Nat) (code : Word) (addr : Nat)
  /-- R238: a page that is not present or not mapped. -/
  | page (va : Nat)
  /-- R235: a sector that is SUSPENDED or EVALUATING. -/
  | queued (sec : Nat)
  /-- R300: a guard. -/
  | held (node : Word)
  deriving DecidableEq, Repr

/-- How an access treats memory, for its checks. -/
structure Mode where
  write : Bool := false
  atomic : Bool := false
  /-- R230: TAGQ and LDPEEK meet no tags. -/
  peek : Bool := false
  /-- R230: TAGQ reads no data. -/
  noData : Bool := false
  /-- R301: a guard faults instead of holding. -/
  guardTrap : Bool := false

/-- R90, R91: the first piece whose address is bad. -/
def badAddr (u : Nat) (ps : List (Nat × Nat)) : Option Nat :=
  (ps.find? fun p => placeOf (isCcc u) (ad p.1) == .bad).map Prod.fst

/-- A piece lies on paged memory. -/
def paged (u a : Nat) : Bool :=
  match placeOf (isCcc u) (ad a) with
  | .hbm _ => true
  | .host _ => true
  | .bad => false
  | .ownPad _ => false
  | .sram _ => false
  | .pad _ _ => false
  | .slice _ _ _ => false

/-- R238: the piece's page is not present or not mapped. -/
def State.pageMissing (s : State) (p : Party) (a : Nat) : Bool :=
  paged p.unit a && (match s.pageOf p.session (ad a) with
    | some pg => !pg.present
    | none => true)

/-- R239, R455: a non-secure requester meets secure memory. -/
def State.worldBad (s : State) (p : Party) (a : Nat) : Bool :=
  !p.secure && (match placeOf (isCcc p.unit) (ad a) with
    | .slice d n _ => s.slices.get false (160 * d + n)
    | .hbm _ => (s.pageOf p.session (ad a)).any (·.secure)
    | .host _ => (s.pageOf p.session (ad a)).any (·.secure)
    | .bad => false
    | .ownPad _ => false
    | .sram _ => false
    | .pad _ _ => false)

/-- R93, R239: a write meets a read-only page. -/
def State.readOnlyAt (s : State) (p : Party) (a : Nat) : Bool :=
  paged p.unit a && (s.pageOf p.session (ad a)).any (!·.writable)

/-- R223, R239: region 0x8. -/
def hostRegion (u a : Nat) : Bool :=
  match placeOf (isCcc u) (ad a) with
  | .host _ => true
  | .hbm _ => false
  | .bad => false
  | .ownPad _ => false
  | .sram _ => false
  | .pad _ _ => false
  | .slice _ _ _ => false

/-- The tag record of the sector at a paged address; a window's sector is VALUE. -/
def State.tagAt (s : State) (p : Party) (a : Nat) : TagRec :=
  if paged p.unit a then s.tagOf p.session (ad a) else {}

/-- R234: the tag is SUSPENDED or EVALUATING. -/
def Tag.unready : Tag → Bool
  | .suspended => true
  | .evaluating => true
  | .value => false
  | .poison => false

/-- R433: a piece of host memory lies outside the windows. -/
def State.hostRefused (s : State) (p : Party) (a n : Nat) (write : Bool) : Bool :=
  hostRegion p.unit a
    && !hostAllowed s.hostWins (s.flat p.unit p.session (ad a) - busKey 0) n write

/-- The first piece that a test picks. -/
def firstAt (ps : List (Nat × Nat)) (t : Nat → Bool) : Option Nat := (ps.find? fun p => t p.1).map Prod.fst

/-- R219: the checks on tags, in order. -/
def State.tagVerdict (s : State) (p : Party) (m : Mode) (ps : List (Nat × Nat)) : Verdict' :=
  if m.peek then .ok
  else match firstAt ps fun a => (s.tagAt p a).tag.unready && (s.tagAt p a).launch != p.launch with
  | some a => .fault 0x36 0 a
  | none =>
    match firstAt ps fun a => !m.write && (s.tagAt p a).tag == .poison with
    | some a => .fault 0x37 0 a
    | none =>
      match firstAt ps fun a => (s.tagAt p a).tag.unready with
      | some a => .queued (a / 128)
      | none => .ok

/-- R300, R301: the check on guards, for a write. -/
def State.guardVerdict (s : State) (p : Party) (m : Mode) (ps : List (Nat × Nat)) : Verdict' :=
  if !m.write then .ok
  else match s.guardOf (s.flatSpans p.unit p.session ps) none with
  | none => .ok
  | some n =>
    if m.guardTrap then
      .fault 0x52 n.number ((ps.find? fun x =>
        anyMeet (s.flatSpans p.unit p.session [x])
          (s.flatSpans (unitOf n.key) n.session n.guarded)).map Prod.fst |>.getD 0)
    else .held n.handle

/-- R219: the memory side's answer to an access, after its issue checks. -/
def State.verdict (s : State) (p : Party) (m : Mode) (ps : List (Nat × Nat)) : Verdict' :=
  match firstAt ps (s.pageMissing p) with
  | some a => .page a
  | none =>
    match firstAt ps (s.worldBad p) with
    | some a => .fault 0x33 0 a
    | none =>
      match firstAt ps fun a => m.write && s.readOnlyAt p a with
      | some a => .fault 0x32 1 a
      | none =>
        match firstAt ps fun a => m.atomic && hostRegion p.unit a with
        | some a => .fault 0x32 2 a
        | none =>
          match s.tagVerdict p m ps with
          | .ok =>
            match s.guardVerdict p m ps with
            | .ok =>
              if m.noData then .ok
              else match ps.find? fun x => s.hostRefused p x.1 x.2 m.write with
              | some (a, _) => .fault 0x95 0 a
              | none =>
                match firstAt ps fun a => !m.write && s.ecc.contains (s.flat p.unit p.session (ad a) / 128) with
                | some a => .fault 0x38 0 a
                | none => .ok
            | v => v
          | v => v

/-- R93, R94, R230, R232: fills a sector into the domain's L1 when its page is WB or STREAM and a load of it
would be admitted. -/
def State.l1Fill (s : State) (u va : Nat) : State :=
  match s.l1Unit u va with
  | none => s
  | some c =>
    let p := s.unitParty u
    match s.pageOf p.session (ad va) with
    | none => s
    | some pg =>
      if pg.policy == .uc || s.verdict p {} [(va / 128 * 128, 128)] != .ok || ((s.unitAt c).l1.find (va / 128)).isSome then s
      else
        let (s, room) := s.evictFor c (va / 128)
        if !room then s
        else
          let bytes := s.ownerRead u p.session (ad (va / 128 * 128)) 128
          s.updUnit c fun x =>
            let used := if pg.policy == .stream then 0 else x.clock + 1
            { x with clock := x.clock + 1
                     l1 := x.l1.put (va / 128) { bytes, dirty := List.replicate 128 false
                                                 policy := pg.policy, readOnly := !pg.writable, used } }

/-- R238: reports a page to its die's processor; reports of one page are merged. -/
def State.reportPage (s : State) (session va req : Nat) : State :=
  let base := match s.pageOf session (ad va) with
    | some pg => pg.va
    | none => va
  let eng := if req = 0 then [] else [req]
  let same := fun (f : PageFault) => f.session == session && f.va == base
  let add := fun (f : PageFault) => if f.engines.contains req then f else { f with engines := f.engines ++ eng }
  if s.faults.any same then { s with faults := modifyFirst same add s.faults }
  else { s with faults := s.faults ++ [{ session, va := base, engines := eng }] }

/-! ## Translation (R8, R237) -/

/-- R237: the page whose entry translates an address: its first address, or that of a 64 KiB block where
nothing is mapped. -/
def State.pageBase (s : State) (session va : Nat) : Nat :=
  match s.pageOf session (ad va) with
  | some p => p.va
  | none => va / 2 ^ 16 * 2 ^ 16

/-- R237: the first page of an access that its owner's TLB does not hold: the die and the entry. -/
def State.tlbMiss (s : State) (p : Party) (ps : List (Nat × Nat)) : Option (Nat × Nat × Nat) :=
  (ps.filter fun x => paged p.unit x.1).findSome? fun x =>
    let e := (p.session, s.pageBase p.session x.1)
    if (s.tlbs.get [] (ownerDie (ad x.1))).contains e then none else some (ownerDie (ad x.1), e)

/-- R237: a miss takes one of its die's 8 walkers; while all are busy it waits for one. -/
def State.walkPage (s : State) (die : Nat) (e : Nat × Nat) : State :=
  let ws := s.walkers.get [] die
  if ws.contains e || 8 ≤ ws.length then s else { s with walkers := s.walkers.put die (ws ++ [e]) }

/-- R8: an entry enters a TLB of 16,384, in place of the oldest when it is full. -/
def tlbPut (es : List (Nat × Nat)) (e : Nat × Nat) : List (Nat × Nat) := (e :: es.filter (· != e)).take 16384

/-- R237: a die's oldest walk ends. -/
def State.walkEnds (s : State) (die : Nat) : State :=
  match s.walkers.get [] die with
  | [] => s
  | e :: es => { s with walkers := if es.isEmpty then s.walkers.del die else s.walkers.put die es
                        tlbs := s.tlbs.put die (tlbPut (s.tlbs.get [] die) e) }

/-- R238: entries of a session from `lo` to below `hi` leave every TLB, and walks to them begin again. -/
def State.tlbForget (s : State) (session lo hi : Nat) : State :=
  let keep (e : Nat × Nat) : Bool := e.1 != session || !(decide (lo ≤ e.2) && decide (e.2 < hi))
  let drop (m : SMap (List (Nat × Nat))) : SMap (List (Nat × Nat)) :=
    (m.map fun x => (x.1, x.2.filter keep)).filter fun x => !x.2.isEmpty
  { s with tlbs := drop s.tlbs, walkers := drop s.walkers }

/-! ## Engine accesses -/

/-- What an engine's access comes to. -/
inductive EngineAns where
  | ready
  | wait
  | fault (cause : Nat) (code : Word) (addr : Nat)
  deriving DecidableEq, Repr

/-- How an engine demands: the chain, the evaluation and the site. -/
structure Demander where
  chain : Option Nat := none
  parent : Option Nat := none
  site : Option DemandSite := none

/-- R21, R235: the owner's read of a sector for a party. -/
def State.readFor (s : State) (p : Party) (a : Nat) : Option EngineRead :=
  if p.who == 0 then none
  else s.engineReads.find? fun r => r.who == p.who && r.key == sectorKey p.session (ad a)

/-- R21: a party's reads of some pieces are over: what the owner has read for it lasts to the end of the
cycle. -/
def State.readsOver (s : State) (p : Party) (ps : List (Nat × Nat)) : State :=
  let mine (r : EngineRead) : Bool := r.who == p.who && ps.any fun x => sectorKey p.session (ad x.1) == r.key
  { s with engineReads := s.engineReads.map fun r => if mine r then { r with spent := true } else r }

/-- R21, R235: a party's read of a sector that is EVALUATING joins the accesses queued there, while there
are fewer than 64. -/
def State.queueEngine (s : State) (p : Party) (sec : Nat) : State :=
  let t := s.tagNo p.session sec
  let w : Waiter := { key := 0, slot := 0, engine := p.who }
  if p.who == 0 || t.tag != .evaluating || t.waiters.contains w || 64 ≤ t.waiters.length then s
  else s.setTagNo p.session sec { t with waiters := t.waiters ++ [w] }

/-- R8, R234 to R238, R300: an engine's access to spans: it demands suspensions, reports missing pages,
starts protective forces, and waits for each. -/
def State.engineTry (s : State) (p : Party) (m : Mode) (d : Demander) (spans : List (Nat × Nat)) :
    State × EngineAns :=
  let ps := piecesOfSpans spans
  match badAddr p.unit ps with
  | some a => (s, .fault 0x30 0 a)
  | none =>
    match s.tlbMiss p ps with
    | some (die, e) => (s.walkPage die e, .wait)
    | none =>
      let open' := if m.write then ps else ps.filter fun x => (s.readFor p x.1).isNone
      match s.verdict p m open' with
      | .ok => (if m.write || p.who == 0 then s else s.readsOver p ps, .ready)
      | .fault c code a => (if c == 0x95 then s.violate else s, .fault c code a)
      | .page a =>
        if s.refused.contains p.req && p.req != 0 then
          ({ s with refused := s.refused.filter (· != p.req) }, .fault 0x34 0 a)
        else (s.reportPage p.session a p.req, .wait)
      | .queued _ =>
        (((ps.map fun x => x.1 / 128).eraseDups).foldl (fun s sec =>
          if !paged p.unit (sec * 128) then s
          else
            let s := if (s.tagNo p.session sec).tag == .suspended
              then s.demandSector p.session sec d.chain d.parent d.site else s
            if m.write then s else s.queueEngine p sec) s, .wait)
      | .held h => (s.protectiveForce h, .wait)

/-- Bytes that an engine reads at their owner; of a sector that the owner has read for it in its turn of the
queue, the bytes of that read (R21, R235). -/
def State.engineBytes (s : State) (p : Party) (a n : Nat) : List Byte :=
  (pieces a n).flatMap fun (a, n) =>
    match s.readFor p a with
    | some r => (r.bytes.drop (a % 128)).take n
    | none => s.ownerRead p.unit p.session (ad a) n

/-- Bytes that an engine writes at their owner. -/
def State.engineWrite (s : State) (p : Party) (ws : List (Nat × List Byte)) : State :=
  ws.foldl (fun s (a, bs) =>
    (pieces a bs.length).foldl (fun s (x, n) =>
      s.ownerWrite p.unit p.session (ad x) ((bs.drop (x - a)).take n)) s) s

/-! ## Store buffers (R97, R221) -/

/-- A byte whose high nibble stays (R225). -/
def lowNibble (old new : Byte) : Byte := (old &&& 0xF0) ||| (new &&& 0x0F)

/-- A store's bytes over the old ones, when its last byte may be half a byte. -/
def nibbled (nib : Bool) (old new : List Byte) : List Byte :=
  if nib then
    match new.reverse with
    | [] => []
    | b :: rest => (rest.reverse) ++ [lowNibble (old.getD rest.length 0) b]
  else new

/-- R97: bytes as a context sees them, its own store buffer laid over them. -/
def overlay (buf : List StoreEntry) (va : Nat) (bs : List Byte) : List Byte :=
  buf.foldl (fun bs e =>
    let ev := e.va.toNat
    let new := nibbled e.nibble (((List.range e.bytes.length).map fun i =>
      if va ≤ ev + i then bs.getD (ev + i - va) 0 else 0)) e.bytes
    bs.zipIdx.map fun (b, i) =>
      if ev ≤ va + i && va + i < ev + new.length then new.getD (va + i - ev) 0 else b) bs

/-- R93, R97: bytes that a context's load returns: from the L1 copy on a hit, else from the owner, its
own stores laid over. -/
def State.loadBytes (s : State) (key va n : Nat) : List Byte :=
  let u := unitOf key
  let session := s.sessionOf u
  let raw := (pieces va n).flatMap fun (a, n) =>
    match s.l1Find u a with
    | some l => (l.bytes.drop (a % 128)).take n
    | none => s.ownerRead u session (ad a) n
  overlay ((s.ctxAt key).storeBuf ++ (s.ctxAt key).storeQ) va raw

/-- The bytes of an entry as they are applied. -/
def State.entryBytes (s : State) (u session : Nat) (e : StoreEntry) : List Byte :=
  if e.nibble then
    let old := match s.l1Find u e.va.toNat with
      | some l => (l.bytes.drop (e.va.toNat % 128)).take e.bytes.length
      | none => s.ownerRead u session e.va e.bytes.length
    nibbled true old e.bytes
  else e.bytes

/-- R98: a scoreboard slot loses one. -/
def Ctx.sbDone (c : Ctx) (sb : Option Nat) : Ctx :=
  match sb with
  | none => c
  | some n => { c with sb := c.sb.setIfInBounds n (c.sb.getD n 0 - 1) }

/-- R98, R221: no store of the context is left to apply. -/
def Ctx.stored (c : Ctx) : Bool := c.storeBuf.isEmpty && c.storeQ.isEmpty

/-- R221: parts of a store enter the buffer, in address order, as entries free. -/
def Ctx.takeIn (c : Ctx) : Ctx :=
  let n := 16 - c.storeBuf.length
  { c with storeBuf := c.storeBuf ++ c.storeQ.take n, storeQ := c.storeQ.drop n }

/-- R98, R221: an entry leaves the buffer; its store completes with its last part. -/
def Ctx.entryOut (c : Ctx) (e : StoreEntry) : Ctx :=
  let c := { c with storeBuf := c.storeBuf.filter (·.id != e.id) }.takeIn
  if c.storeBuf.any (·.store == e.store) then c else c.sbDone e.sb

/-- R221: an entry may be applied: no earlier entry of its context touches its sector (R97), and no
guard holds it (R300). -/
def State.entryFree (s : State) (key : Nat) (e : StoreEntry) (before : List StoreEntry) : Bool :=
  before.all (fun x => x.va.toNat / 128 != e.va.toNat / 128)
    && (s.ctxAt key).atomics.all (fun x => e.id < x.id || x.va.toNat / 128 != e.va.toNat / 128)
    && (s.guardOf [(s.flat (unitOf key) (s.sessionOf (unitOf key)) e.va, e.bytes.length)] none).isNone

/-- R221, R234: applies an entry. -/
def State.applyEntry (s : State) (key : Nat) (e : StoreEntry) : State :=
  let u := unitOf key
  let session := s.sessionOf u
  let s := if (s.l1Find u e.va.toNat).isNone && paged u e.va.toNat then s.cleanse session e.va else s
  let s := s.storePiece u session e.va.toNat (s.entryBytes u session e)
  s.updCtx key fun c => c.entryOut e

/-- R221: applies the first entry that may be; false when none is. -/
def State.applyFirst (s : State) (key : Nat) : List StoreEntry → List StoreEntry → State × Bool
  | _, [] => (s, false)
  | before, e :: rest =>
    if s.entryFree key e before then (s.applyEntry key e, true)
    else State.applyFirst s key (before ++ [e]) rest

/-- R97: applies what can be applied of a context's stores to the sectors of some pieces, and forces the
guards that hold the rest. -/
def State.drainSectors (s : State) (key : Nat) (ps : List (Nat × Nat)) : State :=
  (s.ctxAt key).storeBuf.foldl (fun s e =>
    if !ps.any fun p => p.1 / 128 == e.va.toNat / 128 then s
    else if s.entryFree key e ((s.ctxAt key).storeBuf.takeWhile (·.id != e.id)) then s.applyEntry key e
    else match s.guardOf [(s.flat (unitOf key) (s.sessionOf (unitOf key)) e.va, e.bytes.length)] none with
      | some m => s.protectiveForce m.handle
      | none => s) s

/-- Applies what can be applied of a context's store buffer, and forces the guards that hold the
rest. -/
def State.drainStores (s : State) (key : Nat) : Nat → State
  | 0 => s
  | n + 1 =>
    let (s', done) := s.applyFirst key [] (s.ctxAt key).storeBuf
    if done then State.drainStores s' key n
    else (s.ctxAt key).storeBuf.foldl (fun s e =>
      match s.guardOf [(s.flat (unitOf key) (s.sessionOf (unitOf key)) e.va, e.bytes.length)] none with
      | some m => s.protectiveForce m.handle
      | none => s) s

end Sys2Proof.Machine
end

