-- ==== Sys2Proof/Machine/Frame.lean ====
section
/-! DEFINITION. Save frames: where a launch's lie, what they hold, and the checks of their restoration
(R57, R85, R99, R155, R213, R426, R470). A frame stands in HBM that no session maps. -/

namespace Sys2Proof.Machine

/-! ## Places (R85, R246, R304, R360) -/

/-- R57: the size of a frame. -/
def frameSize : Nat := 2 ^ 15

/-- R85, R246, R304, R360: what a cluster's block of HBM holds: 16 frames for each core and 4 for the CCC,
1 MiB of array save area for each core, 128 KiB for nodes and 4 KiB for walks. -/
def clusterStore : Nat := 2 ^ 22 + 2 ^ 17 + 2 ^ 23 + 2 ^ 17 + 2 ^ 12

/-- R85: the place of a unit's frames in its cluster's block. -/
def framesOff (u : Nat) : Nat := coreOf u * 2 ^ 19
/-- R246: the place of a core's array save area. -/
def arrayOff (u : Nat) : Nat := 2 ^ 22 + 2 ^ 17 + coreOf u * 2 ^ 20
/-- R304: the place of the node save area. -/
def nodesOff : Nat := 2 ^ 22 + 2 ^ 17 + 2 ^ 23
/-- R360: the place of the walk save area. -/
def walksOff : Nat := nodesOff + 2 ^ 17

/-- The flat key of a byte of a cluster's block. -/
def Launch.storeKey (l : Launch) (c off : Nat) : Nat :=
  let b := l.store.get (0, 0) c
  hbmKey (b.1 / 192) (b.1 % 192 * 2 ^ 30 + b.2 + off)

/-- R85: the flat key of a unit's n-th frame. -/
def Launch.frameKey (l : Launch) (u n : Nat) : Nat := l.storeKey (clusterOf u) (framesOff u + n * frameSize)

/-! ## Control state (R470) -/

/-- R470: a word of an undelivered fault record. -/
def FaultRec.word (f : FaultRec) (j : Nat) : Word :=
  match j with
  | 0 => BitVec.ofNat 32 (f.cause + f.inner * 2 ^ 8)
  | 1 => f.tcode
  | 2 => f.addr.setWidth 32
  | _ => (f.addr >>> 32).setWidth 32

/-- R470: a control state word of a context, with its pending target. -/
def Ctx.controlWord (c : Ctx) (target : Addr) (i : Nat) : Word :=
  let bit (b : Bool) (n : Nat) : Nat := if b then 2 ^ n else 0
  if 16 ≤ i then (match c.faults[(i - 16) / 4]? with
    | some f => f.word (i % 4)
    | none => 0)
  else match i with
    | 0 => unitsAddr c.pc
    | 1 => BitVec.ofNat 32 (c.done.toNat + bit c.dly 10 + bit c.harwa 11 + bit c.sleepValid 12 + bit c.halt 13 + bit c.stageh 14)
    | 2 => if c.dly then unitsAddr target else 0
    | 3 => BitVec.ofNat 32 (c.idle.getD 0)
    | 4 => c.trap.cause
    | 5 => c.trap.addr
    | 6 => c.trap.done.setWidth 32
    | 7 => c.trap.code
    | 8 => tflagsWord c.trap
    | 9 => c.trap.target
    | 10 => c.faddr.setWidth 32
    | 11 => (c.faddr >>> 32).setWidth 32
    | 12 => c.deadline.setWidth 32
    | 13 => (c.deadline >>> 32).setWidth 32
    | 14 => BitVec.ofNat 32 c.faults.length
    | _ => 0

/-- R57, R470: a reserved bit of the control words is set, or more than 4 records are counted. -/
def controlBad (ws : List Nat) : Bool :=
  let w (i : Nat) : Nat := ws.getD i 0
  let n := w 14 % 8
  w 1 / 2 ^ 15 != 0 || w 3 / 2 ^ 20 != 0 || w 6 / 2 ^ 10 != 0 || w 8 / 2 ^ 2 != 0 || w 14 / 8 != 0 || w 15 != 0
    || 4 < n || (List.range 4).any fun k =>
      if k < n then w (16 + 4 * k) / 2 ^ 16 != 0
      else (List.range 4).any fun j => w (16 + 4 * k + j) != 0

/-! ## Records of a frame (R155, R426) -/

/-- R155: a loop's record. -/
def LoopRec.record (l : LoopRec) : Nat :=
  l.remain.toNat + l.start.toNat * 2 ^ 32 + (if l.active then 2 ^ 80 else 0) + l.depth.toNat * 2 ^ 81

/-- R155: a loop from its record. -/
def loopOf (x : Nat) : LoopRec :=
  { depth := BitVec.ofNat 3 (x / 2 ^ 81), active := x / 2 ^ 80 % 2 == 1
    start := BitVec.ofNat 32 (x / 2 ^ 32), remain := BitVec.ofNat 32 x }

/-- R155: a reserved bit is set, or the active loops' DEPTHs are not different numbers below their count. -/
def loopsBad (xs : List Nat) : Bool :=
  let on := (xs.map loopOf).filter (·.active)
  let ds := on.map fun l => l.depth.toNat
  xs.any (fun x => x / 2 ^ 84 != 0 || x / 2 ^ 64 % 2 ^ 16 != 0) || ds.eraseDups.length != ds.length
    || ds.any fun d => on.length ≤ d

/-- R426: a latch in its place among those of its OFFSET. -/
def Latch.record (l : Latch) (order : Nat) : Nat :=
  let (file, reg, x) : Nat × Nat × Nat := match l.pend.vals with
    | .s n w :: _ => if n = 0 then (2, 0, w.toNat) else (0, n, w.toNat)
    | .a n x :: _ => (1, n, x.toNat)
    | _ => (2, 0, (l.pend.enq.getD 0).toNat)
  x + 2 ^ 64 + reg * 2 ^ 65 + file * 2 ^ 70 + l.after * 2 ^ 72 + l.pend.slot * 2 ^ 76 + order * 2 ^ 80

/-- R426: a latch from its record. A result of slot 0 or 1 enters the result queue (R427). -/
def latchOf (x : Nat) : Latch :=
  let w : Word := BitVec.ofNat 32 x
  let slot := x / 2 ^ 76 % 16
  let reg := x / 2 ^ 65 % 32
  { after := x / 2 ^ 72 % 16
    pend := { vals := [match x / 2 ^ 70 % 4 with
                | 0 => .s reg w
                | 1 => .a reg (BitVec.ofNat 64 x)
                | _ => .s 0 w]
              enq := if slot ≤ 1 then some w else none, due := 0, fixed := true, seq := 0, slot } }

/-- Inserts a latch behind those that land before it. -/
def insertLatch (x : Latch) : List Latch → List Latch
  | [] => [x]
  | y :: ys => if y.pend.before x.pend then y :: insertLatch x ys else x :: y :: ys

/-- R426: the bank's records, in the order in which the results would land. -/
def latchRecords (ls : List Latch) : List Nat :=
  (List.range 16).flatMap fun k =>
    ((ls.filter (·.after == k)).foldl (fun ys x => insertLatch x ys) []).zipIdx.map fun (l, i) => l.record i

/-- R426: a reserved value, or an entry in use after an unused one. -/
def latchesBad (xs : List Nat) : Bool :=
  let used (x : Nat) : Bool := x / 2 ^ 64 % 2 == 1
  let off (x : Nat) : Nat := x / 2 ^ 72 % 16
  let slot (x : Nat) : Nat := x / 2 ^ 76 % 16
  xs.any (fun x => x / 2 ^ 88 != 0 || (used x && (x / 2 ^ 70 % 4 == 3 || off x == 0 || 5 < off x
      || !([0, 1, 7, 8, 9].contains (slot x)))) || (!used x && x != 0))
    || (xs.dropWhile used).any used

/-! ## Writing a frame (R57) -/

/-- Numbers of `w` bytes each. -/
def numBytes (w : Nat) (xs : List Nat) : List Byte := xs.flatMap (leBytes w)

/-- A register's number, 0 when it is gated. -/
def ungated (ccc : Bool) (h : Header) (file : RegFile) (n x : Nat) : Nat := if !ccc && h.gated file n then 0 else x

/-- R57: the bytes of a frame before its run vectors. -/
def Ctx.frameHead (c : Ctx) (ccc : Bool) (h : Header) : List Byte :=
  let b := c.bank
  let ls := latchRecords c.latches
  numBytes 4 (b.s.toList.zipIdx.map fun (w, n) => if n = 0 then 0 else ungated ccc h .s n w.toNat)
    ++ numBytes 4 (b.t.toList.map BitVec.toNat) ++ numBytes 8 (b.a.toList.map BitVec.toNat)
    ++ leBytes 4 b.sFull.toNat ++ leBytes 4 b.aFull.toNat ++ leBytes 8 b.vFull.toNat
    ++ numBytes 4 (b.q.toList.map fun p => p.word.toNat)
    ++ numBytes 2 c.sb.toList ++ numBytes 8 c.completed.toList ++ List.replicate 80 0
    ++ numBytes 16 (c.loops.toList.map LoopRec.record)
    ++ numBytes 4 ((List.range 32).map fun i => (c.controlWord (c.target.getD 0) i).toNat)
    ++ numBytes 4 (c.rq.map BitVec.toNat) ++ List.replicate (256 - 4 * c.rq.length) 0
    ++ numBytes 64 (b.d.toList.zipIdx.map fun (x, n) => ungated ccc h .d n x.toNat)
    ++ numBytes 16 ls

/-- R57: the entries of a run vector. -/
def runBytes (r : RunVec) : List Byte := r.flatMap fun (w, n) => leBytes 4 w.toNat ++ leBytes 2 n

/-- R57: a frame is written: zeros, and what is not zero. -/
def Ctx.writeFrame (c : Ctx) (ccc : Bool) (h : Header) (k : Nat) (m : List Host.Cell) : List Host.Cell :=
  let m := memWrite (memClear m k (k + frameSize)) k (c.frameHead ccc h)
  c.bank.v.toList.zipIdx.foldl (fun m (r, n) =>
    if ungated ccc h .v n 1 = 0 then m else memWrite m (k + 0x1000 + 768 * n) (runBytes r)) m

/-- What a frame does not hold of a context: its task and its spill region, what its committed slots still do,
its requests, and the model's own. -/
def Ctx.residue (c : Ctx) : Ctx :=
  { Ctx.reset with
    st := c.st, held := c.held, issued := c.issued, after := c.after, counted := c.counted, yieldDue := c.yieldDue
    trap := { after := c.trap.after, yieldDue := c.trap.yieldDue }
    faults := c.faults.map fun f => { cause := 0, words := f.words }, deferRec := c.deferRec, sprint := c.sprint
    task := c.task, spill := c.spill, wait := c.wait, reqs := c.reqs, nextIssue := c.nextIssue, drowsy := c.drowsy
    lastIssue := c.lastIssue, laps := c.laps, ignoreB := c.ignoreB, stepping := c.stepping, stopDue := c.stopDue
    push := c.push, passed := c.passed, ended := c.ended, trapHeld := c.trapHeld, acquireDue := c.acquireDue, seq := c.seq }

/-- R57, R85: a context is written to a frame of its launch; what stays of it. -/
def State.saveFrame (s : State) (l : Launch) (u n : Nat) (c : Ctx) : State × Ctx :=
  ({ s with mem := c.writeFrame (isCcc u) l.hdr (l.frameKey u n) s.mem }, c.residue)

/-! ## Reading a frame (R57) -/

/-- `n` numbers of `w` bytes each, from a key on. -/
def fieldsAt (m : List Host.Cell) (k w n : Nat) : List Nat :=
  (List.range n).map fun i => leNat (memRead m (k + w * i) w)

/-- Every byte of a range of keys reads 0. -/
def zeroAt (m : List Host.Cell) (lo hi : Nat) : Bool := m.all fun c => !(decide (lo ≤ c.1) && decide (c.1 < hi))

/-- R57: the run vector at a key: its entries in use. -/
def runAt (m : List Host.Cell) (k : Nat) : RunVec :=
  ((fieldsAt m k 6 128).map fun x => (BitVec.ofNat 32 x, x / 2 ^ 32 % 2 ^ 11)).takeWhile fun x => x.2 != 0

/-- R57, R99, R155, R426, R470: a frame that may not be restored. -/
def frameBad (m : List Host.Cell) (k : Nat) : Bool :=
  !zeroAt m k (k + 4) || !zeroAt m (k + 0x146) (k + 0x148) || !zeroAt m (k + 0x14C) (k + 0x150)
    || (fieldsAt m (k + 0x150) 4 8).any (fun x => x / 2 ^ 18 != 0) || !zeroAt m (k + 0x170) (k + 0x180)
    || !zeroAt m (k + 0x1B0) (k + 0x200) || loopsBad (fieldsAt m (k + 0x200) 16 8)
    || controlBad (fieldsAt m (k + 0x280) 4 32) || latchesBad (fieldsAt m (k + 0x800) 16 128)
    || !zeroAt m (k + 0x7000) (k + 0x8000)

/-- R57: the registers in a frame. -/
def bankAt (m : List Host.Cell) (ccc : Bool) (h : Header) (k : Nat) : Bank :=
  let s := fieldsAt m k 4 32
  let t := fieldsAt m (k + 0x80) 4 16
  let a := fieldsAt m (k + 0xC0) 8 16
  let q := fieldsAt m (k + 0x150) 4 8
  let d := fieldsAt m (k + 0x400) 64 16
  { s := Vector.ofFn fun i => BitVec.ofNat 32 (s.getD i.val 0), t := Vector.ofFn fun i => BitVec.ofNat 32 (t.getD i.val 0)
    a := Vector.ofFn fun i => ad (a.getD i.val 0)
    v := Vector.ofFn fun i => if ungated ccc h .v i.val 1 = 0 then [(0, h.vl)] else runAt m (k + 0x1000 + 768 * i.val)
    q := Vector.ofFn fun i => Pred.ofWord (BitVec.ofNat 32 (q.getD i.val 0))
    d := Vector.ofFn fun i => BitVec.ofNat 512 (d.getD i.val 0)
    sFull := BitVec.ofNat 32 (leNat (memRead m (k + 0x140) 4)), aFull := BitVec.ofNat 16 (leNat (memRead m (k + 0x144) 2))
    vFull := BitVec.ofNat 32 (leNat (memRead m (k + 0x148) 4)) }

/-- R470: a context with the control state of a frame. -/
def Ctx.withControl (c : Ctx) (ws : List Nat) : Ctx :=
  let w (i : Nat) : Word := BitVec.ofNat 32 (ws.getD i 0)
  let two (i : Nat) : Addr := ad (ws.getD i 0 + ws.getD (i + 1) 0 * 2 ^ 32)
  let f := w 1
  { c with
    pc := bytesAddr (w 0), done := f.extractLsb' 0 10, dly := f.getLsbD 10, harwa := f.getLsbD 11
    sleepValid := f.getLsbD 12, halt := f.getLsbD 13, stageh := f.getLsbD 14
    target := if f.getLsbD 10 then some (bytesAddr (w 2)) else none
    idle := if w 3 = 0 then none else some (w 3).toNat
    trap := { c.trap with cause := w 4, addr := w 5, done := (w 6).extractLsb' 0 10, code := w 7, inh := (w 8).getLsbD 0
                          dly := (w 8).getLsbD 1, target := w 9 }
    faddr := two 10, deadline := two 12
    faults := (List.range ((w 14).toNat % 8)).map fun k =>
      let x := w (16 + 4 * k)
      { cause := x.toNat % 2 ^ 8, inner := x.toNat / 2 ^ 8 % 2 ^ 8, tcode := w (17 + 4 * k), addr := two (18 + 4 * k)
        words := match c.faults[k]? with
          | some r => r.words
          | none => [] } }

/-- R57: a context from a frame and what stood beside it; none for a frame that may not be restored. -/
def State.loadFrame (s : State) (l : Launch) (u n : Nat) (c : Ctx) : Option Ctx :=
  let k := l.frameKey u n
  let m := s.mem
  if frameBad m k then none
  else
    let b := bankAt m (isCcc u) l.hdr k
    let loops := fieldsAt m (k + 0x200) 16 8
    let tl := fieldsAt m (k + 0x180) 8 6
    some ({ c with
      bank := b, rd := b, completed := Vector.ofFn fun i => tl.getD i.val 0
      loops := Vector.ofFn fun i => loopOf (loops.getD i.val 0)
      rq := (fieldsAt m (k + 0x300) 4 64).map (BitVec.ofNat 32)
      latches := ((fieldsAt m (k + 0x800) 16 128).filter fun x => x / 2 ^ 64 % 2 == 1).map latchOf }.withControl
        (fieldsAt m (k + 0x280) 4 32))

/-! ## Contexts of a pre-empted launch (R425) -/

/-- R425: a context of a pre-empted launch, from its own frame. -/
def State.savedCtx (s : State) (l : Launch) (key : Nat) : Ctx :=
  match l.saved.bind fun v => v.ctxs.find key with
  | none => Ctx.reset
  | some r => (s.loadFrame l (unitOf key) (ctxOf key) r).getD r

/-- R425: writes a context of a pre-empted launch back to its frame. -/
def State.setSaved (s : State) (l : Launch) (key : Nat) (c : Ctx) : State :=
  match l.saved with
  | none => s
  | some v =>
    let (s, r) := s.saveFrame l (unitOf key) (ctxOf key) c
    s.updLaunch l.uid fun l => { l with saved := some { v with ctxs := v.ctxs.put key r } }

/-! ## Parked tasks (R83, R85) -/

/-- R85: the frame that a task parked in a unit takes: the first behind those of its contexts that no other
holds. -/
def UnitSt.freeFrame (x : UnitSt) (u : Nat) : Nat :=
  ((List.range 8).map (ctxCount u + ·) |>.find? fun n => !x.parked.any (·.frame == n)).getD 15

/-- A parked task's context, whole. -/
def State.parkedCtx (s : State) (l : Launch) (u : Nat) (p : Parked) : Ctx := (s.loadFrame l u p.frame p.ctx).getD p.ctx

/-- Changes the context of the parked tasks that `pick` names, in a unit's list. -/
def State.mapParked (s : State) (l : Launch) (u : Nat) (pick : Parked → Bool) (f : Ctx → Ctx) (ps : List Parked) :
    State × List Parked :=
  ps.foldl (fun (acc : State × List Parked) p =>
    if !pick p then (acc.1, acc.2 ++ [p])
    else
      let (s, c) := acc.1.saveFrame l u p.frame (f (acc.1.parkedCtx l u p))
      (s, acc.2 ++ [{ p with ctx := c }])) (s, [])

/-- Changes the context of the parked tasks of a unit that `pick` names. -/
def State.updParked (s : State) (l : Launch) (u : Nat) (pick : Parked → Bool) (f : Ctx → Ctx) : State :=
  let (s, ps) := s.mapParked l u pick f (s.unitAt u).parked
  s.updUnit u fun x => { x with parked := ps }

end Sys2Proof.Machine
end

