-- ==== Sys2Proof/Machine/Scalar.lean ====
section
/-! DEFINITION. The scalar engine: the S slot's arithmetic, immediates, floating point and system
registers (R142 to R165, R475). -/

namespace Sys2Proof.Machine

/-- The three outcomes over this machine. -/
abbrev Out := Host.Outcome State Fault Refusal

/-! ## Shapes -/

/-- A fixed-latency result of operands A and B in s[dst]. -/
def State.alu2 (s : State) (f : SFields) (lat : Nat) (op : Word → Word → Word) : State :=
  s.scalarOut f.dst lat (op (s.opA f) (s.opB f))
/-- A fixed-latency result of operand A in s[dst]. -/
def State.alu1 (s : State) (f : SFields) (lat : Nat) (op : Word → Word) : State :=
  s.scalarOut f.dst lat (op (s.opA f))

/-! ## Integer (R145, R146) -/

/-- R145. -/
def execAdd (f : SFields) (s : State) : Out := .next (s.alu2 f 1 (· + ·))
/-- R145. -/
def execSub (f : SFields) (s : State) : Out := .next (s.alu2 f 1 (· - ·))
/-- R145: latency 2. -/
def execMul (f : SFields) (s : State) : Out := .next (s.alu2 f 2 (· * ·))
/-- R145: the high word of the signed product. -/
def mulHigh (a b : Word) : Word := ((a.signExtend 64 * b.signExtend 64) >>> 32).setWidth 32
/-- R145: the high word of the unsigned product. -/
def mulHighU (a b : Word) : Word := ((a.setWidth 64 * b.setWidth 64) >>> 32).setWidth 32
/-- R145. -/
def execMulh (f : SFields) (s : State) : Out := .next (s.alu2 f 2 mulHigh)
/-- R145. -/
def execMulhu (f : SFields) (s : State) : Out := .next (s.alu2 f 2 mulHighU)

/-- R146: signed division. -/
def divS (a b : Word) : Word :=
  if b = 0 then 0xFFFFFFFF
  else if a = 0x80000000 ∧ b = 0xFFFFFFFF then 0x80000000
  else BitVec.ofInt 32 (a.toInt.tdiv b.toInt)
/-- R146: unsigned division. -/
def divU (a b : Word) : Word := if b = 0 then 0xFFFFFFFF else a / b
/-- R146: signed remainder, with the sign of A. -/
def remS (a b : Word) : Word :=
  if b = 0 then a
  else if a = 0x80000000 ∧ b = 0xFFFFFFFF then 0
  else BitVec.ofInt 32 (a.toInt.tmod b.toInt)
/-- R146: unsigned remainder. -/
def remU (a b : Word) : Word := if b = 0 then a else a % b
/-- The significant bits of a number. -/
def bitLen (m : Nat) : Nat := if m = 0 then 0 else Nat.log2 m + 1
/-- R146: the latency of a division, from the magnitude of A. -/
def divLatency (m : Nat) : Nat := 4 + (bitLen m + 3) / 4
/-- R146: a division's variable-latency result. -/
def State.divOut (s : State) (f : SFields) (m : Nat) (w : Word) : State :=
  s.variable (s.cycle + divLatency m) [.s f.dst.toNat w] (some w)
/-- R146. -/
def execDiv (f : SFields) (s : State) : Out :=
  .next (s.divOut f (s.opA f).toInt.natAbs (divS (s.opA f) (s.opB f)))
/-- R146. -/
def execDivu (f : SFields) (s : State) : Out :=
  .next (s.divOut f (s.opA f).toNat (divU (s.opA f) (s.opB f)))
/-- R146. -/
def execRem (f : SFields) (s : State) : Out :=
  .next (s.divOut f (s.opA f).toInt.natAbs (remS (s.opA f) (s.opB f)))
/-- R146. -/
def execRemu (f : SFields) (s : State) : Out :=
  .next (s.divOut f (s.opA f).toNat (remU (s.opA f) (s.opB f)))

/-- R145. -/
def execAnd (f : SFields) (s : State) : Out := .next (s.alu2 f 1 (· &&& ·))
/-- R145. -/
def execOr (f : SFields) (s : State) : Out := .next (s.alu2 f 1 (· ||| ·))
/-- R145. -/
def execXor (f : SFields) (s : State) : Out := .next (s.alu2 f 1 (· ^^^ ·))
/-- R145. -/
def execAndn (f : SFields) (s : State) : Out := .next (s.alu2 f 1 fun a b => a &&& ~~~b)
/-- R145: a shift amount is B[4:0]. -/
def shAmt (b : Word) : Nat := b.toNat % 32
/-- R145. -/
def execShl (f : SFields) (s : State) : Out := .next (s.alu2 f 1 fun a b => a <<< shAmt b)
/-- R145. -/
def execShr (f : SFields) (s : State) : Out := .next (s.alu2 f 1 fun a b => a >>> shAmt b)
/-- R145. -/
def execSra (f : SFields) (s : State) : Out := .next (s.alu2 f 1 fun a b => a.sshiftRight (shAmt b))
/-- R145. -/
def execRot (f : SFields) (s : State) : Out := .next (s.alu2 f 1 fun a b => a.rotateLeft (shAmt b))
/-- R145. -/
def execMin (f : SFields) (s : State) : Out := .next (s.alu2 f 1 fun a b => if BitVec.sle a b then a else b)
/-- R145. -/
def execMax (f : SFields) (s : State) : Out := .next (s.alu2 f 1 fun a b => if BitVec.sle a b then b else a)
/-- R145. -/
def execMinu (f : SFields) (s : State) : Out := .next (s.alu2 f 1 fun a b => if BitVec.ule a b then a else b)
/-- R145. -/
def execMaxu (f : SFields) (s : State) : Out := .next (s.alu2 f 1 fun a b => if BitVec.ule a b then b else a)
/-- R145: set bits of a word. -/
def popCount (a : Word) : Nat := ((List.range 32).filter a.getLsbD).length
/-- R145. -/
def execClz (f : SFields) (s : State) : Out :=
  .next (s.alu1 f 1 fun a => BitVec.ofNat 32 (32 - bitLen a.toNat))
/-- R145. -/
def execPopc (f : SFields) (s : State) : Out := .next (s.alu1 f 1 fun a => BitVec.ofNat 32 (popCount a))
/-- R145: a comparison's result in s[dst]. -/
def State.compare (s : State) (f : SFields) (c : Cmp) : State :=
  s.alu2 f 1 fun a b => flagWord (c.holds a b)
/-- R145. -/
def execCmpeq (f : SFields) (s : State) : Out := .next (s.compare f .eq)
/-- R145. -/
def execCmpne (f : SFields) (s : State) : Out := .next (s.compare f .ne)
/-- R145. -/
def execCmplt (f : SFields) (s : State) : Out := .next (s.compare f .lt)
/-- R145. -/
def execCmpltu (f : SFields) (s : State) : Out := .next (s.compare f .ltu)
/-- R145. -/
def execCmple (f : SFields) (s : State) : Out := .next (s.compare f .le)
/-- R145. -/
def execCmpleu (f : SFields) (s : State) : Out := .next (s.compare f .leu)
/-- R145: the condition is age mB of the result queue. -/
def execSel (f : SFields) (s : State) : Out :=
  .next (s.alu2 f 1 fun a b => if s.ctx.rd.t.getD f.mB.toNat 0 = 0 then b else a)
/-- R145. -/
def execMov (f : SFields) (s : State) : Out := .next (s.alu1 f 1 id)

/-! ## Packed (R147 to R150) -/

/-- R149: a lane-by-lane result; `op` takes the lane width and the raw lanes. -/
def packed (f : SFields) (op : Nat → Nat → Nat → Int) (a b : Word) : Word :=
  let wd := laneW f.w
  let rs := List.zipWith (fun x y => intBits wd (op wd x y)) (swzLanes f.w f.mA a) (swzLanes f.w f.mB b)
  BitVec.ofNat 32 (ofLanes wd rs)

/-- R149: saturation to a signed lane. -/
def satS (wd : Nat) (x : Int) : Int := clampInt (-(2 ^ (wd - 1) : Nat)) ((2 ^ (wd - 1) : Nat) - 1) x
/-- R149: saturation to an unsigned lane. -/
def satU (wd : Nat) (x : Int) : Int := clampInt 0 ((2 ^ wd : Nat) - 1) x
/-- The signed reading of both lanes. -/
def onSigned (op : Nat → Int → Int → Int) (wd a b : Nat) : Int := op wd (signedLane wd a) (signedLane wd b)

/-- R149. -/
def execPadd (f : SFields) (s : State) : Out :=
  .next (s.alu2 f 1 (packed f fun _ a b => (a : Int) + b))
/-- R149. -/
def execPsub (f : SFields) (s : State) : Out :=
  .next (s.alu2 f 1 (packed f fun _ a b => (a : Int) - b))
/-- R149. -/
def execPadds (f : SFields) (s : State) : Out :=
  .next (s.alu2 f 1 (packed f (onSigned fun wd a b => satS wd (a + b))))
/-- R149. -/
def execPsubs (f : SFields) (s : State) : Out :=
  .next (s.alu2 f 1 (packed f (onSigned fun wd a b => satS wd (a - b))))
/-- R149. -/
def execPaddsn (f : SFields) (s : State) : Out :=
  .next (s.alu2 f 1 (packed f fun wd a b => satU wd ((a : Int) + b)))
/-- R149. -/
def execPsubsn (f : SFields) (s : State) : Out :=
  .next (s.alu2 f 1 (packed f fun wd a b => satU wd ((a : Int) - b)))
/-- R149: latency 2. -/
def execPmul (f : SFields) (s : State) : Out :=
  .next (s.alu2 f 2 (packed f fun _ a b => (a : Int) * b))
/-- R149: latency 2; the high half of the exact signed product. -/
def execPmulh (f : SFields) (s : State) : Out :=
  .next (s.alu2 f 2 (packed f (onSigned fun wd a b => (a * b) / (2 ^ wd : Nat))))
/-- R149. -/
def execPmin (f : SFields) (s : State) : Out := .next (s.alu2 f 1 (packed f (onSigned fun _ a b => min a b)))
/-- R149. -/
def execPmax (f : SFields) (s : State) : Out := .next (s.alu2 f 1 (packed f (onSigned fun _ a b => max a b)))
/-- R149. -/
def execPabsd (f : SFields) (s : State) : Out :=
  .next (s.alu2 f 1 (packed f (onSigned fun _ a b => ((a - b).natAbs : Int))))
/-- R149: the arithmetic shift rounds down. -/
def execPavg (f : SFields) (s : State) : Out :=
  .next (s.alu2 f 1 (packed f (onSigned fun _ a b => (a + b + 1) / 2)))
/-- R150: the exact sum of signed lane products, modulo 2^32. -/
def pdot (f : SFields) (a b : Word) : Word :=
  let wd := laneW f.w
  BitVec.ofInt 32 ((List.zipWith (fun x y => signedLane wd x * signedLane wd y)
    (swzLanes f.w f.mA a) (swzLanes f.w f.mB b)).sum)
/-- R150: latency 2. -/
def execPdot (f : SFields) (s : State) : Out := .next (s.alu2 f 2 (pdot f))
/-- R150: the double-width lanes of A, then of B, saturated to the result's lanes. -/
def ppack (f : SFields) (a b : Word) : Word :=
  let wd := laneW f.w
  let half := fun (x : Word) => (List.range (laneN f.w / 2)).map fun i =>
    intBits wd (satS wd (signedLane (2 * wd) (lane (2 * wd) x i)))
  BitVec.ofNat 32 (ofLanes wd (half a ++ half b))
/-- R150. -/
def execPpack (f : SFields) (s : State) : Out := .next (s.alu2 f 1 (ppack f))
/-- R150: half the lanes of A, extended to double width. -/
def pwiden (f : SFields) (a : Word) : Word :=
  let wd := laneW f.w
  let h := laneN f.w / 2
  BitVec.ofNat 32 (ofLanes (2 * wd) ((List.range h).map fun i =>
    let x := lane wd a (f.mA.toNat * h + i)
    if f.mB == 0 then intBits (2 * wd) (signedLane wd x) else x))
/-- R150. -/
def execPwiden (f : SFields) (s : State) : Out := .next (s.alu1 f 1 (pwiden f))
/-- R150: lanes of A chosen by log2(n) bits of B each. -/
def pshuf (f : SFields) (a b : Word) : Word :=
  let wd := laneW f.w
  let n := laneN f.w
  let k := Nat.log2 n
  let src := swzLanes f.w f.mA a
  BitVec.ofNat 32 (ofLanes wd ((List.range n).map fun i => src.getD (b.toNat / 2 ^ (k * i) % n) 0))
/-- R150. -/
def execPshuf (f : SFields) (s : State) : Out := .next (s.alu2 f 1 (pshuf f))

/-! ## Immediates and addresses (R151) -/

/-- R151. -/
def execLimm (f : SImm) (s : State) : Out := .next (s.scalarOut f.dst 1 f.imm)
/-- R151: both halves hold imm32[15:0]. -/
def execLimmh (f : SImm) (s : State) : Out :=
  .next (s.scalarOut f.dst 1 (f.imm.extractLsb' 0 16 ++ f.imm.extractLsb' 0 16))
/-- R151. -/
def execAadd (f : SFields) (s : State) : Out :=
  .next (s.addrOut f.dst 1 (s.rdA f.a.toNat + (s.opB f).signExtend 64))
/-- R151. -/
def execAsub (f : SFields) (s : State) : Out :=
  .next (s.addrOut f.dst 1 (s.rdA f.a.toNat - (s.opB f).signExtend 64))
/-- R151. -/
def execAmov (f : SFields) (s : State) : Out := .next (s.addrOut f.dst 1 (s.rdA f.a.toNat))
/-- R151: A is the high word. -/
def execAjoin (f : SFields) (s : State) : Out := .next (s.addrOut f.dst 1 (s.opA f ++ s.opB f))
/-- R151: mA[0] selects the high word. -/
def execAsplit (f : SFields) (s : State) : Out :=
  let x := s.rdA f.a.toNat
  .next (s.scalarOut f.dst 1 (if f.mA.getLsbD 0 then (x >>> 32).setWidth 32 else x.setWidth 32))
/-- R151. -/
def execAimm (f : SImm) (s : State) : Out := .next (s.addrOut f.dst 1 (f.imm.signExtend 64))

/-! ## Floating point (R152) -/

/-- R152: an fp32 result, rounded once to nearest even. -/
def State.fp2 (s : State) (f : SFields) (op : Num → Num → Num) : State :=
  s.alu2 f 3 fun a b => round32 (op (fp32 a) (fp32 b))
/-- R152. -/
def execFadd (f : SFields) (s : State) : Out := .next (s.fp2 f Num.add)
/-- R152. -/
def execFsub (f : SFields) (s : State) : Out := .next (s.fp2 f Num.sub)
/-- R152. -/
def execFmul (f : SFields) (s : State) : Out := .next (s.fp2 f Num.mul)
/-- R152. -/
def execFmin (f : SFields) (s : State) : Out := .next (s.alu2 f 3 (fminmax false))
/-- R152. -/
def execFmax (f : SFields) (s : State) : Out := .next (s.alu2 f 3 (fminmax true))
/-- R152. -/
def execFcmplt (f : SFields) (s : State) : Out :=
  .next (s.alu2 f 3 fun a b => flagWord ((fp32 a).lt (fp32 b)))
/-- R152. -/
def execFcmpeq (f : SFields) (s : State) : Out :=
  .next (s.alu2 f 3 fun a b => flagWord ((fp32 a).eqv (fp32 b)))
/-- R152, R125: one conversion, with the bundle's random word for element 0 under SR. -/
def execFcvt (f : SFields) (s : State) : Out :=
  let src := f.imm.extractLsb' 0 4
  let dst := f.imm.extractLsb' 4 4
  .next (s.alu1 f 3 fun a =>
    putVal dst (f.imm.extractLsb' 8 3) (f.imm.getLsbD 11) (srByte s.ctx.srWord 0) (valOf src a))

/-! ## Control (R153 to R160) -/

/-- R37, R153: the target of a displacement, from the transfer bundle's address. -/
def dispTarget (pc : Addr) (disp : Word) : Addr := pc + (disp.signExtend 64 <<< 1)

/-- R153: a transfer, taken or not; it acts after the delay bundle. -/
def State.transfer (s : State) (taken : Option Addr) : State :=
  (s.upd fun c => { c with after := { c.after with transfer := true, taken } }).ends .done

/-- R153. -/
def execBr (f : SImm) (s : State) : Out := .next (s.transfer (some (dispTarget s.ctx.pc f.imm)))
/-- R153: the test is made at issue. -/
def execBrz (f : SImm) (s : State) : Out :=
  .next (s.transfer (if s.rdS f.dst.toNat = 0 then some (dispTarget s.ctx.pc f.imm) else none))
/-- R153. -/
def execBrnz (f : SImm) (s : State) : Out :=
  .next (s.transfer (if s.rdS f.dst.toNat = 0 then none else some (dispTarget s.ctx.pc f.imm)))
/-- R153: the byte offset of the bundle after the delay bundle at `fall`. -/
def State.linkOf (s : State) : Word := (s.bundleAfter s.cur s.ctx.fall).setWidth 32
/-- R153: the link has latency 1 and enters the queue. -/
def execCall (f : SImm) (s : State) : Out :=
  .next ((s.scalarOut f.dst 1 s.linkOf).transfer (some (dispTarget s.ctx.pc f.imm)))
/-- R153: the target is a byte offset. -/
def execRet (f : SImm) (s : State) : Out :=
  .next (s.transfer (some ((s.rdS f.dst.toNat).setWidth 64)))

/-- R156: loops from a depth on become inactive when their loop starts again. -/
def cancelLoops (ls : Vector LoopRec 8) (id : Nat) : Vector LoopRec 8 :=
  let l := ls.getD id {}
  if l.active then
    ls.map fun x => if l.depth.toNat ≤ x.depth.toNat then { x with active := false } else x
  else ls

/-- R156: a count of 0 leaves for the exit, with one empty cycle and no delay bundle. -/
def execLoop (f : SFields) (s : State) : Out :=
  let id := f.dst.toNat % 8
  let n := s.opA f
  let ls := cancelLoops s.ctx.loops id
  if n = 0 then
    .next ((s.upd fun c => { c with
      loops := ls, after := { c.after with exit := some (c.pc + (f.imm.setWidth 64 <<< 1)) } }).ends .done)
  else
    let l : LoopRec := { depth := BitVec.ofNat 3 (activeLoops ls), active := true
                         start := unitsAddr s.ctx.fall, remain := n }
    .next ((s.upd fun c => { c with loops := ls.setIfInBounds id l, after := { c.after with exit := none } }).ends .done)

/-- R159: SWTRAP; S1 is recorded as done, so that TRET goes on behind it. -/
def execTrap (f : SFields) (s : State) : Out :=
  .next (s.trapCtx s.cur s.slot 0 0x91 (f.imm.setWidth 32) (s.ctx.done ||| 2))

/-- R160: NOTRAP outside a handler; else the bundle's completion returns. -/
def execTret (_f : SFields) (s : State) : Out :=
  if s.ctx.trap.inh then
    .next ((s.upd fun c => { c with after := { c.after with resume := true } }).ends .done)
  else .next (s.trap 0x92 0)

/-! ## System registers and bits (R161 to R165, R475) -/

/-- R161: variable-latency; the register is sampled when the slot commits, so that SPRINTN counts the bundle
itself (DESIGN CHOICE, notes/assumptions/48.md). -/
def execRdsys (f : SFields) (s : State) : Out :=
  let w := s.sysRead s.cur f.sysNum
  let (due, s) := s.laterDue
  .next (s.variable due [.s f.dst.toNat w] (some w))
/-- R161, R403: the register is written at the end of the issue cycle; a write to TADDR or TDONE that is
issued outside the handler is discarded. -/
def State.wrsys (s : State) (f : SFields) : State :=
  if (f.sysNum == 0x11 || f.sysNum == 0x12) && !s.ctx.trap.inh then s.ends .done
  else s.fixed 1 [.sys f.sysNum (s.opA f)]
/-- R161. -/
def execWrsys (f : SFields) (s : State) : Out := .next (s.wrsys f)
/-- R161: TADDR. -/
def execTaddrWrite (f : SFields) (s : State) : Out := .next (s.wrsys f)
/-- R163: MTC at issue. -/
def execRdtime (f : SFields) (s : State) : Out :=
  .next (s.scalarOut f.dst 1 (if f.mA == 1 then (s.mtc >>> 32).setWidth 32 else s.mtc.setWidth 32))
/-- R164: the register file that mA selects. -/
def fileOf (m : BitVec 3) : RegFile :=
  match m.toNat with
  | 0 => .s
  | 1 => .a
  | _ => .v
/-- R164: the bit at issue. On a CCC, which has no vector registers, mA = 2 reads the bit of v0 to v31 that
the model holds, and SETEMPTY clears it (DESIGN CHOICE, notes/assumptions/49.md). -/
def execFetest (f : SFields) (s : State) : Out :=
  .next (s.scalarOut f.dst 1 (flagWord (s.ctx.rd.full (fileOf f.mA) f.a.toNat)))
/-- R165: the bit clears at the end of the issue cycle, after results that land in it. -/
def execSetempty (f : SFields) (s : State) : Out :=
  .next (s.fixed 1 [.empty (fileOf f.mA) f.dst.toNat])

/-- R474, R475: the lap counter that an LAPRD or the debugger names. -/
def Laps.read (l : Laps) (cls bucket n : Nat) : Word :=
  match cls with
  | 0 => (l.fill.getD bucket (Vector.replicate 10 0)).getD n 0
  | 1 => (l.nop.getD bucket (Vector.replicate 10 0)).getD n 0
  | 2 => l.stall.getD n 0
  | _ => l.block.getD n 0
/-- R475: sampled at the slot's commit. -/
def execLaprd (f : SFields) (s : State) : Out :=
  let w := s.ctx.laps.read (f.imm.extractLsb' 12 2).toNat (f.imm.extractLsb' 8 4).toNat
    (f.imm.extractLsb' 0 4).toNat
  let (due, s) := s.laterDue
  .next (s.variable due [.s f.dst.toNat w] (some w))

/-! ## Remote registers (R404) -/

/-- R404: one remote access: the value read, or the context after the write. -/
inductive RemoteResult where
  | read (w : Word)
  | wrote (s : State)
  | gated
  | bad

/-- R404: the register that FILE and NUM name, read or written in a stopped context. -/
def State.remoteReg (s : State) (key file num : Nat) (write : Bool) (data : Word) : RemoteResult :=
  let c := s.ctxAt key
  match file with
  | 0 =>
    if 32 ≤ num then .bad
    else if (s.hdrOf key).gated .s num then .gated
    else if write then .wrote (s.setCtx key { c with bank := c.bank.land (.s num data) })
    else .read (c.bank.s.getD num 0)
  | 1 =>
    if 16 ≤ num then .bad
    else
      let x := c.bank.a.getD num 0
      if write then
        .wrote (s.setCtx key { c with bank := c.bank.land (.a num (x.extractLsb' 32 32 ++ data)) })
      else .read (x.setWidth 32)
  | 2 =>
    if 16 ≤ num then .bad
    else
      let x := c.bank.a.getD num 0
      if write then
        .wrote (s.setCtx key { c with bank := c.bank.land (.a num (data ++ x.extractLsb' 0 32)) })
      else .read ((x >>> 32).setWidth 32)
  | _ =>
    if 0x100 ≤ num then .bad
    else if write then
      if num == 0x11 || num == 0x12 then .wrote (s.sysWrite key num data) else .bad
    else if sysReadable num then .read (s.sysRead key num) else .bad

/-- R404: the outcome of a write of `w` to RTGT by a CCC of cluster `cl`. -/
def State.remoteAccess (s : State) (cl : Nat) (w : Word) : State :=
  let core := (w.extractLsb' 0 4).toNat
  let key := 8 * unitNo cl core + (w.extractLsb' 4 3).toNat
  let write := w.getLsbD 31
  let stat (s : State) (v : Word) := s.updCluster cl fun k => { k with rstat := v }
  if w.extractLsb' 21 10 != 0 || 8 ≤ core then stat s 3
  else
    match s.remoteReg key (w.extractLsb' 7 2).toNat (w.extractLsb' 9 12).toNat write
        (s.clusterAt cl).rdata with
    | .bad => stat s 3
    | r =>
      if (s.ctxAt key).st != .stopped then stat s 1
      else match r with
        | .gated => stat (if write then s else s.updCluster cl fun k => { k with rdata := 0 }) 2
        | .read v => stat (s.updCluster cl fun k => { k with rdata := v }) 0
        | .wrote s' => stat s' 0
        | .bad => stat s 3

/-- R404, R55: the access completes before the context's next bundle issues, two cycles later when
the target's bank is drowsy. -/
def execRtgtWrite (f : SFields) (s : State) : Out :=
  let w := s.opA f
  let key := 8 * unitNo s.cluster (w.extractLsb' 0 4).toNat + (w.extractLsb' 4 3).toNat
  let slow := Nat.ble (w.extractLsb' 0 4).toNat 7 && (s.ctxAt key).drowsy
  let s := s.remoteAccess s.cluster w
  let s := if slow then
      (s.updCtx key fun c => { c with drowsy := false }).upd fun c => { c with nextIssue := s.cycle + 3 }
    else s
  .next (s.ends .done)

end Sys2Proof.Machine
end

