-- ==== Sys2Proof/Machine/Vector.lean ====
section
/-! DEFINITION. The run vector engine: the V slot but for its accumulator accesses (R166 to R191). -/

namespace Sys2Proof.Machine

/-! ## Run vectors (R166, R168) -/

/-- R166: the logical length. -/
def RunVec.len (v : RunVec) : Nat := (v.map Prod.snd).sum

/-- R166: the value field of an element; past the end, that of the last entry (R177). -/
def RunVec.elem : RunVec → Nat → Word
  | [], _ => 0
  | [(w, _)], _ => w
  | (w, n) :: rest, i => if i < n then w else RunVec.elem rest (i - n)

/-- R168: the positions at which an entry ends and the next begins, from a position on. -/
def RunVec.boundsFrom : Nat → RunVec → List Nat
  | _, [] => []
  | _, [_] => []
  | p, (_, n) :: rest => (p + n) :: RunVec.boundsFrom (p + n) rest

/-- R168. -/
def RunVec.bounds (v : RunVec) : List Nat := RunVec.boundsFrom 0 v

/-- R177: the last entry lengthened until the register has length `l`. -/
def RunVec.extend (v : RunVec) (l : Nat) : RunVec :=
  let short := l - RunVec.len v
  match v.reverse with
  | [] => []
  | (w, n) :: rest => (((w, n + short) :: rest).reverse)

/-- R185, R224: adjacent equal entries merged. -/
def RunVec.coalesce : RunVec → RunVec
  | [] => []
  | (w, n) :: rest =>
    match RunVec.coalesce rest with
    | (w', n') :: rest' => if w = w' then (w, n + n') :: rest' else (w, n) :: (w', n') :: rest'
    | [] => [(w, n)]

/-- R224: the run form of a list of elements. -/
def coalesceWords (ws : List Word) : RunVec := RunVec.coalesce (ws.map (·, 1))

/-- R166: the elements of a register, in order. -/
def RunVec.elems (v : RunVec) : List Word := v.flatMap fun (w, n) => List.replicate n w

/-- R190: the first `n` elements, the entries cut at `n`. -/
def RunVec.cut : RunVec → Nat → RunVec
  | [], _ => []
  | (w, k) :: rest, n => if n = 0 then [] else if n ≤ k then [(w, n)] else (w, k) :: RunVec.cut rest (n - k)

/-- R190: the elements from `n` on. -/
def RunVec.skip : RunVec → Nat → RunVec
  | [], _ => []
  | (w, k) :: rest, n => if n = 0 then (w, k) :: rest else if n < k then (w, k - n) :: rest
    else RunVec.skip rest (n - k)

/-! ## Long vectors and segments (R169, R176, R177) -/

/-- R169: the group size under a predicate field: 1 for q0. -/
def State.groupOf (s : State) (q : BitVec 3) : Nat :=
  if q == 0 then 1 else max 1 (s.rdQ q.toNat).group.toNat

/-- R169: the members of an operand. -/
def State.members (s : State) (base g : Nat) : List RunVec := (List.range g).map fun k => s.rdV (base + k)

/-- R177: the operation length, or the shortest and longest of lengths that differ. -/
def opLength (ext : Bool) (lens : List Nat) (vl : Nat) : Except (Nat × Nat) Nat :=
  match lens with
  | [] => .ok vl
  | l :: rest =>
    if rest.all (· == l) then .ok l
    else
      let hi := rest.foldl max l
      if ext then .ok hi else .error (rest.foldl min l, hi)

/-- R169, R177: members of common length, as one list of entries. -/
def longOf (l : Nat) (ms : List RunVec) : RunVec := ms.flatMap fun m => RunVec.extend m l

/-- Inserts a point into a rising list, once. -/
def insertPoint (p : Nat) : List Nat → List Nat
  | [] => [p]
  | x :: xs => if p < x then p :: x :: xs else if p = x then x :: xs else x :: insertPoint p xs

/-- The points strictly between two bounds. -/
def within (lo hi : Nat) (ps : List Nat) : List Nat := ps.filter fun p => decide (lo < p) && decide (p < hi)

/-- R176: the starts of the aligned segments: 0, the sources' boundaries in the active part, the old
destination's boundaries behind it, the end of the active part, and the members' boundaries. -/
def segStarts (active total l g : Nat) (src old : List Nat) : List Nat :=
  (within 0 active src ++ within active total old ++ within 0 total [active]
    ++ (List.range g).map (· * l)).foldl (fun acc p => insertPoint p acc) [0]

/-- R176: the segments as (start, length). -/
def segments (total : Nat) : List Nat → List (Nat × Nat)
  | [] => []
  | [p] => [(p, total - p)]
  | p :: q :: rest => (p, q - p) :: segments total (q :: rest)

/-- R176: the members of a result from its segments' values. -/
def buildMembers (g l : Nat) (segs : List (Nat × Word × Nat)) : List RunVec :=
  (List.range g).map fun k => segs.filterMap fun (p, w, n) => if p / l = k then some (w, n) else none

/-- R176: the entries of the first member that would need more than 128. -/
def overflowOf (ms : List RunVec) : Option Nat := (ms.find? fun m => decide (128 < m.length)).map List.length

/-! ## Outcomes of a V slot (R173, R174, R195) -/

/-- R195: LENMIS. -/
def State.lenmis (s : State) (a b : Nat) : State :=
  s.trap 0x22 (BitVec.ofNat 32 (min a 2047 + min b 2047 * 65536))
/-- R195: RUNOVF. -/
def State.runovf (s : State) (n : Nat) : State := s.trap 0x21 (BitVec.ofNat 32 n)

/-- R169: the predicate's width differs from the type's. -/
def State.widthBad (s : State) (q : BitVec 3) (t : BitVec 4) : Bool :=
  q != 0 && (s.rdQ q.toNat).width != widthCode (tyWidth t)
/-- R195: QWIDTH. -/
def State.qwidth (s : State) (q : BitVec 3) (t : BitVec 4) : State :=
  s.trap 0x23 (((widthCode (tyWidth t)).setWidth 32 <<< 2) + (s.rdQ q.toNat).width.setWidth 32)

/-- R174: a V result with work `e`: the pipe is busy, and the result is seen no earlier than the
precheck ends. -/
def State.vectorOut (s : State) (vals : List RegVal) (e : Nat) : State :=
  let busy := s.ctx.issueAt + (e + 31) / 32
  let due := max (s.ctx.issueAt + 2 + (e + 31) / 32) (s.ctx.issueAt + s.ctx.preK)
  (s.updUnit s.unit fun x => { x with vBusy := x.vBusy.setIfInBounds (s.slot - 2) busy }).variable due vals

/-- R171, R176: writes a group of vector registers, or raises RUNOVF. -/
def State.groupOut (s : State) (vd : Nat) (ms : List RunVec) : State :=
  match overflowOf ms with
  | some n => s.runovf n
  | none =>
    s.vectorOut ((List.range ms.length).map fun k => .v (vd + k) (ms.getD k [])) ((ms.map List.length).sum)

/-! ## Operands of a V slot (R36, R39, R178) -/

/-- R39: imm as sc reads it. -/
def immV (f : VFields) : Word := f.imm.signExtend 32
/-- The scalar operand. -/
def State.opSc (s : State) (f : VFields) : Word := s.spec f.sc (immV f)

/-- R176: an operation's vectors once their lengths agree: group, length, active count, and the long
forms of va, vb and the old vd. -/
structure VEnv where
  g : Nat
  l : Nat
  active : Nat
  xs : RunVec
  ys : RunVec
  ds : RunVec

/-- R169, R177: the active count of a long vector. -/
def State.activeOf (s : State) (q : BitVec 3) (total : Nat) : Nat :=
  if q == 0 then total else min (s.rdQ q.toNat).active.toNat total

/-- R177: the environment of an operation that reads va, vb and vd as told; `useD` says that vd is
read under q0 too. -/
def State.vEnv (s : State) (f : VFields) (useA useB useD : Bool) : Except (Nat × Nat) VEnv :=
  let g := s.groupOf f.q
  let readD := useD || f.q != 0
  let as := if useA then s.members f.va.toNat g else []
  let bs := if useB then s.members f.vb.toNat g else []
  let ds := if readD then s.members f.vd.toNat g else []
  match opLength f.ext ((as ++ bs ++ ds).map RunVec.len) s.launch.hdr.vl with
  | .error e => .error e
  | .ok l =>
    .ok { g, l, active := s.activeOf f.q (g * l), xs := longOf l as
          ys := if useB then longOf l bs else [(s.opSc f, g * l)], ds := longOf l ds }

/-- R176: an operation that computes element by element. `src` gives the boundaries it takes from its
sources, `val` an active element's value field. -/
def State.elementwise (s : State) (f : VFields) (useA useB useD : Bool) (src : VEnv → List Nat)
    (val : VEnv → Nat → Word) : State :=
  if s.widthBad f.q f.ty then s.qwidth f.q f.ty
  else match s.vEnv f useA useB useD with
    | .error (a, b) => s.lenmis a b
    | .ok e =>
      let total := e.g * e.l
      let old := if f.q != 0 then RunVec.bounds e.ds else []
      let starts := segStarts e.active total e.l e.g (src e) old
      let segs := (segments total starts).map fun (p, n) =>
        (p, if p < e.active then val e p else RunVec.elem e.ds p, n)
      s.groupOut f.vd.toNat (buildMembers e.g e.l segs)

/-- R176: a function of the elements of va and of vb or sc. -/
def State.vec2 (s : State) (f : VFields) (op : Word → Word → Word) : State :=
  s.elementwise f true (!f.bcast) false
    (fun e => RunVec.bounds e.xs ++ (if f.bcast then [] else RunVec.bounds e.ys))
    fun e p => norm f.ty (op (RunVec.elem e.xs p) (RunVec.elem e.ys p))

/-- R176: a function of the elements of va. -/
def State.vec1 (s : State) (f : VFields) (op : Word → Word) : State :=
  s.elementwise f true false false (fun e => RunVec.bounds e.xs) fun e p =>
    norm f.ty (op (RunVec.elem e.xs p))

/-! ## Element operations (R180 to R183) -/

/-- The integer value of an element of an integer type. -/
def intOf (t : BitVec 4) (w : Word) : Int := if tySigned t then (norm t w).toInt else ((norm t w).toNat : Int)

/-- R180: an integer result: modulo 2^W, or saturated. -/
def intOut (t : BitVec 4) (sat : Bool) (x : Int) : Word :=
  let y := if sat then clampInt (intRange t).1 (intRange t).2 x else x
  BitVec.ofNat 32 (intBits (tyWidth t) y)

/-- R180: a float result, rounded once. -/
def floatOut (t : BitVec 4) (sat : Bool) (x : Num) : Word := BitVec.ofNat 32 (roundTo t 0 sat 0 x)

/-- R180: an arithmetic operation given on exact numbers and on integers. -/
def arith2 (t : BitVec 4) (sat : Bool) (fl : Num → Num → Num) (i : Int → Int → Int) (a b : Word) : Word :=
  if tyIsInt t then intOut t sat (i (intOf t a) (intOf t b))
  else floatOut t sat (fl (valOf t a) (valOf t b))

/-- R152, R180: the smaller or larger element of a type. -/
def minmaxOf (t : BitVec 4) (wantMax : Bool) (a b : Word) : Word :=
  if tyIsInt t then
    if decide (intOf t a ≤ intOf t b) != wantMax then a else b
  else
    let x := valOf t a
    let y := valOf t b
    if x.isNan && y.isNan then BitVec.ofNat 32 (nanBits t)
    else if x.isNan then b
    else if y.isNan then a
    else
      let aLess := x.lt y || (x.eqv y && x.isNeg && !y.isNeg)
      if aLess != wantMax then a else b

/-- The sign bit of an element. -/
def signMask (t : BitVec 4) : Word := BitVec.ofNat 32 (2 ^ (tyWidth t - 1))

/-- R180. -/
def vabsOf (t : BitVec 4) (sat : Bool) (a : Word) : Word :=
  if tyIsInt t then intOut t sat ((intOf t a).natAbs : Int) else a &&& ~~~(signMask t)
/-- R180. -/
def vnegOf (t : BitVec 4) (sat : Bool) (a : Word) : Word :=
  if tyIsInt t then intOut t sat (-(intOf t a)) else a ^^^ signMask t

/-- R181: the low W bits of an element. -/
def rawOf (t : BitVec 4) (a : Word) : Nat := a.toNat % 2 ^ tyWidth t
/-- R181: the shift amount in b. -/
def vshAmt (t : BitVec 4) (b : Word) : Nat := b.toNat % tyWidth t

/-- R182: a comparison of elements. -/
def vcmpOf (t : BitVec 4) (fl : Num → Num → Bool) (i : Int → Int → Bool) (a b : Word) : Bool :=
  if tyIsInt t then i (intOf t a) (intOf t b) else fl (valOf t a) (valOf t b)

/-- R182: 1 or 0 in each active element, whatever the type. -/
def State.vcompare (s : State) (f : VFields) (fl : Num → Num → Bool) (i : Int → Int → Bool) : State :=
  s.elementwise f true (!f.bcast) false
    (fun e => RunVec.bounds e.xs ++ (if f.bcast then [] else RunVec.bounds e.ys))
    fun e p => flagWord (vcmpOf f.ty fl i (RunVec.elem e.xs p) (RunVec.elem e.ys p))

/-- R180. -/
def execVadd (f : VFields) (s : State) : Out := .next (s.vec2 f (arith2 f.ty f.m2 Num.add (· + ·)))
/-- R180. -/
def execVsub (f : VFields) (s : State) : Out := .next (s.vec2 f (arith2 f.ty f.m2 Num.sub (· - ·)))
/-- R180. -/
def execVmul (f : VFields) (s : State) : Out := .next (s.vec2 f (arith2 f.ty f.m2 Num.mul (· * ·)))
/-- R180: a * b + d, rounded once. -/
def vfmaOf (t : BitVec 4) (sat : Bool) (a b d : Word) : Word :=
  if tyIsInt t then intOut t sat (intOf t a * intOf t b + intOf t d)
  else floatOut t sat (((valOf t a).mul (valOf t b)).add (valOf t d))
/-- R180. -/
def execVfma (f : VFields) (s : State) : Out :=
  .next (s.elementwise f true (!f.bcast) true
    (fun e => RunVec.bounds e.xs ++ (if f.bcast then [] else RunVec.bounds e.ys) ++ RunVec.bounds e.ds)
    fun e p => norm f.ty (vfmaOf f.ty f.m2 (RunVec.elem e.xs p) (RunVec.elem e.ys p) (RunVec.elem e.ds p)))
/-- R180. -/
def execVmin (f : VFields) (s : State) : Out := .next (s.vec2 f (minmaxOf f.ty false))
/-- R180. -/
def execVmax (f : VFields) (s : State) : Out := .next (s.vec2 f (minmaxOf f.ty true))
/-- R180. -/
def execVabs (f : VFields) (s : State) : Out := .next (s.vec1 f (vabsOf f.ty f.m2))
/-- R180. -/
def execVneg (f : VFields) (s : State) : Out := .next (s.vec1 f (vnegOf f.ty f.m2))
/-- R181. -/
def execVand (f : VFields) (s : State) : Out := .next (s.vec2 f (· &&& ·))
/-- R181. -/
def execVor (f : VFields) (s : State) : Out := .next (s.vec2 f (· ||| ·))
/-- R181. -/
def execVxor (f : VFields) (s : State) : Out := .next (s.vec2 f (· ^^^ ·))
/-- R181. -/
def execVshl (f : VFields) (s : State) : Out := .next (s.vec2 f fun a b => a <<< vshAmt f.ty b)
/-- R181. -/
def execVshr (f : VFields) (s : State) : Out :=
  .next (s.vec2 f fun a b => BitVec.ofNat 32 (rawOf f.ty a / 2 ^ vshAmt f.ty b))
/-- R181: copies of bit W - 1. -/
def vsraOf (t : BitVec 4) (a b : Word) : Word :=
  BitVec.ofNat 32 (intBits (tyWidth t) (signedLane (tyWidth t) (rawOf t a) / (2 ^ vshAmt t b : Nat)))
/-- R181. -/
def execVsra (f : VFields) (s : State) : Out := .next (s.vec2 f (vsraOf f.ty))
/-- R182. -/
def execVcmpeq (f : VFields) (s : State) : Out := .next (s.vcompare f Num.eqv (· == ·))
/-- R182. -/
def execVcmplt (f : VFields) (s : State) : Out :=
  .next (s.vcompare f Num.lt fun a b => decide (a < b))
/-- R182. -/
def execVcmple (f : VFields) (s : State) : Out :=
  .next (s.vcompare f Num.le fun a b => decide (a ≤ b))
/-- R183: b where a is non-zero, else the old element. -/
def execVsel (f : VFields) (s : State) : Out :=
  .next (s.elementwise f true (!f.bcast) true
    (fun e => RunVec.bounds e.xs ++ (if f.bcast then [] else RunVec.bounds e.ys) ++ RunVec.bounds e.ds)
    fun e p => if rawOf f.ty (RunVec.elem e.xs p) = 0 then RunVec.elem e.ds p
      else norm f.ty (RunVec.elem e.ys p))

/-! ## Reductions (R184) -/

/-- R184: the entries of a long vector with the number of their elements below `a`. -/
def activeEntries : Nat → RunVec → List (Word × Nat)
  | _, [] => []
  | a, (w, n) :: rest => if a = 0 then [] else (w, min n a) :: activeEntries (a - min n a) rest

/-- R184: a reduction of the active entries into s[vd]. -/
def State.reduce (s : State) (f : VFields) (fold : Word → List (Word × Nat) → Word) : State :=
  if s.widthBad f.q f.ty then s.qwidth f.q f.ty
  else
    let g := s.groupOf f.q
    let ms := s.members f.va.toNat g
    match opLength false (ms.map RunVec.len) s.launch.hdr.vl with
    | .error (a, b) => s.lenmis a b
    | .ok l =>
      let xs := longOf l ms
      s.vectorOut [.s f.vd.toNat (fold (s.opSc f) (activeEntries (s.activeOf f.q (g * l)) xs))] xs.length

/-- R184: VRSUM. -/
def vrsumOf (t : BitVec 4) (sat : Bool) (init : Word) (es : List (Word × Nat)) : Word :=
  if tyIsInt t then
    let total := es.foldl (fun acc (w, n) => acc + intOf t w * (n : Int))
      (if tySigned t then init.toInt else (init.toNat : Int))
    let wide : BitVec 4 := if tySigned t then 6 else 10
    if es.isEmpty then init else intOut wide sat total
  else es.foldl (fun acc (w, n) =>
    BitVec.ofNat 32 (roundTo 0 0 sat 0 ((fp32 acc).add ((valOf t w).mul (.ofInt n))))) init
/-- R184: VRMAX and VRMIN. -/
def vrmaxOf (t : BitVec 4) (wantMax : Bool) (init : Word) (es : List (Word × Nat)) : Word :=
  if tyIsInt t then
    es.foldl (fun acc (w, _) => minmaxOf (if tySigned t then 6 else 10) wantMax acc (norm t w)) init
  else es.foldl (fun acc (w, _) => fminmax wantMax acc (round32 (valOf t w))) init
/-- R184: VRCNT. -/
def vrcntOf (t : BitVec 4) (init : Word) (es : List (Word × Nat)) : Word :=
  es.foldl (fun acc (w, n) => if rawOf t w = 0 then acc else acc + BitVec.ofNat 32 n) init

/-- R184. -/
def execVrsum (f : VFields) (s : State) : Out := .next (s.reduce f (vrsumOf f.ty f.m2))
/-- R184. -/
def execVrmax (f : VFields) (s : State) : Out := .next (s.reduce f (vrmaxOf f.ty true))
/-- R184. -/
def execVrmin (f : VFields) (s : State) : Out := .next (s.reduce f (vrmaxOf f.ty false))
/-- R184. -/
def execVrcnt (f : VFields) (s : State) : Out := .next (s.reduce f (vrcntOf f.ty))

/-! ## Runs and elements (R185 to R190) -/

/-- R185. -/
def execVcoal (f : VFields) (s : State) : Out :=
  .next (s.groupOut f.vd.toNat [RunVec.coalesce (s.rdV f.va.toNat)])
/-- R185. -/
def execVruns (f : VFields) (s : State) : Out :=
  let v := s.rdV f.va.toNat
  .next (s.vectorOut [.s f.vd.toNat (BitVec.ofNat 32 v.length)] v.length)
/-- R185. -/
def execVlen (f : VFields) (s : State) : Out :=
  let v := s.rdV f.va.toNat
  .next (s.vectorOut [.s f.vd.toNat (BitVec.ofNat 32 (RunVec.len v))] v.length)
/-- R186. -/
def execVsplat (f : VFields) (s : State) : Out :=
  .next (s.elementwise f false false false (fun _ => []) fun _ _ => norm f.ty (s.opSc f))
/-- R186. -/
def execVmov (f : VFields) (s : State) : Out := .next (s.vec1 f id)

/-- R186: the entries numbered from a base by their starts. -/
def iotaFrom (t : BitVec 4) (base : Word) : Nat → RunVec → RunVec
  | _, [] => []
  | p, (_, n) :: rest => (norm t (base + BitVec.ofNat 32 p), n) :: iotaFrom t base (p + n) rest
/-- R186. -/
def execViota (f : VFields) (s : State) : Out :=
  .next (s.groupOut f.vd.toNat [iotaFrom f.ty (s.opSc f) 0 (s.rdV f.va.toNat)])

/-- R186: positions shifted by k. -/
def shiftPoints (k : Int) (ps : List Nat) : List Nat :=
  ps.filterMap fun (p : Nat) => let q := (p : Int) + k; if q < 0 then none else some q.toNat
/-- R186: element i of a long vector of length n slid by k. -/
def slideElem (t : BitVec 4) (edge : Bool) (xs : RunVec) (n : Nat) (k : Int) (i : Nat) : Word :=
  let j := (i : Int) - k
  if 0 ≤ j && j < n then norm t (RunVec.elem xs j.toNat)
  else if !edge then norm t 0
  else norm t (RunVec.elem xs (if j < 0 then 0 else n - 1))
/-- R186: with `.e` (m[2]) the end elements fill in. -/
def execVslide (f : VFields) (s : State) : Out :=
  let k := (s.opSc f).toInt
  .next (s.elementwise f true false false
    (fun e => shiftPoints k (0 :: e.g * e.l :: RunVec.bounds e.xs))
    fun e p => slideElem f.ty f.m2 e.xs (e.g * e.l) k p)

/-- R187: the running values of a list of elements: next running value and output. -/
def scanWith {σ : Type} (next : σ → Word → σ) (out : σ → Word) : σ → List Word → List Word
  | _, [] => []
  | acc, w :: ws => let acc' := next acc w; out acc' :: scanWith next out acc' ws
/-- R187: the outputs over the active elements. -/
def scanOutputs (t : BitVec 4) (wantMax : Bool) (ws : List Word) : List Word :=
  if wantMax then
    scanWith (fun (acc : Option Word) w => match acc with
      | none => some w
      | some a => some (minmaxOf t true a w)) (fun acc => norm t (acc.getD 0)) none ws
  else if tyIsInt t then
    scanWith (fun (acc : Int) w => acc + intOf t w) (fun acc => norm t (intOut t false acc)) 0 ws
  else
    scanWith (fun (acc : Word) w => round32 ((fp32 acc).add (valOf t w)))
      (fun acc => norm t (floatOut t false (fp32 acc))) 0x80000000 ws
/-- R187: the stretches of equal outputs within a segment. -/
def scanStretches (p : Nat) (ws : List Word) : List (Nat × Word × Nat) :=
  ((coalesceWords ws).foldl (fun (acc : Nat × List (Nat × Word × Nat)) (e : Word × Nat) =>
    (acc.1 + e.2, acc.2 ++ [(acc.1, e.1, e.2)])) (p, [])).2
/-- R187: VSCAN, with `.max` in m[2]. -/
def execVscan (f : VFields) (s : State) : Out :=
  if s.widthBad f.q f.ty then .next (s.qwidth f.q f.ty)
  else match s.vEnv f true false false with
    | .error (a, b) => .next (s.lenmis a b)
    | .ok e =>
      let total := e.g * e.l
      let old := if f.q != 0 then RunVec.bounds e.ds else []
      let starts := segStarts e.active total e.l e.g (RunVec.bounds e.xs) old
      let outs := scanOutputs f.ty f.m2 ((RunVec.elems e.xs).take e.active)
      let segs := (segments total starts).flatMap fun (p, n) =>
        if p < e.active then scanStretches p ((outs.drop p).take n) else [(p, RunVec.elem e.ds p, n)]
      .next (s.groupOut f.vd.toNat (buildMembers e.g e.l segs))

/-- R188. -/
def execVext (f : VFields) (s : State) : Out :=
  let v := s.rdV f.va.toNat
  let i := (s.opSc f).toNat
  if RunVec.len v ≤ i then .next (s.lenmis (RunVec.len v) i)
  else .next (s.vectorOut [.s f.vd.toNat (norm f.ty (RunVec.elem v i))] v.length)

/-- R189: one element replaced, or appended at the end. -/
def RunVec.insertAt (v : RunVec) (k : Nat) (w : Word) : RunVec :=
  RunVec.cut v k ++ [(w, 1)] ++ RunVec.skip v (k + 1)
/-- R189. -/
def execVins (f : VFields) (s : State) : Out :=
  let p := s.rdQ f.q.toNat
  let v := s.rdV f.vd.toNat
  let k := p.active.toNat
  let n := RunVec.len v
  if s.widthBad f.q f.ty then .next (s.qwidth f.q f.ty)
  else if p.group != 1 || n < k || (k == n && s.launch.hdr.vl ≤ n) then .next (s.lenmis n k)
  else .next (s.groupOut f.vd.toNat [RunVec.insertAt v k (norm f.ty (s.opSc f))])

/-- R190. -/
def execVtrim (f : VFields) (s : State) : Out :=
  let v := s.rdV f.va.toNat
  let n := (s.opSc f).toNat
  let len := RunVec.len v
  if n = 0 || s.launch.hdr.vl < n || (len < n && !f.ext) then .next (s.lenmis len n)
  else .next (s.groupOut f.vd.toNat [RunVec.cut (RunVec.extend v n) n])

/-! ## Predicates (R191) -/

/-- R178: the group in imm[2:0]. -/
def groupImm (f : VFields) : BitVec 3 := f.imm.extractLsb' 0 3
/-- R191. -/
def execQset (f : VFields) (s : State) : Out :=
  let p : Pred := { active := BitVec.ofNat 13 (min (s.opSc f).toNat 6144)
                    width := widthCode (tyWidth f.ty), group := (groupImm f) }
  .next (s.vectorOut [.q f.vd.toNat p] 0)
/-- R191: the leading elements whose low W bits are non-zero. -/
def leadingNonzero (t : BitVec 4) : RunVec → Nat
  | [] => 0
  | (w, n) :: rest => if rawOf t w = 0 then 0 else n + leadingNonzero t rest
/-- R191: the members' lengths must be equal. -/
def execQfromv (f : VFields) (s : State) : Out :=
  let ms := s.members f.va.toNat (groupImm f).toNat
  match opLength false (ms.map RunVec.len) s.launch.hdr.vl with
  | .error (a, b) => .next (s.lenmis a b)
  | .ok l =>
    let xs := longOf l ms
    let p : Pred := { active := BitVec.ofNat 13 (leadingNonzero f.ty xs)
                      width := widthCode (tyWidth f.ty), group := (groupImm f) }
    .next (s.vectorOut [.q f.vd.toNat p] xs.length)
/-- R191: q0 as a source reads as 6,144 active elements of width 32, group 1. -/
def State.predSource (s : State) (q : BitVec 3) : Pred :=
  if q == 0 then { active := 6144, width := 3, group := 1 } else s.rdQ q.toNat
/-- R191. -/
def execQmin (f : VFields) (s : State) : Out :=
  let p := s.predSource f.q
  .next (s.vectorOut
    [.q f.vd.toNat { p with active := BitVec.ofNat 13 (min p.active.toNat (s.opSc f).toNat) }] 0)
/-- R191. -/
def execQget (f : VFields) (s : State) : Out :=
  .next (s.vectorOut [.s f.vd.toNat (s.predSource f.q).word] 0)

end Sys2Proof.Machine
end

