-- ==== Sys2Proof/Machine/LoadStore.lean ====
section
/-! DEFINITION. The load/store engine: the L slot, descriptor loads and stores, and the memory events
(R96 to R98, R214 to R238, R271). The two L slots of a bundle are admitted independently (R218; log entry
6). -/

namespace Sys2Proof.Machine

/-! ## Addresses and admission (R214, R216, R217) -/

/-- R214: the effective address of an access unit. -/
def State.effAddr (s : State) (f : LFields) (u : Nat) : Nat :=
  (s.rdA f.base.toNat + f.off.signExtend 64 * BitVec.ofNat 64 u).toNat

/-- The acting slot's access, if it is on its way. -/
def State.acc (s : State) : Option Access := s.ctx.accs.find? (·.slot == s.slot)
/-- Changes an access of a context. -/
def State.updAcc (s : State) (key slot : Nat) (f : Access → Access) : State :=
  s.updCtx key fun c => { c with accs := modifyFirst (·.slot == slot) f c.accs }
/-- Drops the acting slot's access. -/
def State.dropAcc (s : State) : State := s.upd fun c => { c with accs := c.accs.filter (·.slot != s.slot) }

/-- R83: an access that parks, or has the task parked, at a page. -/
def Access.parks (a : Access) : Bool :=
  match a.st with
  | .page _ .park => true
  | .page _ .parkNoMap => true
  | _ => false

/-- R83: a core with fewer than 8 tasks that are parked or about to be parks; a CCC waits in place (R78). -/
def State.mayPark (s : State) (key : Nat) : Bool :=
  let u := unitOf key
  !isCcc u && (s.unitAt u).parked.length + ((keysOf u).filter fun k => (s.ctxAt k).accs.any Access.parks).length < 8

/-- R426: a result that the latch bank takes: of a scalar or address register, with its latency running, and
tied to no scoreboard slot, whose count a save waits for (R99; log entry 54). -/
def Pending.latchable (p : Pending) : Bool :=
  p.fixed && p.sb.isNone && p.vals.all fun v => match v with
    | .s _ _ => true
    | .a _ _ => true
    | .v _ _ => false
    | .q _ _ => false
    | .d _ _ => false
    | .empty _ _ => false
    | .sys _ _ => false

/-- R425, R428: fixed-latency results in flight move into the latch bank, with the cycles still to run. -/
def Ctx.freeze (c : Ctx) (cycle : Nat) : Ctx :=
  { c with latches := (c.latches.map fun l => if l.after == 0 then { l with after := l.pend.due - cycle } else l)
             ++ (c.pend.filter Pending.latchable).map fun p => { after := p.due - cycle, pend := p }
           pend := c.pend.filter fun p => !p.latchable }

/-- R427: the latched results run on from the first cycle in which the context may issue. -/
def Ctx.thaw (c : Ctx) (cycle : Nat) : Ctx :=
  { c with latches := c.latches.map fun l =>
      if l.after == 0 then l else { after := 0, pend := { l.pend with due := cycle + l.after } } }

/-- R83: a slot has come to a page that is not present: the task parks, or waits in place. -/
def State.chooseWay (s : State) (key slot : Nat) : State :=
  match (s.ctxAt key).accs.find? (·.slot == slot) with
  | some { st := .page va .undecided, .. } =>
    let way : PageWay := if s.mayPark key then .park else .inPlace
    let s := if way == .park then s.updCtx key fun c => c.freeze s.cycle else s
    s.updAcc key slot fun a => { a with st := .page va way }
  | _ => s

/-- R219: a fault of an L slot is delivered; a deferred one leaves its record (R303). -/
def State.memFault (s : State) (cause : Nat) (code : Word) (addr : Nat) (words : List Word := []) : State :=
  if cause == 0x33 || cause == 0x95 then s.dropAcc.fatalHere cause
  else
    let s := if words.isEmpty then s
      else s.upd fun c => { c with deferRec := Vector.ofFn fun i => words.getD i.val 0 }
    s.trap cause code (some (ad addr))

/-- R83, R218, R238: the acting slot, which the memory side has not taken in, meets a page that is not present: it
parks or waits in place, and its admission begins again once the page is present. -/
def State.pageHold (s : State) (va : Nat) : State :=
  let a : Access := { slot := s.slot, kind := .tagq, va := ad va, size := 1, st := .page (ad va) .undecided }
  let s := (s.reportPage (s.partyOf s.cur).session va 0).traceTrap s.cur s.slot 0x3F 0
  ((s.upd fun c => { c with accs := c.accs ++ [a] }).chooseWay s.cur s.slot).blockFor 4 (.admission s.slot)

/-- R217, R218: waits for the memory side. -/
def State.awaitAdmission (s : State) : State := s.stallFor 4 (.admission s.slot)

/-- R218: a slot comes to its access and finds it queued, or at a missing page: it blocks at once. -/
def State.arriveBlocked (s : State) : State :=
  if s.ctx.wait.any (·.slot == s.slot) then s.awaitAdmission else s.blockFor 4 (.admission s.slot)

/-- R217: the parts of an access that the memory side must take in: those that hit no L1. -/
def State.toOwner (s : State) (kind : AccessKind) (ps : List (Nat × Nat)) : List (Nat × Nat) :=
  let u := s.unit
  ps.filter fun p =>
    match s.l1Find u p.1 with
    | none => true
    | some l => kind == .atomic || kind == .tagq || kind == .peek || (kind == .store && l.readOnly)

/-- How the checks treat a kind of access of the acting context. -/
def State.accMode (s : State) (key : Nat) (kind : AccessKind) : Mode :=
  { write := kind == .store || kind == .atomic, atomic := kind == .atomic
    peek := kind == .tagq || kind == .peek, noData := kind == .tagq, guardTrap := (s.hdrOf key).flags.getLsbD 3 }

/-- R219: the memory side's answer to an access of a context; parts that hit the L1 meet guards only. -/
def State.accVerdict (s : State) (key : Nat) (kind : AccessKind) (va n : Nat) : Verdict' :=
  let p := s.partyOf key
  let m := s.accMode key kind
  let ps := pieces va n
  match s.verdict p m ({ s with cur := key }.toOwner kind ps) with
  | .ok => s.guardVerdict p m ps
  | v => v

/-- R217, R238: starts an access, and decides at once one that only windows and L1 hits serve. -/
def State.startAccess (s : State) (kind : AccessKind) (va n align : Nat) : State × Bool :=
  let ps := pieces va n
  match badAddr s.unit ps with
  | some a => (s.memFault 0x30 0 a, false)
  | none =>
    if va % align != 0 then (s.memFault 0x31 (BitVec.ofNat 32 align) va, false)
    else if (s.toOwner kind ps).any fun p => paged s.unit p.1 then
      let a : Access := { slot := s.slot, kind, va := ad va, size := n, st := .asking s.cycle }
      ((s.upd fun c => { c with accs := c.accs ++ [a] }).awaitAdmission, false)
    else match s.accVerdict s.cur kind va n with
      | .fault c code x => (s.memFault c code x, false)
      | .held h =>
        let a : Access := { slot := s.slot, kind, va := ad va, size := n, st := .held h }
        (((s.protectiveForce h).upd fun c => { c with accs := c.accs ++ [a] }).awaitAdmission, false)
      | _ => (s, true)

/-- R217: whether the acting slot's access to `n` bytes is admitted; if not, the slot waits or has
faulted. An access that turns out to need more bytes asks for them. -/
def State.lAdmit (s : State) (kind : AccessKind) (va n align : Nat) : State × Bool :=
  match s.acc with
  | none => s.startAccess kind va n align
  | some a =>
    match a.st with
    | .admitted =>
      if n ≤ a.size then (s, true)
      else match badAddr s.unit (pieces va n) with
        | some x => (s.memFault 0x30 0 x, false)
        | none =>
          ((s.updAcc s.cur s.slot fun a => { a with size := n, st := .asking s.cycle }).awaitAdmission, false)
    | .fault c code x => (s.memFault c code x.toNat a.words, false)
    | .asking _ => (s.awaitAdmission, false)
    | .queued => (s.arriveBlocked, false)
    | .retry _ => (s.awaitAdmission, false)
    | .page _ _ => ((s.chooseWay s.cur s.slot).arriveBlocked, false)
    | .held _ => (s.awaitAdmission, false)

/-- R238: the page that the acting slot met is present; if not, the slot waits or has faulted. -/
def State.pageCame (s : State) : State × Bool :=
  match s.acc with
  | none => (s, true)
  | some a => match s.lAdmit .tagq a.va.toNat 1 1 with
    | (s, false) => (s, false)
    | (s, true) => (s.dropAcc, true)

/-- R97: an atomic of the acting context to a sector of the range is not yet performed. -/
def State.atomicBefore (s : State) (va n : Nat) : Bool :=
  s.ctx.atomics.any fun a => (pieces va n).any fun p => p.1 / 128 == a.va.toNat / 128

/-- R97: an earlier store of the acting context to a sector of the range is not yet applied. -/
def State.storeBefore (s : State) (va n : Nat) : Bool :=
  (s.ctx.storeBuf ++ s.ctx.storeQ).any fun e => (pieces va n).any fun p => p.1 / 128 == e.va.toNat / 128

/-- R98: the scoreboard slot that an L slot sets. -/
def sbOf (f : LFields) : Option Nat := if f.sbv == 1 then some f.sbs.toNat else none

/-- R98: the acting slot's access commits: it counts at its scoreboard slot, since its bundle's issue. -/
def State.sbAdd (s : State) (sb : Option Nat) : State :=
  match sb with
  | none => s
  | some n =>
    if s.ctx.sbSet.contains (s.slot, n) then s.upd fun c => { c with sbSet := c.sbSet.filter (· != (s.slot, n)) }
    else s.upd fun c => { c with sb := c.sb.setIfInBounds n (c.sb.getD n 0 + 1) }

/-- R102, R113: an acquire at module scope by a context: its domain's L1s are cleaned and emptied, and while
a guard keeps dirty bytes the acquire is due, before the next bundle. -/
def State.acquireModule (s : State) (key : Nat) : State :=
  let d := s.domain (unitOf key)
  let s := s.writeBackAll d
  if s.allClean d then (s.invalidateAll d).updCtx key fun c => { c with acquireDue := false }
  else s.updCtx key fun c => { c with acquireDue := true }

/-- R113, R235: a load that was queued on a suspension completes with an acquire at module scope. -/
def State.acquireAfter (s : State) : State := if s.acc.any (·.queued) then s.acquireModule s.cur else s

/-- R93, R232: a load's sectors are used or filled. -/
def State.noteLoad (s : State) (va n : Nat) : State :=
  (pieces va n).foldl (fun s p =>
    if (s.l1Find s.unit p.1).isSome then s.l1Touch s.unit p.1 else s.l1Fill s.unit p.1) s

/-- R97: a load is performed after its context's earlier stores and atomics on its sectors. -/
def State.loadReady (s : State) (kind : AccessKind) (va n align : Nat) : State × Bool :=
  match s.lAdmit kind va n align with
  | (s, false) => (s, false)
  | (s, true) =>
    let s := s.drainSectors s.cur (pieces va n)
    if s.atomicBefore va n || s.storeBefore va n then (s.stallFor 4 .storesApplied, false) else (s, true)

/-- R217: a load commits: its values land later, or in 5 cycles from the own scratchpad. -/
def State.loadOut (s : State) (f : LFields) (fast : Bool) (vals : List RegVal) : State :=
  let s := (s.acquireAfter.sbAdd (sbOf f)).dropAcc
  if fast then s.fixed 5 vals none (sbOf f)
  else
    let (due, s) := s.laterDue
    s.variable due vals none (sbOf f)

/-- R45, R220: the address lies in the own scratchpad's window. -/
def ownWindow (u va : Nat) : Bool :=
  match placeOf (isCcc u) (ad va) with
  | .ownPad _ => true
  | .bad => false
  | .hbm _ => false
  | .host _ => false
  | .sram _ => false
  | .pad _ _ => false
  | .slice _ _ _ => false

/-! ## Scalar loads and stores (R220) -/

/-- R220: a scalar or address load. -/
def State.scalarLoad (s : State) (f : LFields) (n : Nat) (val : Nat → RegVal) : State :=
  let va := s.effAddr f n
  match s.loadReady .load va n n with
  | (s, false) => s
  | (s, true) =>
    let x := leNat (s.loadBytes s.cur va n)
    (s.noteLoad va n).loadOut f (ownWindow s.unit va) [val x]

/-- R220: a zero-extended value. -/
def zext (f : LFields) (x : Nat) : RegVal := .s f.reg.toNat (BitVec.ofNat 32 x)
/-- R220: a value extended by its sign from `w` bits. -/
def sext (f : LFields) (w : Nat) (x : Nat) : RegVal := .s f.reg.toNat ((BitVec.ofNat w x).signExtend 32)

/-- R220. -/
def execLdb (f : LFields) (s : State) : Out := .next (s.scalarLoad f 1 (zext f))
/-- R220. -/
def execLdbs (f : LFields) (s : State) : Out := .next (s.scalarLoad f 1 (sext f 8))
/-- R220. -/
def execLdh (f : LFields) (s : State) : Out := .next (s.scalarLoad f 2 (zext f))
/-- R220. -/
def execLdhs (f : LFields) (s : State) : Out := .next (s.scalarLoad f 2 (sext f 16))
/-- R220. -/
def execLdw (f : LFields) (s : State) : Out := .next (s.scalarLoad f 4 (zext f))
/-- R220. -/
def execLda (f : LFields) (s : State) : Out :=
  .next (s.scalarLoad f 8 fun x => .a f.reg.toNat (BitVec.ofNat 64 x))

/-- R221: a committed store's parts enter the store buffer in address order, as entries free. -/
def State.enterStore (s : State) (va : Nat) (bs : List Byte) (nib : Bool) (sb : Option Nat) : State :=
  let ps := pieces va bs.length
  let store := s.nextUid
  let s := ps.zipIdx.foldl (fun s (p, i) =>
    let (id, s) := s.fresh
    let e : StoreEntry := { id, store, va := ad p.1, bytes := (bs.drop (p.1 - va)).take p.2, sb
                            seq := s.ctx.seq, nibble := nib && i + 1 == ps.length }
    s.upd fun c => { c with storeQ := c.storeQ ++ [e] }) s
  s.upd Ctx.takeIn

/-- R217, R221: a store of given bytes. -/
def State.storeOut (s : State) (f : LFields) (va align : Nat) (bs : List Byte) (nib : Bool := false) :
    State :=
  match s.lAdmit .store va bs.length align with
  | (s, false) => s
  | (s, true) => (((s.sbAdd (sbOf f)).enterStore va bs nib (sbOf f)).dropAcc).ends .done

/-- R220: stores the low bytes of s[reg]. -/
def State.scalarStore (s : State) (f : LFields) (n : Nat) : State :=
  s.storeOut f (s.effAddr f n) n (leBytes n (s.rdS f.reg.toNat).toNat)
/-- R220. -/
def execStb (f : LFields) (s : State) : Out := .next (s.scalarStore f 1)
/-- R220. -/
def execSth (f : LFields) (s : State) : Out := .next (s.scalarStore f 2)
/-- R220. -/
def execStw (f : LFields) (s : State) : Out := .next (s.scalarStore f 4)
/-- R220. -/
def execSta (f : LFields) (s : State) : Out :=
  .next (s.storeOut f (s.effAddr f 8) 8 (leBytes 8 (s.rdA f.reg.toNat).toNat))

/-! ## Vector loads and stores (R224 to R229) -/

/-- R214: the access unit of VLD and VST. -/
def vecUnit (t : BitVec 4) : Nat := max 1 (tyWidth t / 8)

/-- R224: a vector load ends: RUNOVF, or the entries land. -/
def State.vecOut (s : State) (f : LFields) (va n : Nat) (r : RunVec) : State :=
  if 128 < r.length then s.memFault 0x21 (BitVec.ofNat 32 r.length) s.ctx.faddr.toNat
  else (s.noteLoad va n).loadOut f false [.v f.reg.toNat r]

/-- R239: FMTERR; the fault registers keep their address. -/
def State.fmterr (s : State) (code : Word) : State := s.memFault 0x39 code s.ctx.faddr.toNat

/-- R225. -/
def State.vld (s : State) (f : LFields) : State :=
  let u := vecUnit f.ty
  let va := s.effAddr f u
  let vl := s.launch.hdr.vl
  let n := packedSize f.ty vl
  match s.loadReady .load va n u with
  | (s, false) => s
  | (s, true) =>
    let ws := (unpackRow f.ty (s.loadBytes s.cur va n) 0 vl).map (norm f.ty)
    s.vecOut f va n (coalesceWords ws)
/-- R225. -/
def execVld (f : LFields) (s : State) : Out := .next (s.vld f)

/-- R226: an entry of a run-pair image. -/
def runPair (t : BitVec 4) (x : Nat) : Word × Nat := (norm t (BitVec.ofNat 32 x), x / 2 ^ 32 % 2048)

/-- R226: the first failed check of an image: reserved bits, TYPE, counts. -/
def vldrBad (t : BitVec 4) (vl h : Nat) (es : List Nat) : Option Word :=
  let len := h % 65536
  let ent := h / 65536 % 65536
  let counts := es.map fun x => x / 2 ^ 32 % 2048
  if h / 2 ^ 36 != 0 || es.any (fun x => x / 2 ^ 43 != 0) then some 5
  else if h / 2 ^ 32 % 16 != t.toNat then some 1
  else if ent == 0 || 128 < ent || len == 0 || vl < len
      || counts.any (fun c => c == 0 || 1024 < c) || counts.sum != len then some 2
  else none

/-- R226: reads the header, then the entries that it counts. -/
def State.vldr (s : State) (f : LFields) : State :=
  let va := s.effAddr f 8
  match s.loadReady .load va 8 8 with
  | (s, false) => s
  | (s, true) =>
    let h := leNat (s.loadBytes s.cur va 8)
    let ent := h / 65536 % 65536
    let n := if 1 ≤ ent && ent ≤ 128 then 8 + 8 * ent else 8
    match s.loadReady .load va n 8 with
    | (s, false) => s
    | (s, true) =>
      let bs := s.loadBytes s.cur va n
      let es := (List.range (n / 8 - 1)).map fun k => leNat ((bs.drop (8 + 8 * k)).take 8)
      match vldrBad f.ty s.launch.hdr.vl (leNat (bs.take 8)) es with
      | some code => s.fmterr code
      | none => s.vecOut f va n (es.map (runPair f.ty))
/-- R226. -/
def execVldr (f : LFields) (s : State) : Out := .next (s.vldr f)

/-- R229: the first failed check of a BMV header. -/
def vldbBad (t : BitVec 4) (vl h : Nat) : Option Word :=
  let len := h % 65536
  let nz := h / 65536 % 65536
  let cap := h / 2 ^ 32 % 65536
  if h / 2 ^ 53 != 0 then some 5
  else if h / 2 ^ 48 % 16 != t.toNat then some 1
  else if h / 2 ^ 52 % 2 == 1 then some 3
  else if len == 0 || vl < len || len < nz || cap < nz then some 2
  else none

/-- R229: the elements of a BMV image from its mask and values. -/
def bmvElems (t : BitVec 4) (mask : Nat) : Nat → Nat → List Word → List Word
  | 0, _, _ => []
  | n + 1, i, vs =>
    if mask / 2 ^ i % 2 == 0 then 0 :: bmvElems t mask n (i + 1) vs
    else match vs with
      | [] => 0 :: bmvElems t mask n (i + 1) []
      | v :: rest => norm t v :: bmvElems t mask n (i + 1) rest

/-- Set bits of the low `n` bits. -/
def onesIn (x n : Nat) : Nat := ((List.range n).filter fun i => x / 2 ^ i % 2 == 1).length

/-- R229: reads the header, the mask, then the values that the header counts. -/
def State.vldb (s : State) (f : LFields) : State :=
  let va := s.effAddr f 8
  match s.loadReady .load va 8 8 with
  | (s, false) => s
  | (s, true) =>
    let h := leNat (s.loadBytes s.cur va 8)
    match vldbBad f.ty s.launch.hdr.vl h with
    | some code => s.fmterr code
    | none =>
      let len := h % 65536
      let nz := h / 65536 % 65536
      let ml := 8 * ((len + 63) / 64)
      match s.loadReady .load va (8 + ml) 8 with
      | (s, false) => s
      | (s, true) =>
        let mask := leNat ((s.loadBytes s.cur va (8 + ml)).drop 8)
        if onesIn mask (8 * ml) != nz || mask / 2 ^ len != 0 then s.fmterr 4
        else
          let n := 8 + ml + packedSize f.ty nz
          match s.loadReady .load va n 8 with
          | (s, false) => s
          | (s, true) =>
            let vs := unpackRow f.ty ((s.loadBytes s.cur va n).drop (8 + ml)) 0 nz
            s.vecOut f va n (coalesceWords (bmvElems f.ty mask len 0 vs))
/-- R229. -/
def execVldb (f : LFields) (s : State) : Out := .next (s.vldb f)

/-- R225: the packed bytes of elements. -/
def packElems (t : BitVec 4) (ws : List Word) : List Byte :=
  packRow t (List.replicate (packedSize t ws.length) 0) 0 ws

/-- R225: an odd number of 4-bit elements ends in half a byte. -/
def halfByte (t : BitVec 4) (n : Nat) : Bool := tyWidth t == 4 && n % 2 == 1

/-- R225. -/
def execVst (f : LFields) (s : State) : Out :=
  let u := vecUnit f.ty
  let ws := RunVec.elems (s.rdV f.reg.toNat)
  .next (s.storeOut f (s.effAddr f u) u (packElems f.ty ws) (halfByte f.ty ws.length))

/-- R226: the run-pair image of a register. -/
def runImage (t : BitVec 4) (v : RunVec) : List Byte :=
  leBytes 8 (RunVec.len v + v.length * 65536 + t.toNat * 2 ^ 32)
    ++ v.flatMap fun (w, n) => leBytes 8 ((norm t w).toNat + n * 2 ^ 32)
/-- R226. -/
def execVstr (f : LFields) (s : State) : Out :=
  .next (s.storeOut f (s.effAddr f 8) 8 (runImage f.ty (s.rdV f.reg.toNat)))

/-- R227, R228: the header of a BMV image. -/
def bmvHeader (t : BitVec 4) (len nz cap : Nat) (ovr : Bool) : List Byte :=
  leBytes 8 (len + nz * 65536 + cap * 2 ^ 32 + t.toNat * 2 ^ 48 + if ovr then 2 ^ 52 else 0)
/-- R227: the mask and the packed values of elements. -/
def bmvBody (t : BitVec 4) (ws : List Word) : List Byte :=
  let nz := ws.filter fun w => rawOf t w != 0
  let mask := ws.foldr (fun w acc => 2 * acc + if rawOf t w == 0 then 0 else 1) 0
  let vals := packElems t nz
  leBytes (8 * ((ws.length + 63) / 64)) mask
    ++ vals ++ List.replicate ((nz.length * tyWidth t + 63) / 64 * 8 - vals.length) 0

/-- R228: reads CAP, after the context's earlier stores to it (R97), then writes the image, or the overrun header alone before SPOVR. -/
def State.vstb (s : State) (f : LFields) : State :=
  let va := s.effAddr f 8
  match s.loadReady .store va 8 8 with
  | (s, false) => s
  | (s, true) =>
    let cap := leNat (s.loadBytes s.cur (va + 4) 2)
    let ws := RunVec.elems (s.rdV f.reg.toNat)
    let nz := (ws.filter fun w => rawOf f.ty w != 0).length
    if cap < nz then
      (s.enterStore va (bmvHeader f.ty ws.length nz cap true) false none).memFault 0x35
        (BitVec.ofNat 32 nz) s.ctx.faddr.toNat
    else s.storeOut f va 8 (bmvHeader f.ty ws.length nz cap false ++ bmvBody f.ty ws)
/-- R228. -/
def execVstb (f : LFields) (s : State) : Out := .next (s.vstb f)

/-! ## Atomics (R223) -/

/-- R223: an atomic commits; it is performed at its owner by an event of its own. -/
def State.atomicOut (s : State) (f : LFields) (op : AtomicOp) : State :=
  let n := if op == .fadd && f.ty == 1 then 2 else 4
  let va := s.effAddr f n
  match s.lAdmit .atomic va n n with
  | (s, false) => s
  | (s, true) =>
    let (id, s) := s.fresh
    let r := f.reg.toNat
    let a : AtomicReq := { id, op, ty := f.ty, va := ad va, s := s.rdS r, cmp := s.rdS (r + 1), dest := r
                           sb := sbOf f, seq := s.ctx.seq, slot := s.slot }
    (((s.sbAdd (sbOf f)).upd fun c => { c with
      atomics := c.atomics ++ [a], bank := c.emptyNow s.cycle [.s r 0] }).dropAcc).ends .done

/-- R223. -/
def execAmoadd (f : LFields) (s : State) : Out := .next (s.atomicOut f .add)
/-- R223. -/
def execAmomin (f : LFields) (s : State) : Out := .next (s.atomicOut f .min)
/-- R223. -/
def execAmomax (f : LFields) (s : State) : Out := .next (s.atomicOut f .max)
/-- R223. -/
def execAmoswp (f : LFields) (s : State) : Out := .next (s.atomicOut f .swp)
/-- R223. -/
def execAmocas (f : LFields) (s : State) : Out := .next (s.atomicOut f .cas)
/-- R223. -/
def execAmoand (f : LFields) (s : State) : Out := .next (s.atomicOut f .and)
/-- R223. -/
def execAmoor (f : LFields) (s : State) : Out := .next (s.atomicOut f .or)
/-- R223. -/
def execAmofadd (f : LFields) (s : State) : Out := .next (s.atomicOut f .fadd)

/-- R223: the new value of an atomic. -/
def atomicNew (a : AtomicReq) (old : Word) : Word :=
  let signed := a.ty == 6
  match a.op with
  | .add => old + a.s
  | .min => if (if signed then BitVec.sle old a.s else BitVec.ule old a.s) then old else a.s
  | .max => if (if signed then BitVec.sle old a.s else BitVec.ule old a.s) then a.s else old
  | .swp => a.s
  | .cas => if old = a.s then a.cmp else old
  | .and => old &&& a.s
  | .or => old ||| a.s
  | .fadd => BitVec.ofNat 32 (roundTo a.ty 0 false 0 ((valOf a.ty old).add (valOf a.ty a.s)))

/-- R223: performs an atomic: the domain's L1 writes the sector back and drops it; the old value lands
later. -/
def State.performAtomic (s : State) (key : Nat) (a : AtomicReq) : State :=
  let u := unitOf key
  let session := s.sessionOf u
  let n := if a.op == .fadd && a.ty == 1 then 2 else 4
  let s := if paged u a.va.toNat then s.cleanse session a.va else s
  let old := BitVec.ofNat 32 (s.ownerNat u session a.va n)
  let s := s.ownerWrite u session a.va (leBytes n (atomicNew a old).toNat)
  let (due, s) := s.laterDue
  let p : Pending := { vals := [.s a.dest old], due, fixed := false, seq := a.seq, slot := a.slot, sb := a.sb }
  s.updCtx key fun c => { c with atomics := c.atomics.filter (·.id != a.id), pend := c.pend ++ [p] }

/-- A unit's L1 holds dirty bytes of a sector. -/
def State.dirtyAt (s : State) (c sec : Nat) : Bool := ((s.unitAt c).l1.find sec).any fun l => l.dirty.any id

/-- R97, R223, R300: the context's first atomic is performed, once no earlier store of the context to its
sector is left, no guard holds it, and the L1 has written the sector back and dropped it. -/
def State.atomicGo (s : State) (key : Nat) : State :=
  match (s.ctxAt key).atomics with
  | [] => s
  | a :: _ =>
    let u := unitOf key
    let sec := a.va.toNat / 128
    let c := s.ctxAt key
    if (c.storeBuf ++ c.storeQ).any fun e => e.id < a.id && e.va.toNat / 128 == sec then s
    else match s.guardOf [(s.flat u (s.sessionOf u) a.va, 4)] none with
      | some n => s.protectiveForce n.handle
      | none =>
        match s.l1Unit u a.va.toNat with
        | none => s.performAtomic key a
        | some c =>
          let s := s.writeBack c sec
          if s.dirtyAt c sec then s else (s.l1Drop c sec).performAtomic key a
/-- R223. -/
def execAtomicPerform (key : Nat) (s : State) : Out := .next (s.atomicGo key)

/-! ## Cache and tag instructions (R230, R231) -/

/-- R230: the issue checks of FLUSH, INVAL and PREF, and the context's own stores to the sector. -/
def State.cacheOp (s : State) (f : LFields) (stores : Bool) (act : State → Nat → State) : State :=
  let va := s.effAddr f 128
  match badAddr s.unit [(va, 1)] with
  | some a => s.memFault 0x30 0 a
  | none =>
    let s := if stores then s.drainSectors s.cur [(va, 1)] else s
    if stores && s.storeBefore va 1 then s.stallFor 4 .storesApplied else act s va

/-- R98: an access that completes as it commits. -/
def State.sbOver (s : State) (f : LFields) : State :=
  ((s.sbAdd (sbOf f)).upd fun c => c.sbDone (sbOf f)).ends .done

/-- R98, R230, R300: writes the sector's dirty bytes back; complete once they are applied at the owner. -/
def execFlush (f : LFields) (s : State) : Out :=
  .next (s.cacheOp f true fun s va =>
    match s.l1Unit s.unit va with
    | none => s.sbOver f
    | some c =>
      let s := s.writeBack c (va / 128)
      if s.dirtyAt c (va / 128) then s.stallFor 4 (.flushed (ad va)) else s.sbOver f)
/-- R230: drops the sector and its dirty bytes. -/
def execInval (f : LFields) (s : State) : Out :=
  .next (s.cacheOp f true fun s va =>
    match s.l1Unit s.unit va with
    | none => s.sbOver f
    | some c => (s.l1Drop c (va / 128)).sbOver f)
/-- R230: starts a fill. -/
def execPref (f : LFields) (s : State) : Out :=
  .next (s.cacheOp f false fun s va =>
    match s.l1Unit s.unit va with
    | none => s.sbOver f
    | some _ =>
      let mark := (sbOf f).map fun n => (s.cur, n)
      ((s.sbAdd (sbOf f)).updUnit s.unit fun x => { x with fills := x.fills ++ [(ad va, mark)] }).ends .done)

/-- R231: the word that TAGQ writes. -/
def State.tagWord (s : State) (p : Party) (va : Nat) : Word :=
  if !paged p.unit va then 0
  else
    let r := s.tagAt p va
    let isLazy := (s.pageOf p.session (ad va)).any (·.isLazy)
    let tag : Nat := match r.tag with
      | .value => 0
      | .suspended => 1
      | .evaluating => 2
      | .poison => 3
    let node := if r.tag.unready && r.launch == p.launch then r.node &&& 0xFFFFFC00 else 0
    if isLazy then node + BitVec.ofNat 32 (4 + tag) else 0

/-- R230, R231. -/
def State.tagq (s : State) (f : LFields) : State :=
  let va := s.effAddr f 128
  match s.lAdmit .tagq va 1 1 with
  | (s, false) => s
  | (s, true) => s.loadOut f false [.s f.reg.toNat (s.tagWord (s.partyOf s.cur) va)]
/-- R230, R231. -/
def execTagq (f : LFields) (s : State) : Out := .next (s.tagq f)

/-- R230: the word at the owner, or the tag code. -/
def State.ldpeek (s : State) (f : LFields) : State :=
  let va := s.effAddr f 4
  match s.loadReady .peek va 4 4 with
  | (s, false) => s
  | (s, true) =>
    let p := s.partyOf s.cur
    let tag := s.tagWord p va &&& 3
    let r := f.reg.toNat
    let w := BitVec.ofNat 32 (leNat (overlay (s.ctx.storeBuf ++ s.ctx.storeQ) va (s.ownerRead p.unit p.session (ad va) 4)))
    s.loadOut f false (if tag = 0 then [.s r w, .s (r + 1) 0] else [.s r 0, .s (r + 1) tag])
/-- R230. -/
def execLdpeek (f : LFields) (s : State) : Out := .next (s.ldpeek f)

/-! ## Descriptor loads and stores (R271) -/

/-- R271: the address. -/
def State.descAddr (s : State) (f : DescMem) : Nat :=
  (s.rdA f.am.toNat + f.off.signExtend 64 * 64).toNat
/-- R271: 64 bytes land in dn. -/
def State.dld (s : State) (f : DescMem) : State :=
  let va := s.descAddr f
  match s.loadReady .load va 64 64 with
  | (s, false) => s
  | (s, true) =>
    let x := leNat (s.loadBytes s.cur va 64)
    let (due, s) := ((s.noteLoad va 64).acquireAfter.dropAcc).laterDue
    s.variable due [.d f.dn.toNat (BitVec.ofNat 512 x)]
/-- R271. -/
def execDld (f : DescMem) (s : State) : Out := .next (s.dld f)
/-- R5, R271: dn is read at issue, its reserved fields as zero. -/
def State.dst (s : State) (f : DescMem) : State :=
  let va := s.descAddr f
  match s.lAdmit .store va 64 64 with
  | (s, false) => s
  | (s, true) => ((s.enterStore va (leBytes 64 (dSeen (s.rdD f.dn.toNat)).toNat) false none).dropAcc).ends .done
/-- R271. -/
def execDst (f : DescMem) (s : State) : Out := .next (s.dst f)

/-! ## Admission at the owner (R217, R218, R235, R238) -/

/-- The instruction in a slot of a context's bundle. -/
def State.slotInstr (s : State) (key slot : Nat) : Option Instr :=
  let c := s.ctxAt key
  match s.codeBytes key c.pc with
  | none => none
  | some bs =>
    match decodeBundle (isCcc (unitOf key)) c.dly bs c.done with
    | .bundle b => (b.slots.find? (·.1 == slot)).map Prod.snd
    | .truncated => none
    | .illegal _ _ => none
    | .idle _ _ => none

/-- R217: an earlier slot of the bundle still waits for its access. -/
def Ctx.ahead (c : Ctx) (slot : Nat) : Bool := c.accs.any fun a => a.slot < slot

/-- R83, R218: a context meets a page that is not present, and leaves ISSUING once its slot has come to the
access. Until its frame is written a context that parks shows BLOCKED (DESIGN CHOICE,
notes/assumptions/52.md). -/
def State.pageWait (s : State) (key slot va : Nat) : State :=
  let s := s.reportPage (s.partyOf key).session va 0
  let s := s.traceTrap key slot 0x3F 0
  let s := s.updAcc key slot fun a => { a with st := .page (ad va) .undecided }
  if (s.ctxAt key).ahead slot then s else (s.chooseWay key slot).blockNow key

/-- R235: a demand of an access: its site. -/
def State.accSite (s : State) (key : Nat) (a : Access) : DemandSite :=
  { kind := if a.slot == 9 then 1 else 0, key, slot := a.slot, addr := unitsAddr (s.ctxAt key).pc }

/-- R235: an access is queued on its sectors that are not ready, and demands those that are
SUSPENDED; one that finds 64 waiters retries. -/
def State.queueAccess (s : State) (key : Nat) (a : Access) : State :=
  let p := s.partyOf key
  let secs := ((pieces a.va.toNat a.size).map fun x => x.1 / 128).eraseDups.filter fun x =>
    paged p.unit (x * 128) && (s.tagNo p.session x).tag.unready
  if secs.any fun x => 64 ≤ (s.tagNo p.session x).waiters.length then
    (s.updAcc key a.slot fun a => { a with st := .retry (s.cycle + 64) })
  else
    let (s, raised) := secs.foldl (fun (acc : State × Bool) x =>
      let (s, r) := acc
      let t := s.tagNo p.session x
      let s := if t.tag == .suspended then s.demandSector p.session x none none (some (s.accSite key a)) else s
      let t' := s.tagNo p.session x
      let w : Waiter := { key, slot := a.slot }
      (s.setTagNo p.session x { t' with waiters := if t'.waiters.contains w then t'.waiters else t'.waiters ++ [w] },
        r || t.tag == .suspended)) (s, false)
    let s := s.updAcc key a.slot fun a => { a with st := .queued, queued := true, raised := a.raised || raised }
    if (s.ctxAt key).ahead a.slot then s else s.blockNow key

/-- R217, R219, R237: the owner decides an access, once it has the translations. -/
def State.decide (s : State) (key : Nat) (a : Access) : State :=
  match s.tlbMiss (s.partyOf key) ({ s with cur := key }.toOwner a.kind (pieces a.va.toNat a.size)) with
  | some (die, e) => (s.walkPage die e).updAcc key a.slot fun a => { a with st := .asking s.cycle }
  | none => match s.accVerdict key a.kind a.va.toNat a.size with
  | .ok => s.updAcc key a.slot fun a => { a with st := .admitted }
  | .fault c code x =>
    let s := if c == 0x95 then s.violate else s
    s.updAcc key a.slot fun a => { a with st := .fault c code (ad x) }
  | .page va => s.pageWait key a.slot va
  | .queued _ => s.queueAccess key a
  | .held h => (s.protectiveForce h).updAcc key a.slot fun a => { a with st := .held h }

/-- R83, R99, R109, R210: everything of a context that a save waits for is done. -/
def Ctx.quiet (c : Ctx) : Bool :=
  c.pend.isEmpty && c.stored && c.atomics.isEmpty && c.reqs.isEmpty
    && c.rq.length == 64 && c.sbBack.toList.all (· == 0)

/-- R87, R425: a context as a frame takes it: what its bundle has not committed is taken back, and the pending
target of a delay position is known. -/
def State.framed (s : State) (key : Nat) : Ctx :=
  let c := s.ctxAt key
  { c with accs := [], opened := false, preEnd := none, bank := c.givenBack c.done, emptied := [], sb := c.sbBack
           sbSet := [], target := if c.dly then some (s.pendingTarget key) else none }

/-- R83, R85, R212, R428: parks the task of a context in a frame and frees the context. -/
def State.park (s : State) (key slot : Nat) (va : Addr) (noMap : Bool) : State :=
  let u := unitOf key
  let c := s.ctxAt key
  let l := (s.launchOn (clusterOf u)).getD Launch.none
  let n := (s.unitAt u).freeFrame u
  let ready := noMap || !s.pageMissing (s.partyOf key) va.toNat
  let (s, saved) := s.saveFrame l u n { s.framed key with wait := none, st := .ready }
  let s := s.updUnit u fun x => { x with
    parked := x.parked ++ [{ ctx := saved, frame := n, page := va, slot, ready, noMap, seq := c.seq }] }
  ((s.setCtx key { Ctx.reset with laps := c.laps, lastIssue := c.lastIssue, seq := c.seq }).leaveIssuing key .free).debugDone

/-- R83, R112, R238: a context's access waits for a page: one that parks does so once the context is quiet and
its domain's L1 is clean; one that waits in place asks again once the page is present. -/
def State.pageTurn (s : State) (key slot : Nat) (va : Addr) (way : PageWay) : State :=
  let asks := if s.pageMissing (s.partyOf key) va.toNat then s
    else (s.updAcc key slot fun a => { a with st := .asking s.cycle }).updCtx key fun c => c.thaw s.cycle
  let parks (noMap : Bool) : State :=
    if !(s.ctxAt key).quiet then s
    else
      let d := s.domain (unitOf key)
      let s := s.writeBackAll d
      if s.allClean d then s.park key slot va noMap else s
  match way with
  | .undecided => asks
  | .inPlace => asks
  | .park => parks false
  | .parkNoMap => parks true

/-- R217, R218: what becomes of a context's access in a slot in this turn. -/
def State.admitSlot (s : State) (key slot : Nat) : State :=
  match (s.ctxAt key).accs.find? (·.slot == slot) with
  | none => s
  | some a =>
    match a.st with
    | .asking _ => s.decide key a
    | .held _ => s.decide key a
    | .page va way => s.pageTurn key slot va way
    | .queued => s
    | .retry _ => s
    | .admitted => s
    | .fault _ _ _ => s

/-- R217, R218, R235, R238: the owner's answers to a context's accesses that ask, are held or wait for a page,
each for itself. -/
def execAccessAdmission (key : Nat) (s : State) : Out :=
  .next (((s.ctxAt key).accs.map (·.slot)).foldl (fun s n => s.admitSlot key n) s)

/-- R218: a stall for admission becomes a block after 64 cycles. -/
def execStallBecomesBlock (key : Nat) (s : State) : Out :=
  let c := s.ctxAt key
  match c.wait with
  | none => .next s
  | some w =>
    if c.st == .issuing && !w.blocked && w.cause == 4 && w.since + 64 ≤ s.cycle then .next (s.blockNow key)
    else .next s

/-- R235: a refused access asks again after 64 cycles. -/
def execWaiterRetry (key : Nat) (s : State) : Out :=
  .next (s.updCtx key fun c => { c with accs := c.accs.map fun a =>
    match a.st with
    | .retry t => if t ≤ s.cycle then { a with st := .asking s.cycle } else a
    | _ => a })

/-- R93, R94, R230: a fill that PREF started is done or abandoned. -/
def execL1Fill (unit : Nat) (va : Addr) (s : State) : Out :=
  match (s.unitAt unit).fills.find? (·.1 == va) with
  | none => .next s
  | some f =>
    let s := s.updUnit unit fun x => { x with fills := dropFirst f x.fills }
    let s := s.l1Fill unit va.toNat
    match f.2 with
    | none => .next s
    | some (key, sb) => .next (s.updCtx key fun c => c.sbDone (some sb))

/-- R97, R221, R300: an entry of a store buffer is applied; a guard that holds it is forced. -/
def execStoreApply (key i : Nat) (s : State) : Out :=
  let buf := (s.ctxAt key).storeBuf
  match buf[i]? with
  | none => .next s
  | some e =>
    if s.entryFree key e (buf.take i) then .next (s.applyEntry key e)
    else match s.guardOf [(s.flat (unitOf key) (s.sessionOf (unitOf key)) e.va, e.bytes.length)] none with
      | some n => .next (s.protectiveForce n.handle)
      | none => .next s

/-- R45 to R53, R98: a result lands. -/
def State.landOne (s : State) (key : Nat) (p : Pending) : State :=
  let s := s.updCtx key fun c => { c with pend := dropFirst p c.pend }
  (s.landPend key p).updCtx key fun c => c.sbDone p.sb

/-- R49: the i-th result of unpromised time lands, once its time has come. -/
def execResultLand (key i : Nat) (s : State) : Out :=
  match ((s.ctxAt key).pend.filter fun p => !p.fixed)[i]? with
  | none => .next s
  | some p => if p.due ≤ s.cycle && p.late.isNone then .next (s.landOne key p) else .next s

/-- R46, R47: the first fixed-latency result lands in its cycle. -/
def execFixedResultVisible (key : Nat) (s : State) : Out :=
  match firstPend (fun p => p.fixed && decide (p.due ≤ s.cycle)) (s.ctxAt key).pend with
  | none => .next s
  | some p => .next (s.landOne key p)

/-! ## The second L slot (R218) -/

/-- R218: what an L slot first asks of the memory side: kind, address, bytes and alignment. -/
def State.lAsks (s : State) : Instr → Option (AccessKind × Nat × Nat × Nat)
  | .ldb f => some (.load, s.effAddr f 1, 1, 1)
  | .ldbs f => some (.load, s.effAddr f 1, 1, 1)
  | .ldh f => some (.load, s.effAddr f 2, 2, 2)
  | .ldhs f => some (.load, s.effAddr f 2, 2, 2)
  | .ldw f => some (.load, s.effAddr f 4, 4, 4)
  | .lda f => some (.load, s.effAddr f 8, 8, 8)
  | .stb f => some (.store, s.effAddr f 1, 1, 1)
  | .sth f => some (.store, s.effAddr f 2, 2, 2)
  | .stw f => some (.store, s.effAddr f 4, 4, 4)
  | .sta f => some (.store, s.effAddr f 8, 8, 8)
  | .vld f => some (.load, s.effAddr f (vecUnit f.ty), packedSize f.ty s.launch.hdr.vl, vecUnit f.ty)
  | .vldr f => some (.load, s.effAddr f 8, 8, 8)
  | .vldb f => some (.load, s.effAddr f 8, 8, 8)
  | .vst f => some (.store, s.effAddr f (vecUnit f.ty), packedSize f.ty (RunVec.len (s.rdV f.reg.toNat)), vecUnit f.ty)
  | .vstr f => some (.store, s.effAddr f 8, 8 + 8 * (s.rdV f.reg.toNat).length, 8)
  | .vstb f => some (.store, s.effAddr f 8, 8, 8)
  | .amoadd f => some (.atomic, s.effAddr f 4, 4, 4)
  | .amomin f => some (.atomic, s.effAddr f 4, 4, 4)
  | .amomax f => some (.atomic, s.effAddr f 4, 4, 4)
  | .amoswp f => some (.atomic, s.effAddr f 4, 4, 4)
  | .amocas f => some (.atomic, s.effAddr f 4, 4, 4)
  | .amoand f => some (.atomic, s.effAddr f 4, 4, 4)
  | .amoor f => some (.atomic, s.effAddr f 4, 4, 4)
  | .amofadd f =>
    let n := if f.ty == 1 then 2 else 4
    some (.atomic, s.effAddr f n, n, n)
  | .tagq f => some (.tagq, s.effAddr f 128, 1, 1)
  | .ldpeek f => some (.peek, s.effAddr f 4, 4, 4)
  | _ => none

/-- R218: while L0 waits for the memory side, the access of L1 is asked for too, if it needs that side. Its
answer is kept until L1 comes to commit. -/
def State.askBeside (s : State) (i : Instr) : State :=
  match s.lAsks i with
  | none => s
  | some (kind, va, n, align) =>
    let ps := pieces va n
    let has := fun (k : Nat) => s.ctx.accs.any fun (a : Access) => a.slot == k
    if (badAddr s.unit ps).isSome || va % align != 0 || !has 7 || has 8
        || !((s.toOwner kind ps).any fun p => paged s.unit p.1) then s
    else
      let a : Access := { slot := 8, kind, va := ad va, size := n, st := .asking s.cycle }
      s.upd fun c => { c with accs := c.accs ++ [a] }

/-! ## Accesses that a suspension releases (R235) -/

/-- Runs an L slot or a descriptor access again. -/
def State.lRun (s : State) : Instr → State
  | .ldb f => s.scalarLoad f 1 (zext f)
  | .ldbs f => s.scalarLoad f 1 (sext f 8)
  | .ldh f => s.scalarLoad f 2 (zext f)
  | .ldhs f => s.scalarLoad f 2 (sext f 16)
  | .ldw f => s.scalarLoad f 4 (zext f)
  | .lda f => s.scalarLoad f 8 fun x => .a f.reg.toNat (BitVec.ofNat 64 x)
  | .stb f => s.scalarStore f 1
  | .sth f => s.scalarStore f 2
  | .stw f => s.scalarStore f 4
  | .sta f => s.storeOut f (s.effAddr f 8) 8 (leBytes 8 (s.rdA f.reg.toNat).toNat)
  | .vld f => s.vld f
  | .vldr f => s.vldr f
  | .vldb f => s.vldb f
  | .vst f =>
    let ws := RunVec.elems (s.rdV f.reg.toNat)
    s.storeOut f (s.effAddr f (vecUnit f.ty)) (vecUnit f.ty) (packElems f.ty ws) (halfByte f.ty ws.length)
  | .vstr f => s.storeOut f (s.effAddr f 8) 8 (runImage f.ty (s.rdV f.reg.toNat))
  | .vstb f => s.vstb f
  | .amoadd f => s.atomicOut f .add
  | .amomin f => s.atomicOut f .min
  | .amomax f => s.atomicOut f .max
  | .amoswp f => s.atomicOut f .swp
  | .amocas f => s.atomicOut f .cas
  | .amoand f => s.atomicOut f .and
  | .amoor f => s.atomicOut f .or
  | .amofadd f => s.atomicOut f .fadd
  | .dld f => s.dld f
  | .dst f => s.dst f
  | _ => s.ends .wait

/-- R97, R223: performs what can be performed of a context's atomics, in order. -/
def State.drainAtomics (s : State) (key : Nat) : State :=
  (s.ctxAt key).atomics.foldl (fun s _ => s.atomicGo key) s

/-- R21, R235: the owner reads a sector for an engine in its turn of the queue. -/
def State.readInTurn (s : State) (who key : Nat) : State :=
  let rest := s.engineReads.filter fun r => r.who != who || r.key != key
  { s with engineReads := rest ++ [{ who, key, bytes := memRead s.mem (128 * key) 128 }] }

/-- R235: one released access is admitted and performed in its turn: an engine's read of the sector with a
key, or a context's access. -/
def State.releaseOne (s : State) (key : Nat) (w : Waiter) : State :=
  if w.engine != 0 then s.readInTurn w.engine key
  else match (s.ctxAt w.key).accs.find? (·.slot == w.slot), s.slotInstr w.key w.slot with
  | some a, some ins =>
    if a.st != .queued then s
    else
      let s := s.decide w.key { a with st := .asking s.cycle }
      match (s.ctxAt w.key).accs.find? (·.slot == w.slot) with
      | none => s
      | some b =>
        if b.st != .admitted || (s.ctxAt w.key).ahead w.slot then s
        else
          let (cur, slot, flow) := (s.cur, s.slot, s.flow)
          let s := { s with cur := w.key, slot := w.slot }.lRun ins
          let s := if s.flow == .done then
              ((s.updCtx w.key fun c => { c with done := setBit c.done w.slot true }).drainStores w.key 128).drainAtomics w.key
            else s
          { s with cur, slot, flow }
  | _, _ => s

/-- R235: the owner performs the queued accesses in the order they were queued. -/
def State.releaseAll (s : State) (ws : List (Nat × Waiter)) : State := ws.foldl (fun s w => s.releaseOne w.1 w.2) s

/-- R235, R302: a tile became POISON: the access that raised its demand is delivered DEFER with the
record `words`; the others go on against a POISON sector. -/
def State.deferWaiters (s : State) (site : Option DemandSite) (inner : Nat) (addr : Addr)
    (words : List Word) (ws : List (Nat × Waiter)) : State :=
  ws.foldl (fun s (x : Nat × Waiter) =>
    let w := x.2
    let mine := w.engine == 0 && match site with
      | some d => d.kind ≤ 1 && d.key == w.key && d.slot == w.slot
      | none => false
    if mine then
      s.updAcc w.key w.slot fun a =>
        if a.st == .queued then { a with st := .fault 0x53 (BitVec.ofNat 32 inner) addr, words } else a
    else s.releaseOne x.1 w) s

end Sys2Proof.Machine
end

