-- ==== Sys2Proof/Machine/Special.lean ====
section
/-! DEFINITION. The special-function unit: the F slot (R196 to R211). -/

namespace Sys2Proof.Machine

/-! ## Shapes (R196 to R201) -/

/-- R197: the source names a vector register. -/
def fVec (f : FFields) : Bool := 32 ≤ f.src.toNat
/-- The register number within its file. -/
def fReg (x : BitVec 6) : Nat := x.toNat % 32

/-- R201: an F result with work `e`: the pipe is busy, and the result is seen no earlier than the
precheck ends. -/
def State.funcOut (s : State) (lf : Nat) (vals : List RegVal) (e : Nat) : State :=
  let c := s.ctx
  let work := (e + 15) / 16
  let due := max (max (c.issueAt + lf + work) (c.issueAt + c.preK)) (s.cycle + 1)
  (s.updUnit s.unit fun x => { x with fBusy := c.issueAt + work }).variable due vals

/-- R198: the result entries of one source entry: one, or with SR the stretches of equal results. -/
def entryOut (sr : Bool) (fn : Word → Nat → Word) (w : Word) (p n : Nat) : RunVec :=
  if sr then coalesceWords ((List.range n).map fun i => fn w (p + i)) else [(fn w p, n)]

/-- R198, R199: the result of a member that begins at element `p`, with the active elements below
`a`, and the last active element's result so far. -/
def memberOut (sr : Bool) (fn : Word → Nat → Word) (a : Nat) : Nat → RunVec → RunVec
  | _, [] => []
  | p, (w, n) :: rest =>
    if a ≤ p then [] else entryOut sr fn w p (min n (a - p)) ++ memberOut sr fn a (p + n) rest

/-- R199: the members of a result: inactive elements take the last active result. -/
def fillMembers (fill : Word) (l : Nat) : List RunVec → List RunVec
  | [] => []
  | m :: ms =>
    let m' := if m.isEmpty then [(fill, l)] else RunVec.extend m l
    let fill' := match m.getLast? with
      | some (w, _) => w
      | none => fill
    m' :: fillMembers fill' l ms

/-- R198, R199: a function over the members of a group. -/
def groupFunc (sr : Bool) (fn : Word → Nat → Word) (a l : Nat) (ms : List RunVec) : List RunVec :=
  fillMembers 0 l (ms.zipIdx.map fun (m, k) => memberOut sr fn a (k * l) m)

/-- R196, R200: the predicate's width differs from the source's. -/
def State.fWidthBad (s : State) (f : FFields) (src : BitVec 4) : Bool :=
  fVec f && s.widthBad f.q src

/-- R198 to R201: a function of one element, for the scalar and the vector form. `src` is the type of
the source and `fn` gives an element's result from its value field and its index. -/
def State.special (s : State) (f : FFields) (src : BitVec 4) (lf : Nat) (fn : Word → Nat → Word) : State :=
  let sr := f.rnd == 5
  if !fVec f then s.funcOut lf [.s (fReg f.dst) (fn (s.rdS (fReg f.src)) 0)] 1
  else if s.widthBad f.q src then s.qwidth f.q src
  else
    let ms := s.members (fReg f.src) (s.groupOf f.q)
    match opLength false (ms.map RunVec.len) s.launch.hdr.vl with
    | .error (a, b) => s.lenmis a b
    | .ok l =>
      let out := groupFunc sr fn (s.activeOf f.q (ms.length * l)) l ms
      match overflowOf out with
      | some n => s.runovf n
      | none =>
        s.funcOut lf ((List.range out.length).map fun k => .v (fReg f.dst + k) (out.getD k []))
          ((out.map List.length).sum)

/-- The random byte of an element under SR, else 0. -/
def State.fRand (s : State) (f : FFields) (i : Nat) : Nat :=
  if f.rnd == 5 then srByte s.ctx.srWord i else 0

/-- R202: a function rounded into ty. -/
def State.funcSlot (s : State) (f : FFields) (lf : Nat) (fn : Func) : State :=
  s.special f f.ty lf fun w i =>
    norm f.ty (BitVec.ofNat 32 (funcOf fn f.ty f.rnd (f.sr == 1) (s.fRand f i) (valOf f.ty w)))
/-- R202: a root or reciprocal rounded into ty. -/
def State.rootSlot (s : State) (f : FFields) (fn : Num → Num) : State :=
  s.special f f.ty 6 fun w i => putVal f.ty f.rnd (f.sr == 1) (s.fRand f i) (fn (valOf f.ty w))

/-- R202. -/
def execFexp (f : FFields) (s : State) : Out := .next (s.funcSlot f 6 .exp)
/-- R202. -/
def execFexp2 (f : FFields) (s : State) : Out := .next (s.funcSlot f 6 .exp2)
/-- R202. -/
def execFlog2 (f : FFields) (s : State) : Out := .next (s.funcSlot f 6 .log2)
/-- R202. -/
def execFrcp (f : FFields) (s : State) : Out := .next (s.rootSlot f rcpOf)
/-- R202. -/
def execFrsq (f : FFields) (s : State) : Out := .next (s.rootSlot f rsqOf)
/-- R202. -/
def execFsqrt (f : FFields) (s : State) : Out := .next (s.rootSlot f sqrtOf)
/-- R202. -/
def execFtanh (f : FFields) (s : State) : Out := .next (s.funcSlot f 8 .tanh)
/-- R202. -/
def execFsigm (f : FFields) (s : State) : Out := .next (s.funcSlot f 8 .sigm)
/-- R202. -/
def execFsin (f : FFields) (s : State) : Out := .next (s.funcSlot f 8 .sin)
/-- R202. -/
def execFcos (f : FFields) (s : State) : Out := .next (s.funcSlot f 8 .cos)

/-! ## Conversions (R204, R205) -/

/-- R204: fp32 to ty. -/
def execFconv (f : FFields) (s : State) : Out :=
  .next (s.special f 0 4 fun w i => putVal f.ty f.rnd (f.sr == 1) (s.fRand f i) (fp32 w))
/-- R204: ty to fp32. -/
def execFdqt (f : FFields) (s : State) : Out :=
  .next (s.special f f.ty 4 fun w i => putVal 0 f.rnd (f.sr == 1) (s.fRand f i) (valOf f.ty w))
/-- R204: to an integral value of the same type. -/
def execFrnd (f : FFields) (s : State) : Out :=
  .next (s.special f f.ty 4 fun w i =>
    putVal f.ty 0 (f.sr == 1) 0 (integralOf f.rnd (s.fRand f i) (valOf f.ty w)))

/-- R205: the scale byte of the active elements. -/
def State.fqnt (s : State) (f : FFields) : State :=
  let out (es : List (Word × Nat)) : State :=
    let b := scaleByte (emaxOf f.ty) (es.map fun e => fp32 e.1)
    s.funcOut 4 [.s (fReg f.dst) (BitVec.ofNat 32 b)] es.length
  if !fVec f then out [(s.rdS (fReg f.src), 1)]
  else if s.widthBad f.q 0 then s.qwidth f.q 0
  else
    let ms := s.members (fReg f.src) (s.groupOf f.q)
    match opLength false (ms.map RunVec.len) s.launch.hdr.vl with
    | .error (a, b) => s.lenmis a b
    | .ok l => out (activeEntries (s.activeOf f.q (ms.length * l)) (longOf l ms))
/-- R205. -/
def execFqnt (f : FFields) (s : State) : Out := .next (s.fqnt f)

/-! ## Codebooks (R206 to R208) -/

/-- R207: a codebook address: window 0x0 or 0x1, 32-byte aligned. -/
def codebookOk (u va : Nat) : Bool :=
  va % 32 == 0 && (match placeOf (isCcc u) (ad va) with
    | .ownPad _ => true
    | .sram _ => true
    | .bad => false
    | .hbm _ => false
    | .host _ => false
    | .pad _ _ => false
    | .slice _ _ _ => false)

/-- R208: some store of a bundle before `seq` of a context to `n` bytes is not yet applied. -/
def State.storeTouching (s : State) (key seq va n : Nat) : Bool :=
  let u := unitOf key
  let place (va : Addr) (n : Nat) : Nat × Nat := (s.flat u (s.sessionOf u) va, n)
  ((s.ctxAt key).storeBuf ++ (s.ctxAt key).storeQ).any fun e => e.seq < seq && spansMeet (place e.va e.bytes.length) (place (ad va) n)

/-- R206, R118: what a codebook makes of a value field: the entry that an index names, in its type, exactly:
a NaN keeps its bits (DEDUCED, notes/assumptions/20.md); or the index of a value. -/
def CodeRead.look (r : CodeRead) (cb : List Word) (w : Word) : Word :=
  if r.index then
    let e := cb.getD (w.toNat % 16) 0
    if r.ty == 0 then e <<< 16 else e
  else BitVec.ofNat 32 (cbIndex cb (valOf r.ty w))

/-- R206: a result with the codebook's values in place of the source's. -/
def RegVal.look (g : Word → Word) : RegVal → RegVal
  | .s n w => .s n (g w)
  | .v n r => .v n (r.map fun (w, k) => (g w, k))
  | .a n x => .a n x
  | .q n p => .q n p
  | .d n x => .d n x
  | .empty f n => .empty f n
  | .sys n w => .sys n w

/-- R201, R208: the codebook read that a result in flight waits for is performed, once the stores before it
are applied; the result lands no earlier than 6 cycles later. -/
def State.lookUp (s : State) (key : Nat) (p : Pending) : Pending :=
  match p.late with
  | none => p
  | some r =>
    if s.storeTouching key p.seq r.va 32 then p
    else
      let cb := codebookOf (s.engineBytes (s.partyOf key) r.va 32)
      { p with vals := p.vals.map (RegVal.look (r.look cb)), due := max p.due (s.cycle + 6), late := none }

/-- R208: a context's codebook reads that may be are performed. -/
def State.codebookTurn (s : State) (key : Nat) : State :=
  s.updCtx key fun c => { c with pend := c.pend.map (s.lookUp key) }

/-- R200, R206 to R208: FCBE and FCBD: the slot commits, and its codebook is read at once or when the
context's earlier stores to it are applied. -/
def State.codebookSlot (s : State) (f : FFields) (index : Bool) : State :=
  let va := (s.rdA (8 + f.q.toNat)).toNat
  if !codebookOk s.unit va then s.trap 0x30 0 (some (ad va))
  else
    let s := if fVec f then s.funcOut 6 [.v (fReg f.dst) (s.rdV (fReg f.src))] (s.rdV (fReg f.src)).length
      else s.funcOut 6 [.s (fReg f.dst) (s.rdS (fReg f.src))] 1
    s.upd fun c => { c with pend := c.pend.map fun p =>
      if p.seq == c.seq && p.slot == s.slot then s.lookUp s.cur { p with late := some { va, index, ty := f.ty } } else p }
/-- R206. -/
def execFcbe (f : FFields) (s : State) : Out := .next (s.codebookSlot f false)
/-- R206. -/
def execFcbd (f : FFields) (s : State) : Out := .next (s.codebookSlot f true)

end Sys2Proof.Machine
end

