-- ==== Sys2Proof/Machine/Array.lean ====
section
/-! DEFINITION. The systolic array and its accumulators: the M slot, VACC and VACCW, and the array's
events (R192 to R194, R240 to R265). Operands are read when their slot commits, once the context's
earlier stores to them are applied (R244). -/

namespace Sys2Proof.Machine

/-! ## Parts -/

/-- The array of a unit. -/
def State.arrAt (s : State) (u : Nat) : Arr := (s.unitAt u).arr
/-- Changes the array of a unit. -/
def State.updArr (s : State) (u : Nat) (f : Arr → Arr) : State := s.updUnit u fun x => { x with arr := f x.arr }
/-- The array of the acting context's core. -/
def State.arr (s : State) : Arr := s.arrAt s.unit
/-- An accumulator. -/
def Arr.acc (a : Arr) (n : Nat) : Acc := a.accs.getD n {}
/-- Changes an accumulator. -/
def Arr.updAcc (a : Arr) (n : Nat) (f : Acc → Acc) : Arr := { a with accs := a.accs.setIfInBounds n (f (a.acc n)) }
/-- The model's number of the acting context's task; 0 where there is none. -/
def State.taskNo (s : State) : Nat := match s.ctx.task with | some t => t.uid | none => 0

/-- R241: the row group size of a type; none for types the M slot does not accept. -/
def groupSize (t : BitVec 4) : Option Nat :=
  match t.toNat with
  | 0 | 1 | 7 | 11 => some 1
  | 2 | 3 | 8 | 12 | 14 => some 2
  | 4 | 5 | 9 | 13 | 15 => some 4
  | _ => none

/-- R255: an MDRAIN's type fits the accumulator's KIND. -/
def drainFits (int : Bool) (t : BitVec 4) : Bool := if int then t == 6 else t.toNat ≤ 3

/-- R252: element (i, n) of an accumulator's data. -/
def Acc.at' (x : Acc) (i n : Nat) : Word := x.data.get 0 (128 * i + n)
/-- The data of an accumulator, row by row. -/
def Acc.rows (x : Acc) : List (List Word) :=
  (List.range 128).map fun i => (List.range 128).map fun n => x.at' i n
/-- R242: the checks of an accumulator. -/
def Acc.checks (x : Acc) : Sums :=
  { rc := (List.range 128).map (x.rc.get 0), cc := (List.range 128).map (x.cc.get 0), ck := x.ck }
/-- The value of an accumulator's word. -/
def accVal (int : Bool) (w : Word) : Num := if int then .ofInt w.toInt else fp32 w

/-- R250: one RNE rounding to fp32, or reduction modulo 2^32. -/
def roundAcc (int : Bool) (x : Num) : Word := if int then BitVec.ofInt 32 x.toInt else round32 x

/-- R121, R130: one addition into an accumulator. -/
def accStep (int : Bool) (acc : Word) (x : Num) : Word :=
  if int then BitVec.ofInt 32 (acc.toInt + x.toInt) else flush32 (round32 ((fp32 acc).add x))

/-- R130: the exact sum of the products of each block of 32. -/
def blockSums : Nat → List Num → List Num → List Num
  | 0, _, _ => []
  | n + 1, v, w =>
    sumNum (List.zipWith Num.mul (v.take 32) (w.take 32)) :: blockSums n (v.drop 32) (w.drop 32)

/-- R130: Acc(x, v, w): products one by one, or for MX types block by block. -/
def accumulate (int mx : Bool) (x : Word) (v w : List Num) : Word :=
  (if mx then blockSums 4 v w else List.zipWith Num.mul v w).foldl (accStep int) x

/-- A row of stationary weights. -/
def weightRow (m : SMap Num) (n : Nat) : List Num := (List.range 128).map fun k => m.get .zero (128 * n + k)
/-- The check weights. -/
def Arr.checkWeights (a : Arr) : List Num :=
  (List.range 128).map fun k => accVal (tyIsInt a.activeTy) (a.wchk.get 0 k)

/-- R253: a check beat. -/
def Arr.checkBeat (a : Arr) (n : Nat) : Arr :=
  let x := a.acc n
  if !x.pending then a
  else
    let mx := tyIsMx a.activeTy
    let s := (List.range 128).map fun k => accVal x.int (x.sums.get 0 k)
    let cc := (List.range 128).foldl (fun (m : SMap Word) j =>
      m.put j (accumulate x.int mx (m.get 0 j) s (weightRow a.active j))) x.cc
    a.updAcc n fun x => { x with cc, ck := accumulate x.int mx x.ck s a.checkWeights, sums := []
                                 pending := false, verdict := none }

/-- R251: the shadow weights after an MPUSH. -/
def Arr.push (a : Arr) (t : BitVec 4) (row : Nat) (vals : List Num) : Arr :=
  let base := if t = a.shadowTy then a.shadow else []
  { a with shadowTy := t
           shadow := vals.zipIdx.foldl (fun (m : SMap Num) (v, k) => m.put (128 * row + k) v) base }

/-- R251: MSHIFT. -/
def Arr.shift (a : Arr) : Arr :=
  let a := (List.range 8).foldl Arr.checkBeat a
  let int := tyIsInt a.shadowTy
  let rows := (List.range 128).map (weightRow a.shadow)
  let wchk := (List.range 128).map fun k => (k, roundAcc int (sumNum (rows.map fun r => r.getD k .zero)))
  { a with active := a.shadow, activeTy := a.shadowTy, wchk }

/-- R252: one A row into an accumulator. -/
def Arr.maccRow (a : Arr) (n : Nat) (i : Nat) (v : List Num) : Arr :=
  let mx := tyIsMx a.activeTy
  let cw := a.checkWeights
  a.updAcc n fun x =>
    let data := (List.range 128).foldl (fun (m : SMap Word) j =>
      m.put (128 * i + j) (accumulate x.int mx (m.get 0 (128 * i + j)) v (weightRow a.active j))) x.data
    let sums := v.zipIdx.foldl (fun (m : SMap Word) (w, k) =>
      m.put k (roundAcc x.int ((accVal x.int (m.get 0 k)).add w))) x.sums
    { x with data, sums, rc := x.rc.put i (accumulate x.int mx (x.rc.get 0 i) v cw)
             pending := true, verdict := none }

/-- R254: MCLR. -/
def Arr.clear (a : Arr) (n : Nat) (int : Bool) : Arr := a.updAcc n fun _ => { int }

/-- R250: the check beat, the end of a chain, and the release of the array. -/
def Arr.endChain (a : Arr) (n task : Nat) : Arr :=
  let a := a.checkBeat n
  let ending := dropFirst (n, task) a.ending
  let held := a.chains.any (fun c => c.2 == task) || ending.any (fun c => c.2 == task)
  { a with ending, holder := if held then a.holder else none }

/-- R251 to R253: the effect of an operation. -/
def Arr.land (a : Arr) (op : MOp) : Arr :=
  match op.kind with
  | .push t row vals => a.push t row vals
  | .shift => a.shift
  | .macc n rows => rows.foldl (fun a (i, v) => a.maccRow n i v) a
  | .clr n int => a.clear n int
  | .endChain n => a.endChain n op.task
  | .drain _ _ _ => a
  | .row _ => a

/-- The accumulator an operation acts on. -/
def MOpKind.accNo : MOpKind → Option Nat
  | .push _ _ _ => none
  | .shift => none
  | .macc n _ => some n
  | .clr n _ => some n
  | .endChain n => some n
  | .drain n _ _ => some n
  | .row n => some n

/-- R193, R255: the place of a slot that waits: it lands nothing of its own. -/
def MOpKind.isPlace : MOpKind → Bool
  | .drain _ _ _ => true
  | .row _ => true
  | .push _ _ _ => false
  | .shift => false
  | .macc _ _ => false
  | .clr _ _ => false
  | .endChain _ => false

/-- R264, R425: the array of a core that freezes: the place of a slot that is re-entered on resumption returns to
the head of the queue; what has started finishes. -/
def Arr.frozen (a : Arr) : Arr :=
  { a with running := a.running.filter fun op => !op.kind.isPlace
           queue := (a.running.filter fun op => op.kind.isPlace) ++ a.queue }

/-- R256: an operation does not start before the effects of the other have landed: on one accumulator, and on
either side of an MSHIFT. -/
def MOpKind.awaits (a b : MOpKind) : Bool :=
  a == .shift || b == .shift || (a.accNo.isSome && a.accNo == b.accNo)

/-- R256: operations issued and not yet landed, in order. -/
def Arr.inFlight (a : Arr) : List MOp := a.running ++ a.queue
/-- R256: some operation on an accumulator has not landed; MSHIFT acts on every accumulator. -/
def Arr.busyOn (a : Arr) (n : Nat) : Bool :=
  a.inFlight.any fun op => op.kind.accNo == some n || op.kind == .shift

/-- R256: the shadow and active type, and an accumulator's KIND, at an operation's issue position. -/
def Arr.typesAhead (a : Arr) (n : Nat) : BitVec 4 × BitVec 4 × Bool :=
  a.inFlight.foldl (fun (sh, ac, k) op =>
    match op.kind with
    | .push t _ _ => (t, ac, k)
    | .shift => (sh, sh, k)
    | .clr m int => (sh, ac, if m == n then int else k)
    | .macc _ _ => (sh, ac, k)
    | .endChain _ => (sh, ac, k)
    | .drain _ _ _ => (sh, ac, k)
    | .row _ => (sh, ac, k)) (a.shadowTy, a.activeTy, (a.acc n).int)

/-! ## Operands (R243) -/

/-- R243: the bytes of columns `c0` to `c0 + 127` of a row, its scales and codebook. -/
def operandSpans (r : Region) (i c0 : Nat) : List (Nat × Nat) :=
  let n := min 128 (r.cols - c0)
  if r.rows ≤ i || n == 0 then []
  else rowSpan r i c0 n
    :: (if tyIsMx r.ty then [(r.scale + i * r.sstride + c0 / 32, (n + 31) / 32)] else []) ++ r.codeSpans

/-- R121, R243: an element's value, flushed before any scale applies. -/
def operandVal (t : BitVec 4) (cb : List Word) (scale : Nat) (w : Word) : Num :=
  if t == 5 then cbVal cb (w.toNat % 16)
  else if tyIsMx t then
    let e := tyElemOf t
    (flushVal e (valOf e w)).mul (scaleVal scale)
  else flushVal t (valOf t w)

/-- R243: Elem(d, i, c0 + k) for k below 128. A codebook's 32 bytes are read where its pointer stands, and a
row where its pitch puts it: R249 names no fault for a pointer that is not 32-byte aligned, nor for a pitch that
is no multiple of 4 or is below the packed row (DESIGN CHOICE, notes/assumptions/55.md). -/
def operandRow (r : Region) (rd : Nat → Nat → List Byte) (i c0 : Nat) : List Num :=
  let n := min 128 (r.cols - c0)
  if r.rows ≤ i || n == 0 then List.replicate 128 .zero
  else
    let sp := rowSpan r i c0 n
    let ws := unpackRow r.ty (rd sp.1 sp.2) (c0 * tyWidth r.ty % 8 / tyWidth r.ty) n
    let scales := if tyIsMx r.ty then
        (rd (r.scale + i * r.sstride + c0 / 32) ((n + 31) / 32)).map BitVec.toNat
      else []
    let cb := if r.ty == 5 then codebookOf (rd r.codebook 32) else []
    ws.zipIdx.map (fun (w, k) => operandVal r.ty cb (scales.getD (k / 32) 127) w)
      ++ List.replicate (128 - n) .zero

/-- R260: the sparsity bitmap's bit of a row and K block: its number from the first byte. -/
def bitmapBit (r : Region) (i b : Nat) : Nat := i * (64 * (((r.cols + 31) / 32 + 63) / 64)) + b
/-- R260: the bytes of a bitmap that a row's four blocks take. -/
def bitmapSpan (r : Region) (bm i t : Nat) : Nat × Nat :=
  (bm + bitmapBit r i (4 * t) / 8, bitmapBit r i (4 * t + 3) / 8 - bitmapBit r i (4 * t) / 8 + 1)
/-- R260: a row with its zero blocks read as +0. -/
def sparseRow (r : Region) (rd : Nat → Nat → List Byte) (bm i t : Nat) (v : List Num) : List Num :=
  v.zipIdx.map fun (x, k) =>
    let bit := bitmapBit r i (4 * t + k / 32)
    if (leNat (rd (bm + bit / 8) 1)) / 2 ^ (bit % 8) % 2 == 1 then x else .zero

/-- R243: the first byte of spans outside windows 0x0, 0x1 and 0x2. -/
def outsideWindows (u : Nat) (spans : List (Nat × Nat)) : Option Nat :=
  let bad (a : Nat) : Bool := match placeOf (isCcc u) (ad a) with
    | .ownPad _ => false
    | .sram _ => false
    | .pad _ _ => false
    | .bad => true
    | .hbm _ => true
    | .host _ => true
    | .slice _ _ _ => true
  ((piecesOfSpans spans).find? fun p => bad p.1).map Prod.fst

/-! ## Issue checks (R249) -/

/-- R250: the task has an open chain on an accumulator: until its MEND commits. Between that and the MEND's
completion, for which R193 holds the chain open, a VACC or a VACCW of the same task waits and does not raise
ACCSELF (DESIGN CHOICE, notes/assumptions/56.md). -/
def Arr.opened (a : Arr) (n task : Nat) : Bool := a.chains.contains (n, task)
/-- R193, R245: a chain of some other task is open on an accumulator. -/
def Arr.openedElse (a : Arr) (n task : Nat) : Bool :=
  (a.chains ++ a.ending).any fun c => c.1 == n && c.2 != task
/-- R265. -/
def State.nochain (s : State) (n : Nat) (weights : Bool) : State :=
  s.trap 0x42 (BitVec.ofNat 32 (n + if weights then 8 else 0))
/-- R265. -/
def State.accopen (s : State) (n : Nat) : State := s.trap 0x43 (BitVec.ofNat 32 n)
/-- R265. -/
def State.mtype (s : State) (t : BitVec 4) (why : Nat) : State := s.trap 0x44 (BitVec.ofNat 32 (t.toNat + 256 * why))
/-- R265. -/
def State.moper (s : State) (why : Nat) (addr : Option Nat := none) : State :=
  s.trap 0x45 (BitVec.ofNat 32 why) (addr.map ad)

/-- R256: an operation enters the M queue and the slot commits. -/
def State.enqueueM (s : State) (kind : MOpKind) : State :=
  (s.updArr s.unit fun a => { a with queue := a.queue ++ [{ kind, key := s.cur, task := s.taskNo }] }).ends .done

/-- R256: the M queue is full. -/
def State.mFull (s : State) : Bool := 8 ≤ (s.arr.queue.filter fun op => op.kind != .row (op.kind.accNo.getD 0)).length

/-- R193, R255: the place that a context holds on an accumulator. -/
def MOp.placeOf (op : MOp) (key n : Nat) : Bool := op.key == key && op.kind.isPlace && op.kind.accNo == some n
/-- R256: a context's place on an accumulator has come to its turn. -/
def Arr.inTurn (a : Arr) (key n : Nat) : Bool := a.running.any (·.placeOf key n)
/-- R256: a context's place on an accumulator is given up. -/
def Arr.leave (a : Arr) (key n : Nat) : Arr :=
  { a with queue := a.queue.filter fun op => !op.placeOf key n, running := a.running.filter fun op => !op.placeOf key n }

/-- R256: the acting slot gives up the place that it holds on an accumulator, if it holds one. -/
def State.leavePlace (s : State) (n : Nat) : State :=
  if s.arr.inFlight.any (·.placeOf s.cur n) then s.updArr s.unit fun a => a.leave s.cur n else s

/-- R193, R255: the acting slot takes a place in the order of an accumulator's operations. -/
def State.takePlace (s : State) (kind : MOpKind) : State :=
  let op : MOp := { kind, key := s.cur, task := s.taskNo, addr := unitsAddr s.ctx.pc }
  s.updArr s.unit fun a => if a.inFlight.any (·.placeOf s.cur (kind.accNo.getD 0)) then a else { a with queue := a.queue ++ [op] }

/-- R193, R256: the acting slot may act on an accumulator: nothing earlier is left to land. -/
def State.myTurn (s : State) (n : Nat) : Bool := s.arr.inTurn s.cur n || !s.arr.busyOn n

/-- R208: applies what can be applied of the stores that the acting context issued in earlier bundles. -/
def State.drainEarlier (s : State) : Nat → State
  | 0 => s
  | n + 1 =>
    let old := s.ctx.storeBuf.filter (·.seq < s.ctx.seq)
    let (s', done) := s.applyFirst s.cur [] old
    if done then State.drainEarlier s' n
    else old.foldl (fun s e =>
      match s.guardOf [(s.flat s.unit (s.sessionOf s.unit) e.va, e.bytes.length)] none with
      | some m => s.protectiveForce m.handle
      | none => s) s

/-- R208, R244: the operand reads wait for the context's earlier stores to them. -/
def State.operandsReady (s : State) (spans : List (Nat × Nat)) : State × Bool :=
  if spans.any fun p => s.storeTouching s.cur s.ctx.seq p.1 p.2 then
    let s := s.drainEarlier 64
    if spans.any fun p => s.storeTouching s.cur s.ctx.seq p.1 p.2 then (s.stallFor 4 .storesApplied, false) else (s, true)
  else (s, true)

/-- A reader for the acting context's engine reads. -/
def State.reader (s : State) (p : Party) : Nat → Nat → List Byte := fun a n => s.engineBytes p a n

/-- R249, R251. -/
def State.mpush (s : State) (f : MFields) : State :=
  let d := s.rdD f.d.toNat
  let r := regionOf d 0
  let row := f.row.toNat
  let c0 := 128 * f.stream.toNat
  let spans := operandSpans r row c0
  if !s.arr.chains.any (fun c => c.2 == s.taskNo) then s.nochain 0 true
  else if (groupSize r.ty).isNone then s.mtype r.ty 1
  else match outsideWindows s.unit spans with
    | some a => s.moper 1 (some a)
    | none =>
      if tyIsMx r.ty && r.cols % 32 != 0 then s.moper 3
      else if s.mFull then s.stallFor 6 .array
      else match s.operandsReady spans with
        | (s, false) => s
        | (s, true) =>
          s.enqueueM (.push r.ty row (operandRow r (s.reader (s.partyOf s.cur)) row c0))
/-- R251. -/
def execMpush (f : MFields) (s : State) : Out := .next (s.mpush f)

/-- R251. -/
def State.mshift (s : State) : State :=
  if !s.arr.chains.any (fun c => c.2 == s.taskNo) then s.nochain 0 true
  else if s.mFull then s.stallFor 6 .array
  else s.enqueueM .shift
/-- R251. -/
def execMshift (_f : MFields) (s : State) : Out := .next s.mshift

/-- R252, R260: the rows that a MACC covers. -/
def maccRows (f : MFields) (g : Nat) : List Nat :=
  (List.range (if f.flags.getLsbD 0 then 4 * g else g)).map (f.row.toNat + ·)

/-- R249, R252, R260. -/
def State.macc (s : State) (f : MFields) : State :=
  let d := s.rdD f.d.toNat
  let r := regionOf d 0
  let n := f.acc.toNat
  let sp := f.flags.getLsbD 0
  let t := f.stream.toNat
  let (_, active, int) := s.arr.typesAhead n
  if !s.arr.opened n s.taskNo then s.nochain n false
  else match groupSize r.ty with
  | none => s.mtype r.ty 1
  | some g =>
    let rows := maccRows f g
    let spans := rows.flatMap fun i =>
      operandSpans r i (128 * t) ++ if sp && i < r.rows then [bitmapSpan r (dBitmap d) i t] else []
    if r.ty != active then s.mtype r.ty 2
    else if tyIsInt r.ty != int then s.mtype r.ty 3
    else match outsideWindows s.unit spans with
    | some a => s.moper 1 (some a)
    | none =>
      if sp && dBitmap d % 8 != 0 then s.moper 1 (some (dBitmap d))
      else if f.row.toNat % rows.length != 0 || 128 < f.row.toNat + rows.length then s.moper 2
      else if tyIsMx r.ty && r.cols % 32 != 0 then s.moper 3
      else if s.mFull then s.stallFor 6 .array
      else match s.operandsReady spans with
        | (s, false) => s
        | (s, true) =>
          let rd := s.reader (s.partyOf s.cur)
          s.enqueueM (.macc n (rows.map fun i =>
            let v := operandRow r rd i (128 * t)
            (i, if sp && i < r.rows then sparseRow r rd (dBitmap d) i t v else v)))
/-- R252. -/
def execMacc (f : MFields) (s : State) : Out := .next (s.macc f)

/-- R246, R254, R255: another task's chain, or the evaluator on acc7, keeps the slot waiting. -/
def State.accBlocked (s : State) (n : Nat) : Bool :=
  s.arr.openedElse n s.taskNo || (n == 7 && s.arr.evaluator.isSome)

/-- R254. -/
def execMclr (f : MFields) (s : State) : Out :=
  let n := f.acc.toNat
  .next (if s.accBlocked n then s.blockFor 4 (.accumulator n)
    else if s.mFull then s.stallFor 6 .array
    else s.enqueueM (.clr n (f.flags.getLsbD 0)))

/-- R262: pending retirements are applied when the array is taken. -/
def Arr.applyRetired (a : Arr) : Arr := { a with applied := a.retired.length }

/-- R250: MCHAIN commits once its task holds the array. -/
def State.mchain (s : State) (n : Nat) : State :=
  let a := s.arr
  if a.opened n s.taskNo then s.accopen n
  else
    let free := a.holder.isNone && a.evaluator.isNone && a.evalWaiting.isEmpty
      && (a.waiting.isEmpty || a.waiting.head? == some s.cur)
    if a.holder == some s.taskNo then
      (s.updArr s.unit fun a => { a with chains := a.chains ++ [(n, s.taskNo)]
                                         waiting := a.waiting.filter (· != s.cur) }).ends .done
    else if free then
      (s.updArr s.unit fun a => { a.applyRetired with
        holder := some s.taskNo, chains := a.chains ++ [(n, s.taskNo)]
        waiting := a.waiting.filter (· != s.cur) }).ends .done
    else
      (s.updArr s.unit fun a => { a with
        waiting := if a.waiting.contains s.cur then a.waiting else a.waiting ++ [s.cur] }).blockFor 4 .array
/-- R250. -/
def execMchain (f : MFields) (s : State) : Out := .next (s.mchain f.acc.toNat)

/-- R250: MEND commits at issue. -/
def State.mend (s : State) (n : Nat) : State :=
  if !s.arr.opened n s.taskNo then s.nochain n false
  else if s.mFull then s.stallFor 6 .array
  else
    (s.updArr s.unit fun a => { a with chains := dropFirst (n, s.taskNo) a.chains
                                       ending := a.ending ++ [(n, s.taskNo)] }).enqueueM (.endChain n)
/-- R250. -/
def execMend (f : MFields) (s : State) : Out := .next (s.mend f.acc.toNat)

/-! ## Drains (R255, R257 to R259) -/

/-- R261: physical row of a logical row, with the applied retirements. -/
def Arr.physical (a : Arr) (l : Nat) : Nat :=
  (((List.range 132).filter fun p => !(a.retired.take a.applied).contains p)[l]?).getD l

/-- R261, R262: one located error charged to a logical row. -/
def Arr.charge (a : Arr) (l : Nat) : Arr :=
  let p := a.physical l
  let n := a.cnt.get 0 p
  let fresh := n == 0 || decide (2 ^ 20 ≤ (a.verdicts - a.first.get 0 p).toNat)
  let n' := if fresh then 1 else n + 1
  let a := { a with cnt := a.cnt.put p n', first := if fresh then a.first.put p a.verdicts else a.first }
  if n' != 3 || a.retired.contains p then a
  else if a.retired.length < 3 then { a with retired := a.retired ++ [p] }
  else { a with degraded := true }

/-- R257, R261: a verdict is counted and its errors are charged. -/
def Arr.countVerdict (a : Arr) (fs : List Fix) : Arr :=
  (fs.map Fix.row).foldl Arr.charge { a with verdicts := a.verdicts + 1 }

/-- R257: a drained value: rounded and flushed. -/
def drainVal (t : BitVec 4) (sat int : Bool) (w : Word) : Num :=
  if int then .ofInt w.toInt else flushVal t (valOf t (BitVec.ofNat 32 (roundTo t 0 sat 0 (fp32 w))))
/-- The raw bits of a drained value. -/
def drainRaw (t : BitVec 4) (x : Num) : Word :=
  if tyIsInt t then BitVec.ofInt 32 x.toInt else BitVec.ofNat 32 (roundTo t 0 true 0 x)
/-- R139: a correction's value: rounded once, saturating, to the drain type. -/
def drainPlace (t : BitVec 4) (x : Num) : Num :=
  if tyIsInt t then .ofInt (BitVec.ofInt 32 x.toInt).toInt else valOf t (BitVec.ofNat 32 (roundTo t 0 true 0 x))

/-- The raw bits of a value that keeps infinities: as first rounded. -/
def keptRaw (t : BitVec 4) (x : Num) : Word :=
  if tyIsInt t then BitVec.ofInt 32 x.toInt else BitVec.ofNat 32 (roundTo t 0 false 0 x)

/-- R257: the tile test of an accumulator for a drain type. -/
def Acc.test (x : Acc) (t : BitVec 4) (sat : Bool) : Tested :=
  testTile (toleranceOf t) 128 (x.rows.map fun r => r.map (drainVal t sat x.int)) x.checks
    fun _ _ v => drainPlace t v

/-- R257, R259: what the test corrects. -/
def Acc.fixes (x : Acc) (t : BitVec 4) (sat : Bool) (located : List (Nat × Nat × Num)) : List Fix :=
  fixesOf (toleranceOf t) 128 (x.rows.map fun r => r.map (drainVal t sat x.int)) x.checks located

/-- R257, R265: failing rows and columns of the test. -/
def Acc.failing (x : Acc) (t : BitVec 4) (sat : Bool) : Nat × Nat :=
  let g := x.rows.map fun r => r.map (drainVal t sat x.int)
  ((badRows (toleranceOf t) g x.checks).length, (badCols (toleranceOf t) 128 g x.checks).length)

/-- R265: CHKUNC's TCODE. -/
def chkuncCode (n r c : Nat) : Word := BitVec.ofNat 32 (n + min r 255 * 256 + min c 255 * 65536)

/-- R256, R257: the first MDRAIN whose turn has come and whose verdict is not kept has its accumulator
tested. -/
def Arr.beginTest (a : Arr) : Arr :=
  if a.deciding.isSome || a.uncorrectable.isSome then a
  else
    let todo := a.running.findSome? fun op => match op.kind with
      | .drain n ty sat =>
        if (a.acc n).verdict.any fun v => v.ty == ty && v.sat == sat then none else some (op, n, ty, sat)
      | _ => none
    match todo with
    | none => a
    | some (op, n, ty, sat) =>
      { a with deciding := some (n, ty, sat), asker := { kind := 0, key := op.key, slot := 6, addr := op.addr } }

/-- R257: the test of a waiting MDRAIN is decided, with what it corrects. The model has no upsets, so
three attempts read alike. -/
def Arr.decide (a : Arr) : Arr × List Fix :=
  match a.deciding with
  | none => (a, [])
  | some (n, t, sat) =>
    let x := a.acc n
    match x.test t sat with
    | .bad =>
      let (r, c) := x.failing t sat
      ({ a.countVerdict [] with deciding := none, uncorrectable := some (n, t, sat, r, c) }, [])
    | .good g _ located =>
      let fs := x.fixes t sat located
      let a := a.countVerdict fs
      let rows := g.map fun r => r.map (keptRaw t)
      ({ a.updAcc n fun x => { x with verdict := some { ty := t, sat, rows } } with deciding := none }, fs)

/-- R257, R479. -/
def execDrainVerdict (unit : Nat) (s : State) : Out :=
  let (a, fs) := (s.arrAt unit).decide
  .next ((s.updArr unit fun _ => a).traceFixes a.asker.key a.asker.slot a.asker.addr 0 true fs)

/-- R255: the writes of an MDRAIN: the row, and with LAST the trailer over the whole region. -/
def drainWrites (r : Region) (rd : Nat → Nat → List Byte) (i : Nat) (last : Bool) (rows : List (List Word)) :
    List (Nat × List Byte) :=
  let sp := rowSpan r i 0 r.cols
  let row := (sp.1, packRow r.ty (rd sp.1 sp.2) 0 ((rows.getD i []).take r.cols))
  if last then
    let g := (rows.take r.rows).map fun w => (w.take r.cols).map (valOf r.ty)
    [row, (r.base + r.trailer, trailerPadded r.ty r.rows r.cols (makeSums (tyIsInt r.ty) r.cols g))]
  else [row]

/-- R249: the bytes of an MDRAIN. -/
def drainSpans (r : Region) (i : Nat) (last : Bool) : List (Nat × Nat) :=
  rowSpan r i 0 r.cols :: if last then [(r.base + r.trailer, trailerSpace r.rows r.cols)] else []

/-- R132: a trailer offset that breaks its rule. -/
def trailerBad (r : Region) : Bool :=
  r.trailer % 256 != 0 || decide (r.trailer < (r.rows - 1) * r.pitch + packedSize r.ty r.cols)

/-- R244, R255: a row is written, with LAST the trailer, after the context's earlier stores to them; the slot
then leaves its place. -/
def State.drainRow (s : State) (f : MFields) (r : Region) (v : Verdict) : State :=
  let row := f.row.toNat
  let last := f.flags.getLsbD 0
  let p := s.partyOf s.cur
  let spans := drainSpans r row last
  match s.operandsReady spans with
  | (s, false) => s
  | (s, true) =>
    match s.guardOf (s.flatSpans s.unit p.session spans) none with
    | some m => (s.protectiveForce m.handle).stallFor 4 (.turn f.acc.toNat)
    | none =>
      let s := s.engineWrite p (drainWrites r (s.reader p) row last v.rows)
      (s.leavePlace f.acc.toNat).ends .done

/-- R255, R256: the row is written, or the test found it uncorrectable, or the slot waits in its place for its
turn and its verdict. -/
def State.drain (s : State) (f : MFields) (r : Region) : State :=
  let n := f.acc.toNat
  let sat := f.flags.getLsbD 1
  let a := s.arr
  let waits := (s.takePlace (.drain n r.ty sat)).stallFor 4 (.turn n)
  if !s.myTurn n then waits
  else match (a.acc n).verdict.filter fun v => v.ty == r.ty && v.sat == sat with
    | some v => s.drainRow f r v
    | none =>
      match a.uncorrectable with
      | some (n', t, sat', rows, cols) =>
        if n' == n && t == r.ty && sat' == sat && a.inTurn s.cur n then
          (s.updArr s.unit fun a => { a.leave s.cur n with uncorrectable := none }).trap 0x41 (chkuncCode n rows cols)
        else waits
      | none => waits

/-- R249, R255. -/
def State.mdrain (s : State) (f : MFields) : State :=
  let r := regionOf (s.rdD f.d.toNat) 0
  let n := f.acc.toNat
  let row := f.row.toNat
  let last := f.flags.getLsbD 0
  let (_, _, int) := s.arr.typesAhead n
  if s.arr.opened n s.taskNo then s.accopen n
  else if !drainFits int r.ty then s.mtype r.ty 3
  else match outsideWindows s.unit (drainSpans r row last) with
    | some a => s.moper 1 (some a)
    | none =>
      if 128 < r.rows || 128 < r.cols then s.moper 3
      else if r.rows ≤ row then s.moper 2
      else if last && trailerBad r then s.moper 4
      else if s.accBlocked n then s.blockFor 4 (.accumulator n)
      else s.drain f r
/-- R255. -/
def execMdrain (f : MFields) (s : State) : Out := .next (s.mdrain f)

/-! ## The array's events (R245, R250, R256) -/

/-- R256: the first operation of the queue starts, once the effects that it waits for have landed. While its launch is
being pre-empted an operation that has not started stays queued, and is saved so (R264). -/
def execMOpStart (unit : Nat) (s : State) : Out :=
  if (s.launchOn (clusterOf unit)).any (·.st == .preempting) then .next s else
  match (s.arrAt unit).queue with
  | [] => .next s
  | op :: rest =>
    if (s.arrAt unit).running.any fun x => op.kind.awaits x.kind then .next s
    else
      let (due, s) := s.laterDue
      .next (s.updArr unit fun a => { a with queue := rest, running := a.running ++ [{ op with due }] })

/-- R256: the first started operation's effect lands. -/
def execMOpLand (unit : Nat) (s : State) : Out :=
  match (s.arrAt unit).running.find? (!·.kind.isPlace) with
  | none => .next s
  | some op =>
    if s.cycle < op.due then .next s
    else .next (s.updArr unit fun a => { a with running := dropFirst op a.running }.land op)

/-- R245: a released array goes to a waiting evaluation, else to the MCHAIN that issued first. -/
def execArrayRelease (unit : Nat) (s : State) : Out :=
  let a := s.arrAt unit
  if a.holder.isSome || a.evaluator.isSome then .next s
  else match a.evalWaiting, a.waiting with
    | e :: es, _ =>
      .next (s.updArr unit fun a =>
        if s.evals.any (·.id == e) then { a.applyRetired with evaluator := some e, evalWaiting := es }
        else { a with evalWaiting := es })
    | [], key :: _ =>
      match (s.ctxAt key).task with
      | some t => .next (s.updArr unit fun a => { a.applyRetired with holder := some t.uid })
      | none => .next (s.updArr unit fun a => { a with waiting := a.waiting.filter (· != key) })
    | [], [] => .next s

/-! ## VACC and VACCW (R192 to R194) -/

/-- R193: the accumulator that VACC and VACCW name. -/
def accNo (x : BitVec 5) : Nat := x.toNat % 8

/-- R192: the row of a VACC after its test: none when it is uncorrectable. -/
def Acc.verifiedRow (x : Acc) (i : Nat) : Option (List Word × List Fix) :=
  let t : BitVec 4 := if x.int then 6 else 0
  let g := x.rows.map fun r => r.map (accVal x.int)
  let row := (List.range 128).map fun j => x.at' i j
  if lineOk (toleranceOf t) (row.map (accVal x.int)) (x.rc.get 0 i) then some (row, [])
  else
    match testTile (toleranceOf t) 128 g x.checks
        (fun _ _ v => drainPlace t v) with
    | .bad => none
    | .good _ _ located =>
      let fixed := located.foldl (fun (r : List Word) (a, b, v) => if a == i then r.set b (keptRaw t v) else r) row
      some (fixed, fixesOf (toleranceOf t) 128 g x.checks located)

/-- R193, R256: a row access of the acting slot that has come to its end, in state `t`, gives up its place. -/
def State.rowTurn (n : Nat) (t : State) : State :=
  match t.flow with
  | .wait => t
  | _ => t.leavePlace n

/-- R192: VACC; m[2] is `.peek`. -/
def State.vacc (s : State) (f : VFields) : State :=
  let n := accNo f.va
  let i := (s.opSc f).toNat
  let x := s.arr.acc n
  let peek := f.m.getLsbD 2
  if !peek && s.accBlocked n then s.blockFor 4 (.accumulator n)
  else if !peek && !s.myTurn n then (s.takePlace (.row n)).stallFor 2 (.turn n)
  else if 128 ≤ i then s.lenmis 128 i
  else if !peek && s.arr.opened n s.taskNo then s.trap 0x24 (BitVec.ofNat 32 n)
  else if f.ty != (if x.int then 6 else 0) then s.mtype f.ty 3
  else
    let raw := (List.range 128).map fun j => x.at' i j
    let out (s : State) (ws : List Word) : State :=
      let r := coalesceWords ws
      s.vectorOut [.v f.vd.toNat r] r.length
    if peek then out s raw
    else match x.verifiedRow i with
      | none =>
        let (r, c) := x.failing (if x.int then 6 else 0) false
        (s.updArr s.unit fun a => a.countVerdict []).trap 0x41 (chkuncCode n r c)
      | some (ws, fs) =>
        out ((s.updArr s.unit fun a => a.countVerdict fs).traceFixes s.cur s.slot (unitsAddr s.ctx.pc) 0 true fs) ws
/-- R192. -/
def execVacc (f : VFields) (s : State) : Out := .next (State.rowTurn (accNo f.va) (s.vacc f))

/-- R194: the accumulator after a row is written. -/
def Acc.writeRow (x : Acc) (i : Nat) (ws : List Word) : Acc :=
  let new := ws.map fun w => if x.int then w else flush32 w
  let fix (check old new : Word) : Word :=
    roundAcc x.int (((accVal x.int check).sub (accVal x.int old)).add (accVal x.int new))
  let cc := new.zipIdx.foldl (fun (m : SMap Word) (w, j) => m.put j (fix (m.get 0 j) (x.at' i j) w)) x.cc
  let data := new.zipIdx.foldl (fun (m : SMap Word) (w, j) => m.put (128 * i + j) w) x.data
  let rcNew := roundAcc x.int (sumNum (new.map (accVal x.int)))
  { x with data, cc, rc := x.rc.put i rcNew, ck := fix x.ck (x.rc.get 0 i) rcNew, verdict := none }

/-- R194. -/
def State.vaccw (s : State) (f : VFields) : State :=
  let n := accNo f.vd
  let i := (s.opSc f).toNat
  let v := s.rdV f.va.toNat
  let len := RunVec.len v
  let x := s.arr.acc n
  if s.accBlocked n then s.blockFor 4 (.accumulator n)
  else if !s.myTurn n then (s.takePlace (.row n)).stallFor 2 (.turn n)
  else if 128 < len || (len < 128 && !f.ext) then s.lenmis (min len 128) (max len 128)
  else if 128 ≤ i then s.lenmis 128 i
  else if s.arr.opened n s.taskNo then s.trap 0x24 (BitVec.ofNat 32 n)
  else if f.ty != (if x.int then 6 else 0) then s.mtype f.ty 3
  else
    let ws := RunVec.elems (RunVec.extend v 128)
    (s.updArr s.unit fun a => a.updAcc n fun x => x.writeRow i ws).vectorOut [] v.length
/-- R194. -/
def execVaccw (f : VFields) (s : State) : Out := .next (State.rowTurn (accNo f.vd) (s.vaccw f))

end Sys2Proof.Machine
end

