-- ==== Sys2Proof/Machine/Requests.lean ====
section
/-! DEFINITION. What the engines share: descriptor checks (R269), the issue and the completion of
requests (R109, R112, R307), engine faults (R302, R310), events and job counters (R411, R413). -/

namespace Sys2Proof.Machine

/-! ## Descriptors at issue (R269) -/

/-- R269: how a check treats a descriptor. -/
structure DescUse where
  /-- FORCE ignores condition 5 and the scales. -/
  types : Bool := true
  /-- Condition 4 holds only for a TRAILER that is not zero. -/
  optTrailer : Bool := false

/-- R269: the region bits that every byte of a region shares. -/
def regionBits (a : Nat) : Nat := if a / 2 ^ 52 == 8 then a / 2 ^ 50 else a / 2 ^ 52 * 4

/-- R269: the extreme bytes of the data and trailers of a region, and of its scales. -/
def Region.extremes (r : Region) (scales : Bool) : List Nat :=
  (r.marked ++ if scales then r.allScales else []).flatMap fun (a, n) => if n = 0 then [] else [a, a + n - 1]

/-- R132, R269: condition 4. -/
def trailerWrong (r : Region) (u : DescUse) : Bool :=
  if r.trailer == 0 then !u.optTrailer else trailerBad r

/-- R269: condition 5. -/
def typeWrong (r : Region) : Bool :=
  (r.ty == 5 && r.codebook % 32 != 0) || (tyIsMx r.ty && (r.scale == 0 || r.tc % 32 != 0))

/-- R269: the number of the first condition that holds. -/
def descBad (d : BitVec 512) (u : DescUse) : Option Nat :=
  let r := regionOf d 0
  if !reservedZero d then some 1
  else if r.rows == 0 || r.cols == 0 || r.rows % r.tr != 0 || r.cols % r.tc != 0 then some 2
  else if r.pitch % 4 != 0 || r.pitch < packedSize r.ty r.cols then some 3
  else if trailerWrong r u then some 4
  else if u.types && typeWrong r then some 5
  else if (r.extremes u.types).any fun a => regionBits a != regionBits r.base then some 6
  else none

/-- R269: checks descriptors in turn; the TCODE of the first that is bad. -/
def State.descsBad (s : State) (u : DescUse) : List (BitVec 4) → Option Word
  | [] => none
  | n :: ns =>
    match descBad (s.rdD n.toNat) u with
    | some c => some (BitVec.ofNat 32 (c + n.toNat * 16))
    | none => State.descsBad s u ns

/-- R269: DESCBAD. -/
def State.descbad (s : State) (code : Word) : State := s.trap 0x54 code

/-- R312: the region or window that holds a byte, when requests may use it. -/
def homeOf (u a : Nat) : Option Nat :=
  match placeOf (isCcc u) (ad a) with
  | .bad => none
  | .hbm d => some d
  | .host _ => some 8
  | .ownPad _ => some 16
  | .sram _ => some 17
  | .pad _ _ => some 18
  | .slice _ _ _ => some 20

/-- R312: a range lies within one region or one window. -/
def oneHome (u a n : Nat) : Bool :=
  (homeOf u a).isSome && homeOf u a == homeOf u (a + n - 1)

/-- R312: every byte of spans lies within one region or window. -/
def spansHome (u : Nat) (spans : List (Nat × Nat)) : Bool :=
  let ends := (spans.filter fun p => p.2 != 0).flatMap fun (a, n) => [homeOf u a, homeOf u (a + n - 1)]
  ends.all (·.isSome) && (match ends with
    | [] => true
    | h :: _ => ends.all (· == h))

/-! ## Queues of faults (R302, R310) -/

/-- R88: the launch ends; the site is given. -/
def State.fatalAt (s : State) (launch key slot cause : Nat) (addr code : Word) (inner : Nat) : State :=
  { s with fatals := s.fatals ++ [{ launch, cause, key, slot, addr, code, inner }] }

/-- R302: queues a fault record on a context; a fifth, or one that reaches a context that drains, ends
the launch. -/
def State.queueFault (s : State) (key : Nat) (f : FaultRec) : State :=
  let c := s.ctxAt key
  if c.st == .draining || c.st == .free || 4 ≤ c.faults.length then
    match s.launchOn (clusterOf (unitOf key)) with
    | none => s
    | some l => s.fatalAt l.uid key 15 0x53 (unitsAddr c.pc) f.tcode f.inner
  else s.setCtx key { c with faults := c.faults ++ [f] }

/-- R302, R396: a fault record reaches a context of a launch, in its frame while the launch is pre-empted. -/
def State.faultTo (s : State) (launch key : Nat) (f : FaultRec) : State :=
  match (s.launchBy launch).filter (·.saved.isSome) with
  | none => s.queueFault key f
  | some l =>
    let c := s.savedCtx l key
    if c.st == .free || c.held == .draining || 4 ≤ c.faults.length then
      s.fatalAt launch key 15 0x53 (unitsAddr c.pc) f.tcode f.inner
    else s.setSaved l key { c with faults := c.faults ++ [f] }

/-- A context that holds a task of the module. -/
def State.keyOfTask (s : State) (task : Nat) : Option Nat :=
  (s.ctxs.find? fun p => p.2.task.any (·.uid == task)).map Prod.fst

/-- R302, R360: a fault of a walk reaches the context that issued it, wherever its task now is, with its limit
of four records; when the task drains or has ended, the launch ends with the fault's cause. -/
def State.walkFault (s : State) (w : Walk) (f : FaultRec) : State :=
  let ended' (s : State) : State := s.fatalAt w.launch w.key w.eslot f.cause w.addr f.tcode f.inner
  match s.keyOfTask w.task with
  | some key => if (s.ctxAt key).st == .draining then ended' s else s.queueFault key f
  | none =>
    let mine (p : Parked) : Bool := p.ctx.task.any (·.uid == w.task)
    match s.units.find? (fun u => u.2.parked.any mine), s.launchBy w.launch with
    | some (u, x), some l =>
      match x.parked.find? mine with
      | none => ended' s
      | some p =>
        if 4 ≤ p.ctx.faults.length then
          s.fatalAt w.launch w.key 15 0x53 (unitsAddr (s.parkedCtx l u p).pc) f.tcode f.inner
        else s.updParked l u mine fun c => { c with faults := c.faults ++ [f] }
    | _, _ => ended' s

/-- R302, R360: a record reaches the context that a request or a walk belongs to. -/
def State.queueFor (s : State) (key req : Nat) (f : FaultRec) : State :=
  match s.walks.find? fun w => w.id == req && req != 0 with
  | some w => s.walkFault w f
  | none => s.queueFault key f

/-- Changes an engine request. -/
def State.updEng (s : State) (id : Nat) (f : EngReq → EngReq) : State :=
  { s with engs := modifyFirst (·.id == id) f s.engs }

/-- R310: a request stops. -/
def State.stopEng (s : State) (r : EngReq) : State :=
  s.updEng r.id fun r => { r with finished := true, failed := true }

/-- R239, R310: an engine fault: the request stops, and its record is queued; WORLD and a refusal of
the host windows are fatal. -/
def State.engFault (s : State) (r : EngReq) (cause : Nat) (code : Word) (addr : Nat) : State :=
  let s := s.stopEng r
  if cause == 0x33 || cause == 0x95 then s.fatalAt r.launch r.key r.slot cause r.addr code 0
  else s.queueFault r.key { cause, tcode := code, addr := ad addr }

/-- R455: a party's world, and its launch's session. -/
def State.partyReq (s : State) (r : EngReq) : Party :=
  let l := (s.launchBy r.launch).getD Launch.none
  { unit := unitOf r.key, session := l.session, launch := r.launch, secure := l.secure, req := r.id, who := r.id }

/-- R479: the correction records of a request's read. -/
def State.traceReq (s : State) (r : EngReq) (fs : List Fix) : State := s.traceFixes r.key r.slot r.addr 0 false fs

/-- R303: the demand site of a request. -/
def EngReq.site (r : EngReq) : DemandSite :=
  let kind := match r.work with
    | .force _ => 2
    | .tiles _ _ true => 3
    | _ => 4
  { kind, key := r.key, slot := r.slot, addr := r.addr, req := r.id }

/-- How a request demands. -/
def EngReq.demander (r : EngReq) : Demander := { site := some r.site }

/-- R302: the request's demand failed, and its record is already queued. -/
def State.deferredReq (s : State) (r : EngReq) : Bool := s.deferred.contains r.id

/-! ## Events and job counters (R411, R413) -/

/-- R413: an event reaches a cluster's CCC. -/
def State.postEvent (s : State) (cluster : Nat) (a b : Word) : State :=
  s.updCluster cluster fun c => { c with events := c.events ++ [(a, b)] }

/-- R413: word A. -/
def eventA (cls : Nat) (payload : Nat) : Word := BitVec.ofNat 32 (cls * 2 ^ 28 + payload % 2 ^ 28)
/-- R413: word B. -/
def eventB (key unit : Nat) : Word :=
  BitVec.ofNat 32 (clusterOf (unitOf key) + coreOf (unitOf key) * 16 + ctxOf key * 256 + unit * 2048)

/-- R411: a job counter. -/
def State.jobCount (s : State) (cluster n : Nat) : Nat := (s.clusterAt cluster).jobs.get 0 n
/-- Writes a job counter. -/
def State.setJob (s : State) (cluster n v : Nat) : State :=
  s.updCluster cluster fun c => { c with jobs := c.jobs.put n v }
/-- R411: adds to a job counter. -/
def State.jobAdd (s : State) (cluster n k : Nat) : State := s.setJob cluster n (s.jobCount cluster n + k)
/-- R411: subtracts; a counter left at zero posts a job event. -/
def State.jobSub (s : State) (cluster n k : Nat) : State :=
  let v := s.jobCount cluster n - k
  let s := s.setJob cluster n v
  if v == 0 then s.postEvent cluster (eventA 6 (n + cluster * 64)) (BitVec.ofNat 32 (6 * 2048)) else s

/-! ## Issue (R109, R112) -/

/-- R112: the release of a request's issue: the context's stores and atomics are performed and its
domain's L1 is written back; the slot waits while something keeps them. -/
def State.releaseAtIssue (s : State) : State × Bool :=
  let d := s.domain s.unit
  let s := (s.drainStores s.cur 128).writeBackAll d
  if s.ctx.stored && s.ctx.atomics.isEmpty && s.allClean d then (s, true)
  else (s.stallFor 4 (.released true), false)

/-- R109: takes a request number of a class. -/
def State.issueNumber (s : State) (cls : Nat) (promise : Option Addr) : Nat × State :=
  let n := s.ctx.issued.getD cls 0 + 1
  (n, s.upd fun c => { c with issued := c.issued.setIfInBounds cls n
                              reqs := c.reqs ++ [{ cls, num := n, promise }] })

/-- R109: Completed(c) is the largest n for which requests 1 to n are done. -/
def advanceTo (reqs : List ReqRec) (cls : Nat) : Nat → Nat → Nat
  | 0, n => n
  | fuel + 1, n =>
    if reqs.any fun r => r.cls == cls && r.num == n + 1 && r.done then advanceTo reqs cls fuel (n + 1) else n

/-- R109: a request of a context is done. -/
def Ctx.reqDone (c : Ctx) (cls num : Nat) : Ctx :=
  let reqs := modifyFirst (fun r => r.cls == cls && r.num == num) (fun r => { r with done := true }) c.reqs
  let n := advanceTo reqs cls reqs.length (c.completed.getD cls 0)
  { c with completed := c.completed.setIfInBounds cls n
           reqs := reqs.filter fun r => r.cls != cls || n < r.num }

/-- R307, R320: hands a request to its engine, which may start it from the next cycle on, later by what the
tape says; the tape also says whether congestion breaks its promise (log entry 2). -/
def State.enterEng (s : State) (cls unit : Nat) (ev : Bool) (work : EngWork) (promise : Option Addr := none)
    (handle : Option Word := none) : State :=
  let (num, s) := s.issueNumber cls promise
  let (id, s) := s.fresh
  let (wait, s) := s.choice
  let (slow, s) := s.choice
  let r : EngReq := { id, key := s.cur, slot := s.slot, addr := unitsAddr s.ctx.pc, cls, num
                      launch := s.launch.uid, cluster := s.cluster, unit, ev, handle
                      ready := s.cycle + 1 + wait, warned := s.announced.isSome, slow := slow != 0, work }
  { s with engs := s.engs ++ [r] }

/-! ## Records read at issue (R208) -/

/-- R208: bytes of a record as the context's loads see them, without the stores of its own bundle. -/
def State.recordBytes (s : State) (va n : Nat) : List Byte :=
  (pieces va n).flatMap fun (a, n) =>
    match s.l1Find s.unit a with
    | some l => (l.bytes.drop (a % 128)).take n
    | none => s.ownerRead s.unit (s.sessionOf s.unit) (ad a) n

/-- R113, R208: a record is read as a load of the context, after its earlier stores; none while it waits or
when it faults. -/
def State.readRecord (s : State) (va n align : Nat) : State × Option (List Byte) :=
  match s.lAdmit .load va n align with
  | (s, false) => (s, none)
  | (s, true) =>
    match s.operandsReady [(va, n)] with
    | (s, false) => (s, none)
    | (s, true) =>
      let bs := s.recordBytes va n
      (s.acquireAfter, some bs)

/-- R208: the first of two records: one whose slot has gone on to the second is not admitted again. -/
def State.readFirst (s : State) (va n align : Nat) : State × Option (List Byte) :=
  match s.acc with
  | none => s.readRecord va n align
  | some a => if a.va.toNat == va then s.readRecord va n align else (s, some (s.recordBytes va n))

/-- R208: the second of two records. -/
def State.readSecond (s : State) (va n align : Nat) : State × Option (List Byte) :=
  match s.acc with
  | none => s.readRecord va n align
  | some a => if a.va.toNat == va then s.readRecord va n align else s.dropAcc.readRecord va n align

/-! ## Completion (R109, R307, R416) -/

/-- R287: a tile that FORCE named is VALUE or POISON. -/
def State.tileDone (s : State) (h : Word) (t : Nat) : Bool :=
  match s.nodeOf h with
  | none => true
  | some n => !(n.tile t).unforced

/-- The request is ready to be done. -/
def State.engOver (s : State) (r : EngReq) : Bool :=
  match r.work with
  | .force ts => ts.all fun x => s.tileDone x.1 x.2
  | _ => r.finished

/-- R416: the transfer whose copy is done. -/
def StreamEntry.copyDone (e : StreamEntry) (id : Nat) (failed : Bool) : StreamEntry :=
  match e.st with
  | .pending r => if r == id then { e with st := if failed then .failed else .resident } else e
  | .free => e
  | .resident => e
  | .failed => e
  | .waiting _ _ _ _ => e
  | .pushing _ _ _ _ => e

/-- R416: some entry of a mask is FAILED; every entry of a mask is RESIDENT. -/
def maskFailed (v : Vector StreamEntry 32) (m : Word) : Bool :=
  (List.range 32).any fun i => m.getLsbD i && (v.getD i {}).st == .failed
/-- R416. -/
def maskResident (v : Vector StreamEntry 32) (m : Word) : Bool :=
  (List.range 32).all fun i => !m.getLsbD i || (v.getD i {}).st == .resident

/-- R416: waiting kernels start to push, or are discarded. -/
def State.wakeKernels (s : State) (cluster : Nat) : State :=
  (List.range 32).foldl (fun s i =>
    let v := (s.clusterAt cluster).streamCtl
    let e := v.getD i {}
    let put (s : State) (st : StreamState) : State :=
      s.updCluster cluster fun c => { c with streamCtl := c.streamCtl.setIfInBounds i { e with st } }
    match e.st with
    | .waiting m t q n =>
      if maskFailed v m then
        let s := put s .free
        if t.jv then s.jobSub t.jcl t.job n else s
      else if maskResident v m then put s (.pushing t q n 0)
      else s
    | .free => s
    | .pending _ => s
    | .resident => s
    | .failed => s
    | .pushing _ _ _ _ => s) s

/-- R109, R112, R307, R416: a request becomes done. -/
def State.finishReq (s : State) (r : EngReq) : State :=
  let s := { s with engs := s.engs.filter (·.id != r.id), deferred := s.deferred.filter (· != r.id)
                    refused := s.refused.filter (· != r.id) }
  let s := s.updCtx r.key fun c => c.reqDone r.cls r.num
  let cl := clusterOf (unitOf r.key)
  let pay := match r.handle with
    | some h => h.toNat
    | none => r.num % 2 ^ 24
  let s := if r.ev then s.postEvent cl (eventA r.cls pay) (eventB r.key r.unit) else s
  let s := s.updCluster cl fun c => { c with streamCtl := c.streamCtl.map fun e => e.copyDone r.id r.failed }
  s.wakeKernels cl

/-- R109: a copy of nothing is done once the context's earlier requests are. -/
def State.turnOf (s : State) (r : EngReq) : Bool :=
  match r.work with
  | .bytes _ _ 0 => s.engs.all fun q => q.key != r.key || r.id ≤ q.id
  | _ => true

/-- R109, R112, R307: the i-th request of the module becomes done; that of a pre-empted launch, once it has
resumed (R398). -/
def execRequestDone (i : Nat) (s : State) : Out :=
  match s.engs[i]? with
  | none => .next s
  | some r => if s.engOver r && s.turnOf r && !(s.launchBy r.launch).any (·.saved.isSome) then .next (s.finishReq r) else .next s

end Sys2Proof.Machine
end

