-- ==== Sys2Proof/Machine/TileGraph.lean ====
section
/-! DEFINITION. The tile graph: descriptor registers, appends, FORCE, TSTORE, TDROP, TSTAT, and the
evaluator's events (R272 to R305). Evaluations are computed in one step once every input is VALUE. -/

namespace Sys2Proof.Machine

/-! ## DSET and DGET (R272) -/

/-- R272: words land in a descriptor at the end of the issue cycle. -/
def State.descOut (s : State) (dn : Nat) (x : BitVec 512) : State := s.fixed 1 [.d dn x]
/-- R272. -/
def execDset (f : DSetS) (s : State) : Out :=
  .next (s.descOut f.dn.toNat (dSetWord (s.rdD f.dn.toNat) f.w.toNat (s.spec f.sp 0)))
/-- R272. -/
def execDsetA (f : DSetA) (s : State) : Out :=
  let x := s.rdA f.am.toNat
  let d := dSetWord (s.rdD f.dn.toNat) f.w.toNat (x.setWidth 32)
  .next (s.descOut f.dn.toNat (dSetWord d (f.w.toNat + 1) ((x >>> 32).setWidth 32)))
/-- R272. -/
def execDget (f : DGetF) (s : State) : Out :=
  .next (s.scalarLater f.sd (dWord (dSeen (s.rdD f.dn.toNat)) f.w.toNat))

/-! ## Checks of an append (R278, R279, R281, R282) -/

/-- R267, R278: the source tile that a map gives, when it lies in the grid. -/
def Region.image (r : Region) (u v : Nat) : Option (Nat × Nat) :=
  let (p, q) := mapImage r.map u v
  if 0 ≤ p && 0 ≤ q && p < r.gr && q < r.gc then some (p.toNat, q.toNat) else none

/-- A node's kt. -/
def ktOf (op : TileOp) (ctl : BitVec 14) : Nat :=
  match op with
  | .tmul => (ctl.extractLsb' 0 8).toNat + 1
  | .tmac => (ctl.extractLsb' 0 8).toNat + 1
  | .tred => (ctl.extractLsb' 3 8).toNat + 1
  | .tmap => 1
  | .tzip => 1
  | .txpose => 1
  | .tcvt => 1
  | .tcopy => 1

/-- R278: coordinates that role A or U receives for tile (p, q) and step k. -/
def coordA (op : TileOp) (ctl : BitVec 14) (p q k : Nat) : Nat × Nat :=
  match op with
  | .tmul => (p, k)
  | .tmac => (p, k)
  | .tred => if ctl.getLsbD 2 then (k, q) else (p, k)
  | .txpose => (q, p)
  | .tmap => (p, q)
  | .tzip => (p, q)
  | .tcvt => (p, q)
  | .tcopy => (p, q)

/-- R278: coordinates that role B receives. -/
def coordB (op : TileOp) (p q k : Nat) : Nat × Nat :=
  match op with
  | .tmul => (q, k)
  | .tmac => (q, k)
  | .tzip => (p, q)
  | .tmap => (p, q)
  | .tred => (p, q)
  | .txpose => (p, q)
  | .tcvt => (p, q)
  | .tcopy => (p, q)

/-- R276, R277: the operation reads a role B operand. -/
def TileOp.two (op : TileOp) : Bool := op == .tmul || op == .tmac || op == .tzip

/-- The corners of a range of `n` values. -/
def cornersOf (n : Nat) : List Nat := [0, n - 1]

/-- R278: every corner's image lies in its source's grid. -/
def imagesOk (op : TileOp) (ctl : BitVec 14) (d a b : Region) : Bool :=
  (cornersOf d.gr).all fun p => (cornersOf d.gc).all fun q => (cornersOf (ktOf op ctl)).all fun k =>
    let (u, v) := coordA op ctl p q k
    let (u', v') := coordB op p q k
    (a.image u v).isSome && (!op.two || (b.image u' v').isSome)

/-- R279: a type that TMAP, TZIP and TRED read, or with `dest` write. -/
def aluType (dest : Bool) (t : BitVec 4) : Bool := t != 5 && !(dest && tyIsMx t)

/-- Tiles of one shape. -/
def sameTile (a b : Region) : Bool := a.tr == b.tr && a.tc == b.tc

/-- R279: the operation's shape rule. -/
def shapeOk (op : TileOp) (ctl : BitVec 14) (d a b : Region) : Bool :=
  match op with
  | .tmul => a.tr == d.tr && b.tr == d.tc && a.tc == b.tc && a.tc ≤ 128
  | .tmac => a.tr == d.tr && b.tr == d.tc && a.tc == b.tc && a.tc ≤ 128
  | .tzip => sameTile d a && sameTile d b
  | .tmap => sameTile d a
  | .tred => if ctl.getLsbD 2 then d.tc == a.tc && d.tr == 1 else d.tr == a.tr && d.tc == 1
  | .txpose => d.tr == a.tc && d.tc == a.tr
  | .tcvt => sameTile d a
  | .tcopy => sameTile d a

/-- R279: the operation's type rule. -/
def typesOk (op : TileOp) (d a b : Region) : Bool :=
  match op with
  | .tmul => a.ty == b.ty && (groupSize a.ty).isSome && drainFits (tyIsInt a.ty) d.ty
  | .tmac => a.ty == b.ty && (groupSize a.ty).isSome && drainFits (tyIsInt a.ty) d.ty
  | .tzip => aluType false a.ty && aluType false b.ty && aluType true d.ty
  | .tmap => aluType false a.ty && aluType true d.ty
  | .tred => aluType false a.ty && aluType true d.ty
  | .txpose => d.ty == a.ty && !tyIsMx d.ty
  | .tcvt => true
  | .tcopy => d.ty == a.ty

/-- R278, R279: the TCODE of TSHAPE. -/
def shapeFault (op : TileOp) (ctl : BitVec 14) (d a b : Region) : Option Word :=
  if !imagesOk op ctl d a b then some 1
  else if !shapeOk op ctl d a b then some 2
  else if !typesOk op d a b then some 3
  else none

/-- R281: a source or codebook byte may lie here. -/
def State.sourceOk (s : State) (p : Party) (code : Bool) (a : Nat) : Bool :=
  match placeOf (isCcc p.unit) (ad a) with
  | .ownPad _ => true
  | .sram _ => true
  | .pad _ _ => true
  | .slice _ _ _ => false
  | .bad => false
  | .hbm _ => code || (s.pageOf p.session (ad a)).any (·.isLazy)
  | .host _ => !code && (s.pageOf p.session (ad a)).any (·.isLazy)

/-- R281: a destination byte lies on a lazy page. -/
def State.destOk (s : State) (p : Party) (a : Nat) : Bool :=
  paged p.unit a && (s.pageOf p.session (ad a)).any (·.isLazy)

/-- R280, R281: what admission finds before the node is entered. -/
inductive Admit where
  | ok
  | page (a : Nat)
  | fault (cause : Nat) (code : Word) (addr : Nat)
  | guard (h : Word)
  | sendGuard

/-- R280, R301, R367: translation, placement and protection, in order; a send guard, whose handle is 0, holds the
append whatever the GUARD flag. The scale bytes of an MX destination are translated
with it, and are no destination bytes (DEDUCED, notes/assumptions/57.md). -/
def State.placeNode (s : State) (p : Party) (guardTrap : Bool) (n : Node) : Admit :=
  let dst := piecesOfSpans n.d.marked
  let scl := piecesOfSpans n.d.allScales
  let src := piecesOfSpans (n.sources.flatMap Region.allSpans)
  let cod := piecesOfSpans (n.sources.flatMap Region.codeSpans ++ n.d.codeSpans)
  match firstAt (dst ++ scl ++ src ++ cod) (s.pageMissing p) with
  | some a => .page a
  | none =>
    match firstAt (dst ++ scl ++ src ++ cod) (s.worldBad p) with
    | some a => .fault 0x33 0 a
    | none =>
      match firstAt dst fun a => !s.destOk p a with
      | some a => .fault 0x56 1 a
      | none =>
        match firstAt src (fun a => !s.sourceOk p false a), firstAt cod (fun a => !s.sourceOk p true a) with
        | some a, _ => .fault 0x56 2 a
        | none, some a => .fault 0x56 2 a
        | none, none =>
          match firstAt dst (s.readOnlyAt p) with
          | some a => .fault 0x32 1 a
          | none =>
            match firstAt dst fun a => (s.tagAt p a).tag.unready && (s.tagAt p a).launch != p.launch with
            | some a => .fault 0x36 0 a
            | none =>
              match s.guardVerdict p { write := true, guardTrap } dst with
              | .fault c code a => if code == 0 then .sendGuard else .fault c code a
              | .held h => if h == 0 then .sendGuard else .guard h
              | .ok => .ok
              | .page a => .page a
              | .queued _ => .ok

/-! ## Cover (R283) -/

/-- A tile of an older node: handle and number. -/
abbrev TileId := Word × Nat

/-- R283: the older tiles of a launch that share a sector with a destination. -/
def State.tilesUnder (s : State) (session launch : Nat) (secs : List Nat) : List TileId :=
  (s.nodes.filter fun m => m.launch == launch && m.session == session).flatMap fun m =>
    ((m.tilesIn (·.unforced)).filter fun t => (m.tileSectors t).any secs.contains).map fun t => (m.handle, t)

/-- R283: every byte of an older tile's data and trailer lies in the new destination. -/
def State.whollyUnder (s : State) (d : Region) (x : TileId) : Bool :=
  match s.nodeOf x.1 with
  | none => true
  | some m => (m.tileSpans x.2).all (spanInside d.marked)

/-- R275, R289: a predecessor that no living successor tile links to. -/
def State.orphan (s : State) (x : TileId) : Bool :=
  !s.nodes.any fun m => (m.tilesIn fun t => t.unforced || t == .linked).any fun t => (m.preds.getD t []).contains x

/-- Sets a LINKED predecessor's state once no successor needs it, and goes on to its own. -/
def State.endPreds (s : State) (st : TileState) : Nat → List TileId → State
  | 0, _ => s
  | _, [] => s
  | fuel + 1, x :: xs =>
    match s.nodeOf x.1 with
    | none => State.endPreds s st fuel xs
    | some m =>
      if m.tile x.2 == .linked && s.orphan x then
        State.endPreds (s.setTile x.1 x.2 st) st fuel (xs ++ m.preds.getD x.2 [])
      else State.endPreds s st fuel xs

/-- R283: a covered tile is dropped, and with it the predecessors that nothing else needs. -/
def State.dropTile (s : State) (x : TileId) : State :=
  match s.nodeOf x.1 with
  | none => s
  | some m => (s.setTile x.1 x.2 .dropped).endPreds .dropped 4096 (m.preds.getD x.2 [])

/-- R283: the new tiles that share a byte with an older one. -/
def Node.coveredBy (n : Node) (spans : List (Nat × Nat)) : List Nat :=
  (List.range n.tiles.length).filter fun t => anyMeet (n.tileSpans t) spans

/-- R283: wholly covered tiles are dropped, or linked under a TMAC. -/
def State.coverTile (acc : State × Node) (x : TileId) : State × Node :=
  let (s, n) := acc
  if n.op == .tmac then
    match s.nodeOf x.1 with
    | none => (s, n)
    | some m =>
      let preds := (n.coveredBy (m.tileSpans x.2)).foldl (fun ps t => modifyNth (· ++ [x]) ps t) n.preds
      (s.setTile x.1 x.2 .linked, { n with preds })
  else (s.dropTile x, n)

/-! ## Appends (R276, R280) -/

/-- R273: the slots of a table that nodes hold. -/
def State.slotsHeld (s : State) (cluster : Nat) : List Nat :=
  (s.nodes.filter fun m => m.cluster == cluster && m.mark == 0).map (·.index)
/-- R273: the lowest-numbered FREE slot. -/
def State.freeSlot (s : State) (cluster : Nat) : Option Nat :=
  let held := s.slotsHeld cluster
  (List.range 1024).find? fun i => !held.contains i

/-- R304: nodes that `pick` picks change their handles to `place` of the node; what names them follows. -/
def State.moveNodes (s : State) (pick : Node → Bool) (place : Node → Node) : State :=
  let moved := (s.nodes.filter pick).map fun n => (n.handle, (place n).handle)
  let new (h : Word) : Word := ((moved.find? (·.1 == h)).map Prod.snd).getD h
  { s with
    nodes := s.nodes.map fun n =>
      let n := { n with preds := n.preds.map fun ps => ps.map fun x => (new x.1, x.2) }
      if pick n then place n else n
    tags := s.tags.map fun t => (t.1, { t.2 with node := new t.2.node })
    evals := s.evals.map fun e => { e with node := new e.node, got := e.got.map fun x => (new x.1, x.2) } }

/-- R304: the mark of a launch's save area: one that no other launch's nodes have. -/
def State.saveMark (s : State) (launch : Nat) : Nat :=
  ((List.range 1024).find? fun m => m != 0 && s.nodes.all fun n => n.launch == launch || n.mark != m).getD 1023

/-- R274, R304: nodes of a launch that `pick` picks are copied to its save area, and leave their slots. -/
def State.spillOf (s : State) (l : Launch) (pick : Node → Bool) : State :=
  let mine (n : Node) : Bool := n.launch == l.uid && n.mark == 0 && pick n
  let mark := s.saveMark l.uid
  let out (n : Node) : Node := { n with st := .spilled, mark }
  let mem := (s.nodes.filter mine).foldl (fun m n =>
    memWrite m (l.storeKey n.cluster (nodesOff + 128 * n.index)) (out n).record) s.mem
  { s with mem }.moveNodes mine out

/-- R297, R304: the nodes of launches that do not run are spilled. -/
def State.spillNodes (s : State) (cluster : Nat) : State :=
  (s.launches.filter (·.st == .preempted)).foldl (fun s l => s.spillOf l fun n => n.cluster == cluster) s

/-- R297: makes room in a full table, or demands the oldest pending node. -/
def State.overflow (s : State) (cluster : Nat) : State :=
  let s' := s.spillNodes cluster
  if (s'.freeSlot cluster).isSome then s'
  else
    match s'.nodes.find? fun m => m.cluster == cluster && m.st == .pending with
    | none => s'
    | some m => s'.demandTiles m.handle m.suspended none none none

/-- R298: a die's directory, or its guard, has no room for `k` more entries. -/
def State.dieFull (s : State) (guard : Bool) (die k : Nat) : Bool :=
  8192 < (if guard then s.guardUse die else s.dirUse die) + k

/-- R298: the node whose entries are the oldest of a die's full structure is demanded. -/
def State.demandOldest (s : State) (guard : Bool) (die : Nat) : State :=
  match s.nodes.find? fun m =>
      if guard then m.guardDies.contains die else ownerDie (BitVec.ofNat 64 m.d.base) == die with
  | none => s
  | some m => s.demandTiles m.handle m.suspended none none none

/-- R298: a die whose directory or guard has no room for a node: which, and the room it needs. -/
def State.noRoom (s : State) (n : Node) : Option (Bool × Nat × Nat) :=
  let dir := ownerDie (BitVec.ofNat 64 n.d.base)
  if s.dieFull false dir n.tiles.length then some (false, dir, n.tiles.length)
  else ((List.range 4).find? fun die =>
      let k := (n.guardDies.filter (· == die)).length
      k != 0 && s.dieFull true die k).map fun die =>
        (true, die, (n.guardDies.filter (· == die)).length)

/-- R276: the node that an instruction describes, with no slot yet. -/
def State.nodeFor (s : State) (op : TileOp) (f : TileF) : Node :=
  let dd := s.rdD f.dD.toNat
  let da := s.rdD f.dA.toNat
  let db := s.rdD f.dB.toNat
  let two := op.two
  let d := regionOf dd 0
  let sr := op == .tcvt && f.ctl.extractLsb' 0 3 == 5
  { cluster := s.cluster, index := 0, gen := 0, launch := s.launch.uid, session := s.launch.session
    task := s.taskNo, op, ctl := f.ctl, p := if sr then s.ctx.srWord else s.spec f.p 0
    stream := f.stream.toNat, key := s.cur, slot := s.slot, addr := unitsAddr s.ctx.pc, d
    a := regionOf da (if two then mapA da else mapU da)
    b := if two then regionOf db (mapB db) else {}
    tiles := List.replicate (d.gr * d.gc) .suspended, preds := List.replicate (d.gr * d.gc) [] }

/-- R275, R280: the node is entered, its destination tagged, and its handle returned; the append is a
tl.grf request that is done at once. -/
def State.commitNode (s : State) (n : Node) (index : Nat) (hd : BitVec 5) : State :=
  let g := s.gens.get 0 (1024 * n.cluster + index)
  let gen := if g == 255 then 1 else g + 1
  let n := { n with index, gen }
  let secs := sectorsOf n.d.marked
  let s := { s with gens := s.gens.put (1024 * n.cluster + index) gen, nodes := s.nodes ++ [n] }
  let s := secs.foldl (fun s sec =>
    s.setTagNo n.session sec { tag := .suspended, node := n.handle, launch := n.launch }) s
  let s := (s.domain s.unit).foldl (fun s c =>
    s.updUnit c fun x => { x with l1 := x.l1.filter fun e => !secs.contains e.1 }) s
  let (num, s) := s.issueNumber 1 none
  (s.upd fun c => c.reqDone 1 num).scalarLater hd n.handle

/-- R280, R283, R298: what the destination still has to wait for, and room for the entries of the node beside
those that Cover has released; else the node is entered. -/
def State.coverAndCommit (s : State) (n : Node) (index : Nat) (hd : BitVec 5) : State :=
  let secs := sectorsOf n.d.marked
  let old := s.tilesUnder n.session n.launch secs
  let stays (x : TileId) : Bool := match s.nodeOf x.1 with
    | none => false
    | some m => m.tile x.2 == .evaluating || !s.whollyUnder n.d x
  match old.filter stays with
  | [] =>
    let (t, n) := old.foldl State.coverTile (s, n)
    match t.noRoom n with
    | some (g, die, k) =>
      let freed := if g then s.guardUse die - t.guardUse die else s.dirUse die - t.dirUse die
      (s.demandOldest g die).stallFor 4 (.dieRoom g die (k - freed))
    | none => t.commitNode n index hd
  | ws =>
    let s := ws.foldl (fun s x => s.demandTile x.1 none none none x.2) s
    s.stallFor 4 (.tiles (secs.map fun sec => ad (sec * 128)))

/-- R280: admission of an append whose checks at issue passed. -/
def State.admitNode (s : State) (n : Node) (hd : BitVec 5) : State :=
  match s.pageCame with
  | (s, false) => s
  | (s, true) => match s.releaseAtIssue with
  | (s, false) => s
  | (s, true) =>
    let s := if (s.freeSlot n.cluster).isNone then s.overflow n.cluster else s
    match s.freeSlot n.cluster with
    | none => s.blockFor 4 .table
    | some index =>
      let p := s.partyOf s.cur
      match s.placeNode p ((s.hdrOf s.cur).flags.getLsbD 3) n with
      | .page a => s.pageHold a
      | .fault c code a => s.memFault c code a
      | .guard h => (s.protectiveForce h).stallFor 4 (.node h)
      | .sendGuard => s.stallFor 4 (.sendGuard (s.flatSpans p.unit p.session (piecesOfSpans n.d.marked)))
      | .ok => s.coverAndCommit n index hd

/-- R269, R278 to R282: the checks at issue, then admission. The destination region of R282 is its data
(R268). -/
def State.append (s : State) (op : TileOp) (f : TileF) : State :=
  let ds := [f.dD, f.dA] ++ if op.two then [f.dB] else []
  match s.descsBad {} ds with
  | some c => s.descbad c
  | none =>
    let n := s.nodeFor op f
    match shapeFault op f.ctl n.d n.a n.b with
    | some c => s.trap 0x55 c
    | none =>
      if anyMeet (n.sources.flatMap Region.marked) n.d.allData then
        s.trap 0x51 1
      else s.admitNode n f.hd

/-- R284. -/
def execTmul (f : TileF) (s : State) : Out := .next (s.append .tmul f)
/-- R284. -/
def execTmac (f : TileF) (s : State) : Out := .next (s.append .tmac f)
/-- R285. -/
def execTmap (f : TileF) (s : State) : Out := .next (s.append .tmap f)
/-- R285. -/
def execTzip (f : TileF) (s : State) : Out := .next (s.append .tzip f)
/-- R285. -/
def execTred (f : TileF) (s : State) : Out := .next (s.append .tred f)
/-- R286. -/
def execTxpose (f : TileF) (s : State) : Out := .next (s.append .txpose f)
/-- R286. -/
def execTcvt (f : TileF) (s : State) : Out := .next (s.append .tcvt f)
/-- R286. -/
def execTcopy (f : TileF) (s : State) : Out := .next (s.append .tcopy f)

/-! ## FORCE, TSTORE, TDROP, TSTAT (R287 to R290) -/

/-- R287, R289: a handle names a cluster outside the extent, or a node of another launch. -/
def State.foreign (s : State) (h : Word) : Bool :=
  !s.launch.mask.getLsbD (handleCluster h) || (s.nodeOf h).any (·.launch != s.launch.uid)

/-- R287: the site of a FORCE, which is told of failures (R302). -/
def State.forceSite (s : State) : DemandSite :=
  { kind := 2, key := s.cur, slot := s.slot, addr := unitsAddr s.ctx.pc }

/-- R287: FORCE commits once its demands are registered. -/
def State.forceTiles (s : State) (demand : List TileId) (named : List TileId) : State :=
  let s := demand.foldl (fun s x => s.demandTile x.1 none none (some s.forceSite) x.2) s
  (s.enterEng 1 0 false (.force named)).ends .done

/-- R287: the handle form. -/
def State.forceHandle (s : State) (h : Word) : State :=
  if s.foreign h then s.trap 0x57 0
  else match s.releaseAtIssue with
  | (s, false) => s
  | (s, true) =>
    match s.nodeOf h with
    | none => s.forceTiles [] []
    | some n =>
      s.forceTiles (n.suspended.map fun t => (h, t)) ((n.tilesIn (·.unforced)).map fun t => (h, t))
/-- R287. -/
def execForceHandle (f : SpecF) (s : State) : Out := .next (s.forceHandle (s.spec f.h 0))

/-- R287: the tiles of the launch's nodes that have a byte in some sectors. -/
def State.tilesOfSectors (s : State) (p : Party) (secs : List Nat) : List TileId :=
  ((secs.filter fun sec => paged p.unit (sec * 128) && (s.tagNo p.session sec).tag.unready).flatMap fun sec =>
    match s.nodeOf (s.tagNo p.session sec).node with
    | none => []
    | some n => ((List.range n.tiles.length).filter fun t => (n.tileSectors t).contains sec).map fun t =>
        (n.handle, t)).eraseDups

/-- R238, R287, R306: the region form: its sectors are read, and admitted like an append's. -/
def State.forceRegion (s : State) (dn : BitVec 4) : State :=
  match s.descsBad { types := false } [dn] with
  | some c => s.descbad c
  | none =>
    let r := regionOf (s.rdD dn.toNat) 0
    let p := s.partyOf s.cur
    let ps := piecesOfSpans r.marked
    match badAddr p.unit ps with
    | some a => s.memFault 0x30 0 a
    | none =>
      match s.pageCame with
      | (s, false) => s
      | (s, true) => match s.releaseAtIssue with
      | (s, false) => s
      | (s, true) =>
        match firstAt ps (s.pageMissing p) with
        | some a => s.pageHold a
        | none =>
          match firstAt ps (s.worldBad p) with
          | some a => s.memFault 0x33 0 a
          | none =>
            match firstAt ps fun a => (s.tagAt p a).tag.unready && (s.tagAt p a).launch != p.launch with
            | some a => s.memFault 0x36 0 a
            | none =>
              let ts := s.tilesOfSectors p (sectorsOf r.marked)
              s.forceTiles ts ts
/-- R287. -/
def execForceRegion (f : DescF) (s : State) : Out := .next (s.forceRegion f.dn)

/-- R288: TSTORE: checked at issue, then a request of the copy engine. -/
def State.tstore (s : State) (f : TStoreF) : State :=
  match s.descsBad {} [f.dD, f.dA] with
  | some c => s.descbad c
  | none =>
    let da := s.rdD f.dA.toNat
    let d := regionOf (s.rdD f.dD.toNat) 0
    let a := regionOf da (mapU da)
    match shapeFault .tcopy 0 d a {} with
    | some c => s.trap 0x55 c
    | none =>
      match badAddr s.unit (piecesOfSpans (d.allSpans ++ a.allSpans)) with
      | some x => s.memFault 0x30 0 x
      | none =>
        match s.releaseAtIssue with
        | (s, false) => s
        | (s, true) => (s.enterEng 1 1 false (.tiles d a true)).ends .done
/-- R288. -/
def execTstore (f : TStoreF) (s : State) : Out := .next (s.tstore f)

/-- R289: TDROP: the node's SUSPENDED and LINKED tiles become POISON, and so do predecessors that no
living tile links to. -/
def State.tdrop (s : State) (h : Word) : State :=
  if s.foreign h then s.trap 0x57 0
  else match s.nodeOf h with
  | none => s.ends .done
  | some n =>
    let lost := (n.tilesIn fun t => t == .suspended || t == .linked).flatMap fun t => n.preds.getD t []
    let (s, ws) := s.poisonNode h
    ((s.endPreds .poison 4096 lost).releaseAll ws).ends .done
/-- R289. -/
def execTdrop (f : SpecF) (s : State) : Out := .next (s.tdrop (s.spec f.h 0))

/-- R290: the node status word. -/
def Node.status (n : Node) : Word :=
  let count (p : TileState → Bool) : Nat := min 1023 (n.tilesIn p).length
  BitVec.ofNat 32 (n.st.code * 2 ^ 30 + count (fun t => t == .suspended || t == .linked) * 2 ^ 20
    + count (· == .evaluating) * 2 ^ 10 + count (· == .value))

/-- R290: form 0. -/
def execTstatNode (f : DstSpec) (s : State) : Out :=
  let h := s.spec f.h 0
  .next (s.scalarLater f.sd (match s.nodeOf h with
    | some n => if s.foreign h then 0 else n.status
    | none => 0))
/-- R290: form 1. -/
def execTstatTable (f : DstOnly) (s : State) : Out :=
  let mine := (s.nodes.filter fun n => n.cluster == s.cluster && n.launch == s.launch.uid).length
  .next (s.scalarLater f.sd (BitVec.ofNat 32 (1024 - (s.slotsHeld s.cluster).length + mine * 2048)))
/-- R290, R303: form 2. -/
def execTstatDefer (f : DstWord) (s : State) : Out :=
  .next (s.scalarLater f.sd (s.ctx.deferRec.getD f.w.toNat 0))

/-- R291: a demand reaches a sector at its owner. -/
def execDemand (session : Nat) (va : Addr) (s : State) : Out :=
  let sec := va.toNat / 128
  .next (if (s.tagNo session sec).tag == .suspended then s.demandSector session sec none none none else s)

/-! ## Evaluation (R284 to R286, R292 to R296) -/

/-- The party of the evaluator of a node. -/
def State.partyNode (s : State) (n : Node) : Party :=
  let l := (s.launchBy n.launch).getD Launch.none
  { unit := unitOf n.key, session := n.session, launch := n.launch, secure := l.secure }

/-- Changes an evaluation. -/
def State.updEval (s : State) (id : Nat) (f : Eval → Eval) : State :=
  { s with evals := modifyFirst (·.id == id) f s.evals }

/-- R293: an evaluation and its ancestors. -/
def State.ancestors (s : State) : Nat → Nat → List Nat
  | 0, id => [id]
  | fuel + 1, id =>
    match (s.evals.find? (·.id == id)).bind (·.parent) with
    | none => [id]
    | some p => id :: State.ancestors s fuel p

/-- R293: spans reach a sector that is EVALUATING under one of some evaluations. -/
def State.closesCycle (s : State) (p : Party) (ids : List Nat) (spans : List (Nat × Nat)) : Bool :=
  (sectorsOf spans).any fun sec =>
    paged p.unit (sec * 128) && (s.tagNo p.session sec).tag == .evaluating
      && s.evals.any fun e => ids.contains e.id && e.node == (s.tagNo p.session sec).node
        && (match s.nodeOf e.node with
          | none => false
          | some m => (m.tileSectors e.tile).contains sec)

/-- R294: the first earlier node of the same task and stream with a tile that is not yet forced. -/
def State.streamBefore (s : State) (n : Node) : Option Node :=
  if n.stream == 0 then none
  else (s.nodes.takeWhile (·.handle != n.handle)).find? fun m =>
    m.launch == n.launch && m.task == n.task && m.stream == n.stream && m.tiles.any TileState.unforced

/-- R278: the source tiles of a tile of a node: its region and coordinates, per step. -/
def Node.inputs (n : Node) (t : Nat) : List ((Region × Nat × Nat) × Option (Region × Nat × Nat)) :=
  let (p, q) := n.coord t
  (List.range (ktOf n.op n.ctl)).map fun k =>
    let (u, v) := coordA n.op n.ctl p q k
    let (u', v') := coordB n.op p q k
    let (pa, qa) := (n.a.image u v).getD (0, 0)
    let (pb, qb) := (n.b.image u' v').getD (0, 0)
    ((n.a, pa, qa), if n.op.two then some (n.b, pb, qb) else none)

/-- The bytes that a tile of a node is computed from. -/
def Node.inputSpans (n : Node) (t : Nat) : List (Nat × Nat) :=
  (n.inputs t).flatMap (fun x =>
      x.1.1.tileSpans x.1.2.1 x.1.2.2 ++ (match x.2 with
        | none => []
        | some y => y.1.tileSpans y.2.1 y.2.2))
    ++ n.sources.flatMap Region.codeSpans ++ n.d.codeSpans

/-- R140, R265: CHKUNC's inner TCODE for a tile. -/
def uncCode (r : Region) (rd : Nat → Nat → List Byte) (p q : Nat) : Word :=
  let t := r.readTile rd p q
  let s := sumsOf (rd (r.trailerAt p q) r.trailerSize) t.m t.n
  chkuncCode 0 (badRows (toleranceOf r.ty) t.grid s).length (badCols (toleranceOf r.ty) t.n t.grid s).length

/-- R296: verified inputs, or the TCODE of the first that is uncorrectable. -/
def verifyAll (rd : Nat → Nat → List Byte) :
    List (Region × Nat × Nat) → Except Word (List (RawTile × Sums))
  | [] => .ok []
  | (r, p, q) :: rest =>
    match r.verified rd p q with
    | none => .error (uncCode r rd p q)
    | some x =>
      match verifyAll rd rest with
      | .error c => .error c
      | .ok xs => .ok (x :: xs)

/-- R152, R285: the larger or smaller of two values, -0 below +0, a NaN giving way. -/
def numPick (wantMax : Bool) (a b : Num) : Num :=
  if a.isNan then b
  else if b.isNan then a
  else
    let aLess := a.lt b || (a.eqv b && a.isNeg && !b.isNeg)
    if aLess != wantMax then a else b

/-- R285: Put: rounds once into a type; integers saturate. -/
def putElem (t : BitVec 4) (x : Num) : Word := BitVec.ofNat 32 (roundTo t 0 (tyIsInt t) 0 x)

/-- R285: TMAP of one element. -/
def mapElem (fn : Nat) (sc x : Num) : Num :=
  match fn with
  | 0 => x.mul sc
  | 1 => x.add sc
  | 2 => if Num.zero.lt x then x else .zero
  | 3 => x.abs
  | 4 => x.neg
  | 5 => x.mul x
  | 6 => numPick true x sc
  | _ => numPick false x sc

/-- R285: TZIP of one pair. -/
def zipElem (fn : Nat) (x y : Num) : Num :=
  match fn with
  | 0 => x.add y
  | 1 => x.sub y
  | 2 => x.mul y
  | 3 => numPick true x y
  | _ => numPick false x y

/-- R285: TRED over the elements that one output element gathers, in order. -/
def redElems (op : Nat) (src : BitVec 4) (xs : List Num) : Num :=
  match op with
  | 0 =>
    if tyIsInt src then
      let w := BitVec.ofInt 32 (sumNum xs).toInt
      if tySigned src then .ofInt w.toInt else .ofInt w.toNat
    else fp32 (xs.foldl (fun acc x => round32 ((fp32 acc).add x)) 0)
  | 1 => match xs with
    | [] => .zero
    | x :: rest => rest.foldl (numPick true) x
  | _ => match xs with
    | [] => .zero
    | x :: rest => rest.foldl (numPick false) x

/-- R284: an operand element on the tile ALU keeps subnormals; on an array it is flushed. -/
def RawTile.operands (t : RawTile) (flush : Bool) : Grid :=
  if flush then
    (List.range t.m).map fun i => (List.range t.n).map fun c =>
      operandVal t.ty t.cb ((t.scales.getD i []).getD (c / 32) 127) ((t.rows.getD i []).getD c 0)
  else t.grid

/-- R121, R130: one accumulation on the tile ALU. -/
def keepStep (int : Bool) (acc : Word) (x : Num) : Word :=
  if int then BitVec.ofInt 32 (acc.toInt + x.toInt) else round32 ((fp32 acc).add x)

/-- R130: Acc(x, v, w) on the tile ALU. -/
def keepAcc (int mx : Bool) (x : Word) (v w : List Num) : Word :=
  (if mx then blockSums 4 v w else List.zipWith Num.mul v w).foldl (keepStep int) x

/-- A row of values filled with +0 to 128. -/
def padRow (v : List Num) : List Num := v ++ List.replicate (128 - v.length) .zero

/-- R284: a tile product on the tile ALU: the accumulators, row by row. -/
def aluProduct (int mx : Bool) (c0 : List (List Word)) (steps : List (Grid × Grid)) : List (List Word) :=
  steps.foldl (fun acc (a, b) =>
    acc.zipIdx.map fun (row, i) => row.zipIdx.map fun (x, n) =>
      keepAcc int mx x (a.getD i []) (b.getD n [])) c0

/-- R284: a tile product on an array: a fresh accumulator 7 with the addend's checks, each step's
weights pushed and shifted, then its rows streamed. -/
def arrayProduct (ty : BitVec 4) (c0 : List (List Word)) (steps : List (Grid × Grid)) : Acc :=
  let int := tyIsInt ty
  let z : Acc := { int }
  let start := c0.zipIdx.foldl (fun (x : Acc) (row, i) =>
    x.writeRow i (row ++ List.replicate (128 - row.length) 0)) z
  let a0 : Arr := { Arr.reset with accs := Arr.reset.accs.setIfInBounds 7 start, shadowTy := ty, activeTy := ty }
  let a := steps.foldl (fun (a : Arr) (x, w) =>
    let a := w.zipIdx.foldl (fun (a : Arr) (row, n) => a.push ty n (padRow row)) { a with shadow := [] }
    let a := a.shift
    x.zipIdx.foldl (fun (a : Arr) (row, i) => a.maccRow 7 i (padRow row)) a) a0
  (a.checkBeat 7).acc 7

/-- What an evaluation computes: the tile, its checks, and what its array's test corrects. -/
inductive Computed where
  | tile (t : RawTile) (s : Sums) (fixed : List Fix)
  | fail (f : EvalFail)

/-- R295: where a product runs. -/
inductive Spot where
  | alu
  | array (core : Nat)
  | waits (core : Nat)

/-- R284, R296: TMUL and TMAC. -/
def evalProduct (n : Node) (onArray : Bool) (addend : Option RawTile) (ins : List (RawTile × RawTile)) :
    Computed :=
  let d := n.d
  let int := tyIsInt n.a.ty
  let sat := n.ctl.getLsbD 8
  let c0 : List (List Word) := match addend with
    | none => List.replicate d.tr (List.replicate d.tc 0)
    | some t => t.grid.map fun row => row.map (roundAcc int)
  let steps := ins.map fun (a, b) => (a.operands onArray, b.operands onArray)
  let base : RawTile := { ty := d.ty, m := d.tr, n := d.tc, rows := [] }
  if onArray then
    let x := arrayProduct n.a.ty c0 steps
    match x.test d.ty sat with
    | .bad =>
      let (r, c) := x.failing d.ty sat
      .fail { inner := 0x41, code := chkuncCode 7 r c }
    | .good g _ located =>
      let rows := (g.take d.tr).map fun r => (r.take d.tc).map (keptRaw d.ty)
      let t := { base with rows }
      .tile t t.regenerate (x.fixes d.ty sat located)
  else
    let acc := aluProduct int (tyIsMx n.a.ty) c0 steps
    let raw (w : Word) : Word := if int then w else BitVec.ofNat 32 (roundTo d.ty 0 sat 0 (fp32 w))
    let t := { base with rows := acc.map fun r => r.map raw }
    .tile t t.regenerate []

/-- R285: the elements of a TRED output (i, j). -/
def redGather (col : Bool) (ins : List RawTile) (i j : Nat) : List Num :=
  ins.flatMap fun t =>
    if col then (List.range t.m).map fun r => t.val r j else (List.range t.n).map fun c => t.val i c

/-- R285: TMAP, TZIP and TRED. -/
def evalAlu (n : Node) (ins : List (RawTile × Sums)) (bs : List (RawTile × Sums)) : RawTile :=
  let d := n.d
  let base : RawTile := { ty := d.ty, m := d.tr, n := d.tc, rows := [] }
  let each (f : Nat → Nat → Num) : RawTile :=
    { base with rows := (List.range d.tr).map fun i => (List.range d.tc).map fun j => putElem d.ty (f i j) }
  let a := (ins.head?.map Prod.fst).getD base
  let b := (bs.head?.map Prod.fst).getD base
  let fn := (n.ctl.extractLsb' 0 3).toNat
  match n.op with
  | .tmap =>
    let sc := if tyIsInt n.a.ty then Num.ofInt n.p.toInt else fp32 n.p
    each fun i j => mapElem fn sc (a.val i j)
  | .tzip => each fun i j => zipElem fn (a.val i j) (b.val i j)
  | _ =>
    each fun i j => redElems (n.ctl.extractLsb' 0 2).toNat n.a.ty
      (redGather (n.ctl.getLsbD 2) (ins.map Prod.fst) i j)

/-- R284 to R286: computes a tile from its verified inputs. -/
def evalTile (n : Node) (onArray : Bool) (codebook : List Word) (addend : Option RawTile)
    (as bs : List (RawTile × Sums)) : Computed :=
  let none' : RawTile × Sums := ({ ty := n.d.ty, m := n.d.tr, n := n.d.tc, rows := [] }, { rc := [], cc := [], ck := 0 })
  let (a, sa) := as.head?.getD none'
  match n.op with
  | .tmul => evalProduct n onArray none ((as.zip bs).map fun (x, y) => (x.1, y.1))
  | .tmac => evalProduct n onArray addend ((as.zip bs).map fun (x, y) => (x.1, y.1))
  | .txpose =>
    .tile { a with m := n.d.tr, n := n.d.tc, rows := transposeRows a.n a.rows }
      { rc := sa.cc, cc := sa.rc, ck := sa.ck } []
  | .tcvt =>
    let t := encodeTile n.d.ty codebook (n.ctl.extractLsb' 0 3) (n.ctl.getLsbD 3) n.p n.d.tc a.grid
    .tile t t.regenerate []
  | .tcopy => .tile a sa []
  | .tmap => let t := evalAlu n as bs; .tile t t.regenerate []
  | .tzip => let t := evalAlu n as bs; .tile t t.regenerate []
  | .tred => let t := evalAlu n as bs; .tile t t.regenerate []

/-- R295: the unit of a product tile. -/
def State.spotFor (s : State) (n : Node) (id : Nat) : Spot :=
  let cl := n.cluster
  let arr (c : Nat) : Arr := s.arrAt (unitNo cl c)
  let ok (c : Nat) : Bool := !(arr c).degraded
  let cands := (List.range 8).filter ok
  let creator := coreOf (unitOf n.key)
  let roam := ((s.launchBy n.launch).getD Launch.none).hdr.flags.getLsbD 1
  match cands.find? fun c => (arr c).evaluator == some id with
  | some c => .array c
  | none =>
    if cands.isEmpty then .alu
    else if !roam && creator < 8 && ok creator then
      if (arr creator).holder.isSome then .alu
      else if (arr creator).evaluator.isSome || !(arr creator).evalWaiting.isEmpty then .waits creator
      else .array creator
    else
      let order := (List.range 8).map fun i => (creator % 8 + i) % 8
      match order.find? fun c => ok c && (arr c).holder.isNone && (arr c).evaluator.isNone with
      | some c => .array c
      | none => .alu

/-- Marks an evaluation failed. -/
def State.failEval (s : State) (id : Nat) (f : EvalFail) : State := s.updEval id fun e => { e with st := .failed f }

/-- R261, R262, R296: an array's evaluation tests bad three times, each a verdict, and leaves the array. -/
def Arr.evalFailed (a : Arr) (id : Nat) : Arr :=
  { ((a.applyRetired.countVerdict []).countVerdict []).countVerdict [] with
    evaluator := none, evalWaiting := a.evalWaiting.filter (· != id) }

/-- R140, R246, R292, R296: all inputs are VALUE: verify, place, compute; inputs that do not verify are read again,
at most twice. -/
def State.computeEval (s : State) (e : Eval) (n : Node) : State :=
  let p := { s.partyNode n with who := e.id }
  let again (code : Word) : State :=
    if e.tries < 2 then s.updEval e.id fun e => { e with tries := e.tries + 1 }
    else s.failEval e.id { inner := 0x41, code }
  let rd : Nat → Nat → List Byte := fun a k => s.engineBytes p a k
  let ins := n.inputs e.tile
  let own := n.coord e.tile
  let asV := verifyAll rd (ins.map Prod.fst)
  let bsV := verifyAll rd (ins.filterMap Prod.snd)
  let cV := if n.op == .tmac then verifyAll rd [(n.d, own.1, own.2)] else .ok []
  match asV, bsV, cV with
  | .error c, _, _ => again c
  | _, .error c, _ => again c
  | _, _, .error c => again c
  | .ok as, .ok bs, .ok cs =>
    let cb := if n.d.ty == 5 then codebookOf (rd n.d.codebook 32) else []
    let addend := cs.head?.map Prod.fst
    let reads := (ins.map Prod.fst ++ ins.filterMap Prod.snd ++ (if n.op == .tmac then [(n.d, own.1, own.2)] else [])).flatMap
      fun x => x.1.fixes rd x.2.1 x.2.2
    let finish (s : State) (core : Option Nat) : State :=
      match evalTile n core.isSome cb addend as bs with
      | .fail f =>
        let s := match core with
          | none => s
          | some c => s.updArr (unitNo n.cluster c) fun a => a.evalFailed e.id
        s.failEval e.id f
      | .tile t sums fixed =>
        let s := s.traceFixes n.key n.slot n.addr n.number false reads
        let s := match core with
          | none => s
          | some c => (s.updArr (unitNo n.cluster c) fun a =>
              { a.applyRetired.countVerdict fixed with
                evaluator := some e.id, evalWaiting := a.evalWaiting.filter (· != e.id) }).traceFixes
                n.key n.slot n.addr n.number true fixed
        s.updEval e.id fun e => { e with st := .computed t.rows t.scales sums.rc sums.cc sums.ck core }
    if n.op == .tmul || n.op == .tmac then
      match s.spotFor n e.id with
      | .alu => finish s none
      | .array c => finish s (some c)
      | .waits c => s.updArr (unitNo n.cluster c) fun a =>
          { a with evalWaiting := if a.evalWaiting.contains e.id then a.evalWaiting else a.evalWaiting ++ [e.id] }
    else finish s none

/-- R292: the LINKED predecessors of a tile that are still to be evaluated into it. -/
def State.predsToDo (s : State) (e : Eval) (n : Node) : List TileId :=
  (n.preds.getD e.tile []).filter fun x =>
    !e.got.contains x && (match s.nodeOf x.1 with
      | none => false
      | some m => m.tile x.2 == .linked)

/-- R328: the operations of a transform unit that are not yet done. One for either converter (R295) stands in both
queues until one of them starts it. -/
def State.unitOps (s : State) (c u : Nat) : List EngReq :=
  s.engs.filter fun r => r.cluster == c && !r.finished && (match r.work with
    | .xform v _ => v == u || (v == 5 && (u == 1 || u == 2))
    | _ => false)

/-- R328: a unit's queue is full. -/
def State.unitFull (s : State) (c u : Nat) : Bool := 16 ≤ ((s.unitOps c u).filter fun r => !r.started).length

/-- R328: an operation is the tile of an evaluation. -/
def EngReq.isTile (r : EngReq) (id : Nat) : Bool :=
  match r.work with
  | .xform _ (.tile e) => e == id
  | _ => false

/-- R295, R328: the evaluator's tile enters the queue of a transform unit. -/
def State.enterUnit (s : State) (e : Eval) (n : Node) (unit : Nat) : State :=
  if (if unit == 5 then [1, 2] else [unit]).any (s.unitFull n.cluster) then s
  else
    let (id, s) := s.fresh
    { s with engs := s.engs ++ [{ id, key := n.key, slot := n.slot, addr := n.addr, cls := 6, num := 0, launch := n.launch
                                  cluster := n.cluster, unit := 2, ready := s.cycle, work := .xform unit (.tile e.id) }] }

/-- R292: the tiles that a cluster's evaluator works on: those whose inputs are read (DEDUCED,
notes/assumptions/58.md). -/
def State.working (s : State) (cluster : Nat) : Nat :=
  (s.evals.filter fun e => (e.st != .waiting || s.engs.any (·.isTile e.id))
    && (s.nodeOf e.node).any (·.cluster == cluster)).length

/-- R292, R293: the inputs of a tile are read, as a queued reader; once they are VALUE, `next` goes on. -/
def State.evalReads (s : State) (e : Eval) (n : Node) (next : State → State) : State :=
  let p := { s.partyNode n with req := e.id, who := e.id }
  let spans := n.inputSpans e.tile
  if s.closesCycle p (s.ancestors 4096 e.id) spans then s.failEval e.id { inner := 0x51, code := 2 }
  else
    match s.engineTry p {} { chain := some e.chain, parent := some e.id } spans with
    | (s, .wait) => s
    | (s, .fault c code a) =>
      if c == 0x33 then s.fatalAt n.launch n.key n.slot c n.addr code 0
      else s.failEval e.id { inner := c, code, addr := ad a }
    | (s, .ready) => next s

/-- R292, R295, R328: an evaluation whose streams and predecessors are done: its tile is computed, or enters the
queue of its transform unit, which computes it. -/
def State.evalWork (s : State) (e : Eval) (n : Node) : State :=
  if s.engs.any (·.isTile e.id) || 16 ≤ s.working n.cluster then s
  else s.evalReads e n fun s => match n.op with
    | .txpose => s.enterUnit e n 0
    | .tcvt => s.enterUnit e n 5
    | _ => s.computeEval e n

/-- R292: one turn of an evaluation: streams, predecessors, inputs, then the computation. -/
def State.evaluate (s : State) (e : Eval) : State :=
  match s.nodeOf e.node with
  | none => { s with evals := s.evals.filter (·.id != e.id) }
  | some n =>
    match s.streamBefore n with
    | some m => s.demandTiles m.handle m.suspended (some e.chain) (some e.id) none
    | none =>
      match s.predsToDo e n with
      | x :: _ =>
        if s.evals.any fun v => v.node == x.1 && v.tile == x.2 then s
        else
          let (id, s) := s.fresh
          { s with evals := s.evals ++ [{ id, node := x.1, tile := x.2, chain := e.chain, parent := some e.id }] }
      | [] => s.evalWork e n

/-- R292: the i-th evaluation of the module goes on. -/
def execTileEvaluation (i : Nat) (s : State) : Out :=
  match s.evals[i]? with
  | none => .next s
  | some e =>
    match e.st with
    | .waiting => .next (s.evaluate e)
    | .computed _ _ _ _ _ _ => .next s
    | .failed _ => .next s

/-- An evaluation leaves the list. -/
def State.dropEval (s : State) (id : Nat) : State := { s with evals := s.evals.filter (·.id != id) }

/-- R284, R367: what a TMAC's tile holds before its write is its addend: the ports that keep the node's record keep
it too. -/
def State.keepAddend (s : State) (n : Node) (t : Nat) (rd : Nat → Nat → List Byte) : State :=
  let mine (m : Option Node) : Bool := m.any (·.handle == n.handle)
  if n.op != .tmac || !(s.parts.any (fun x => mine x.node) || s.sent.any fun x => mine x.node) then s
  else
    let (p, q) := n.coord t
    let rows := match n.d.verified rd p q with
      | some (x, _) => x.rows
      | none => (n.d.readTile rd p q).rows
    { s with
      parts := s.parts.map fun x => if mine x.node then { x with addend := x.addend.put t rows } else x
      sent := s.sent.map fun x => if mine x.node then { x with addend := x.addend.put t rows } else x }

/-- R113, R292: the tile is written and its tags set; waiters are released, and the array is free. -/
def State.writeEval (s : State) (e : Eval) (n : Node) (t : RawTile) (sums : Sums) (core : Option Nat) : State :=
  let p := s.partyNode n
  let (pr, qc) := n.coord e.tile
  let ws := n.d.tileWrites (fun a k => s.engineBytes p a k) pr qc t sums
  let s := s.keepAddend n e.tile fun a k => s.engineBytes p a k
  let s := (s.engineWrite p ws).dropEval e.id
  let s := match core with
    | none => s
    | some c => s.updArr (unitNo n.cluster c) fun a => { a with evaluator := none }
  if n.tile e.tile == .linked then
    match e.parent with
    | none => s
    | some q => s.updEval q fun v => { v with got := v.got ++ [(e.node, e.tile)] }
  else
    let (s, waiters) := s.endTile n e.tile .value
    (s.endPreds .dropped 4096 (n.preds.getD e.tile [])).releaseAll waiters

/-- R113: the i-th evaluation writes its tile. -/
def execTileEvaluated (i : Nat) (s : State) : Out :=
  match s.evals[i]? with
  | none => .next s
  | some e =>
    match e.st, s.nodeOf e.node with
    | .computed rows scales rc cc ck core, some n =>
      .next (s.writeEval e n { ty := n.d.ty, m := n.d.tr, n := n.d.tc, rows, scales } { rc, cc, ck } core)
    | .computed _ _ _ _ _ _, none => .next (s.dropEval e.id)
    | .waiting, _ => .next s
    | .failed _, _ => .next s

/-- R303: the deferred fault record. -/
def deferWords (n : Node) (t : Nat) (f : EvalFail) (site : DemandSite) : List Word :=
  let opc : Nat := match n.op with
    | .tmul => 0x10
    | .tmac => 0x11
    | .tmap => 0x12
    | .tzip => 0x13
    | .tred => 0x14
    | .txpose => 0x15
    | .tcvt => 0x16
    | .tcopy => 0x17
  let u := unitOf n.key
  let (p, q) := n.coord t
  [ BitVec.ofNat 32 (f.inner + opc * 65536), f.code, n.number
  , BitVec.ofNat 32 (n.slot + ctxOf n.key * 16 + coreOf u * 128 + clusterOf u * 2048), n.addr
  , BitVec.ofNat 32 (site.slot + site.kind * 16)
  , site.addr, f.addr.setWidth 32, (f.addr >>> 32).setWidth 32, BitVec.ofNat 32 (p + q * 65536) ]

/-- R89, R302: the record of a failed evaluation goes to its demander. -/
def State.deliverDefer (s : State) (n : Node) (t : Nat) (f : EvalFail) (site : DemandSite) : State :=
  if site.kind == 5 then s.fatalAt n.launch n.key n.slot 0x53 n.addr (BitVec.ofNat 32 f.inner) f.inner
  else if site.kind ≤ 1 then s
  else
    let s := s.queueFor site.key site.req
      { cause := 0x53, inner := f.inner, tcode := BitVec.ofNat 32 f.inner, addr := f.addr
        words := deferWords n t f site }
    if site.req == 0 then s else { s with deferred := s.deferred ++ [site.req] }

/-- R302: an evaluation fails: its tile is POISON, and its demander is told. -/
def State.endFailed (s : State) (e : Eval) (n : Node) (f : EvalFail) : State :=
  let lost := n.preds.getD e.tile []
  let linked := n.tile e.tile == .linked
  let (s, ws) := (s.dropEval e.id).endTile n e.tile .poison
  let s := s.endPreds .poison 4096 lost
  let s := match e.site with
    | none => s
    | some d => s.deliverDefer n e.tile f d
  let words := match e.site with
    | none => []
    | some d => deferWords n e.tile f d
  let s := match e.parent with
    | none => s
    | some q => if linked then s.failEval q f else s
  s.deferWaiters e.site f.inner f.addr words ws

/-- R302: the i-th evaluation, which failed, ends. -/
def execEvaluationFailed (i : Nat) (s : State) : Out :=
  match s.evals[i]? with
  | none => .next s
  | some e =>
    match e.st, s.nodeOf e.node with
    | .failed f, some n => .next (s.endFailed e n f)
    | .failed _, none => .next (s.dropEval e.id)
    | .waiting, _ => .next s
    | .computed _ _ _ _ _ _, _ => .next s

/-! ## Delivery of queued faults (R302, R310) -/

/-- R302: the first queued record of a context is delivered before its next bundle. -/
def State.deliverFault (s : State) (key : Nat) : State :=
  let c := s.ctxAt key
  match c.faults with
  | [] => s
  | f :: rest =>
    if c.st != .issuing || c.trap.inh || c.opened || c.done != 0 || c.idle.isSome then s
    else
      let hasAddr := f.addr != 0 || (0x30 ≤ f.cause && f.cause ≤ 0x38) || f.cause == 0x53
      let c := { c with faults := rest }
      let c := if f.words.isEmpty then c else { c with deferRec := Vector.ofFn fun i => f.words.getD i.val 0 }
      (s.setCtx key c).trapCtx key 15 0 f.cause f.tcode 0 (if hasAddr then some f.addr else none)

/-- R302. -/
def execDeferredFaultDelivery (key : Nat) (s : State) : Out := .next (s.deliverFault key)

end Sys2Proof.Machine
end

