-- ==== Sys2Proof/Machine/Ordering.lean ====
section
/-! DEFINITION. FENCE, WAITTL and TLREAD (R108 to R111). In the model loads are bound when they commit
and a store leaves its buffer when it is applied, so that the epochs and clocks of R107 have no effect
of their own (log entry 1). -/

namespace Sys2Proof.Machine

/-- R102, R108: an acquire at a scope wider than the domain cleans and then empties its L1s; false while
a guard keeps dirty bytes. -/
def State.acquire (s : State) (scope : Nat) : State × Bool :=
  let d := s.domain s.unit
  if scope ≤ s.domainScope s.unit then (s, true)
  else
    let s := s.writeBackAll d
    if s.allClean d then (s.invalidateAll d, true) else (s, false)

/-- R102, R108: a release at a scope: the context's stores and atomics are performed, and a scope wider
than the domain cleans its L1s. -/
def State.release (s : State) (scope : Nat) : State × Bool :=
  let d := s.domain s.unit
  let wide := !(scope ≤ s.domainScope s.unit)
  let s := s.drainStores s.cur 128
  let s := if wide then s.writeBackAll d else s
  (s, s.ctx.stored && s.ctx.atomics.isEmpty && (!wide || s.allClean d))

/-- R102: a scope is wider than the acting context's domain. -/
def State.wider (s : State) (scope : Nat) : Bool := !(scope ≤ s.domainScope s.unit)

/-- R109: every request of some classes is done. -/
def Ctx.classesDone (c : Ctx) (m : BitVec 6) : Bool :=
  (List.range 6).all fun k => !m.getLsbD k || c.completed.getD k 0 == c.issued.getD k 0

/-- R208: every codebook read that a slot has left behind is performed. -/
def Ctx.loadsBound (c : Ctx) : Bool := c.pend.all (·.late.isNone)

/-- R108. An acquire does not wait for an atomic that is not yet performed, which is a store of the context as
well as a load (DESIGN CHOICE, notes/assumptions/53.md). -/
def State.fence (s : State) (f : FenceF) : State :=
  let rel := f.kind.toNat != 2
  let acq := f.kind.toNat != 1
  let wide := s.wider f.scope.toNat
  let why : Why := .fence true rel wide f.cls
  if !s.ctx.loadsBound || (rel && !s.ctx.classesDone f.cls) then (s.drainStores s.cur 128).blockFor 4 why
  else
    let (s, ok) := if rel then s.release f.scope.toNat else (s, true)
    if !ok then s.blockFor 4 why
    else
      let (s, ok) := if acq then s.acquire f.scope.toNat else (s, true)
      if ok then s.ends .done else s.blockFor 4 why
/-- R108. -/
def execFence (f : FenceF) (s : State) : Out := .next (s.fence f)

/-- R110: the goal of a WAITTL. -/
def waitGoal (issued : Nat) (all : Bool) (target : Word) : Int :=
  let d := (target - BitVec.ofNat 32 issued).toInt
  if all || 0 < d then issued else issued + d

/-- R110. -/
def State.waittl (s : State) (f : WaitTlF) : State :=
  let c := s.ctx
  let cls := f.cls.toNat
  let goal := waitGoal (c.issued.getD cls 0) (f.all == 1) (s.spec f.target 0)
  if (c.completed.getD cls 0 : Int) < goal then s.blockFor 2 (.timeline cls goal.toNat)
  else
    let (s, ok) := s.acquire f.scope.toNat
    if ok then s.ends .done else s.blockFor 2 (.fence true false true 0)
/-- R110. -/
def execWaittl (f : WaitTlF) (s : State) : Out := .next (s.waittl f)

/-- R111. Issued is read at issue, as the rule says. Completed is read at issue too: the rule allows any instant from
issue to landing, and this one is the model's (DESIGN CHOICE, notes/assumptions/64.md). -/
def execTlread (f : TlReadF) (s : State) : Out :=
  let c := s.ctx
  let n := if f.sel.getLsbD 1 then c.issued.getD f.cls.toNat 0 else c.completed.getD f.cls.toNat 0
  .next (s.scalarLater f.dst (BitVec.ofNat 32 (if f.sel.getLsbD 0 then n / 2 ^ 32 else n)))

end Sys2Proof.Machine
end

