-- ==== Sys2Proof/Machine/Copy.lean ====
section
/-! DEFINITION. The copy engine, the Pacer and storage reads (R307 to R326), with SLEEPTO. A data phase
moves a request on by whole pieces, tiles or rows, each in one step; what it cannot yet access it waits
for (R316). -/

namespace Sys2Proof.Machine

/-! ## The Pacer (R317 to R319) -/

/-- R10: hops between two dies. -/
def hops (a b : Nat) : Nat := (if a % 2 == b % 2 then 0 else 1) + if a / 2 == b / 2 then 0 else 1

/-- R317: latency and rate of the endpoint at an address, as a unit's cluster sees it. -/
def endpoint (u a : Nat) : Nat × Nat :=
  let d := dieOf (clusterOf u)
  let g := clusterOf u % 4
  match placeOf (isCcc u) (ad a) with
  | .ownPad _ => (14 + coreOf u, 256)
  | .pad k _ => (14 + k, 256)
  | .sram _ => (18, 256)
  | .slice e n _ =>
    let x := if g ≤ n / 40 then n / 40 - g else g - n / 40
    (40 + 10 * min x (4 - x) + n % 40 / 4 + 60 * hops d e, 128)
  | .hbm e => (420 + 60 * hops d e, 256)
  | .host _ => (1450, 32)
  | .bad => (0, 1)

/-- R318: rounds up a quotient. -/
def ceilDiv (a b : Nat) : Nat := (a + b - 1) / b

/-- R318, R319: core cycles in MTC ticks, at the slower of the current and the announced clock. -/
def State.ticks (s : State) (cycles : Nat) : Nat :=
  let clk := match s.announced with
    | none => s.clock
    | some (hz, _) => min s.clock hz
  max cycles (ceilDiv (cycles * 2700000000) (max clk 1))

/-- R318: the sectors that a range touches, in bytes. -/
def padRange (a n : Nat) : Nat := if n = 0 then 0 else 128 * ((a + n - 1) / 128 - a / 128 + 1)
/-- R318: the sectors that spans touch, in bytes. -/
def padSpans (spans : List (Nat × Nat)) : Nat := 128 * (sectorsOf spans).length

/-- R318: a promise from its bytes, its extra latency and its two ends; Busy moves on. -/
def State.promise (s : State) (p lx src dst : Nat) : Nat × State :=
  let u := s.unit
  let (l1, b1) := endpoint u src
  let (l2, b2) := endpoint u dst
  let start := max (s.mtc.toNat + 3) (s.clusterAt s.cluster).busy
  if p = 0 then (start, s.updCluster s.cluster fun c => { c with busy := start })
  else
    let busy := start + s.ticks (ceilDiv p (min b1 b2))
    (busy + s.ticks (lx + l1 + l2), s.updCluster s.cluster fun c => { c with busy })

/-! ## Issue (R307, R309) -/

/-- R307: the work belongs to the copy engine. -/
def EngWork.copies : EngWork → Bool
  | .tiles _ _ _ => true
  | .bytes _ _ _ => true
  | .rows _ _ _ _ _ => true
  | .storage _ _ _ _ _ _ _ _ _ _ => true
  | .force _ => false
  | .xform _ _ => false
  | .send _ _ _ _ => false
  | .relay => false

/-- R307: requests that the copy engine of a cluster holds. -/
def State.copyQueue (s : State) (c : Nat) : List EngReq :=
  s.engs.filter fun r => r.cluster == c && r.work.copies && !r.finished

/-- R307: waits for room and for the release, then enters the request with its promise. -/
def State.copyIssue (s : State) (cls unit : Nat) (ps : BitVec 5) (ev : BitVec 1) (work : EngWork)
    (prom : State → Nat × State) : State :=
  if 64 ≤ (s.copyQueue s.cluster).length then s.stallFor 4 (.engine 0 s.cluster)
  else match s.releaseAtIssue with
  | (s, false) => s
  | (s, true) =>
    let (p, s) := prom s
    (s.enterEng cls unit (ev == 1) work (some (BitVec.ofNat 64 p))).fixed 3 [.s ps.toNat (BitVec.ofNat 32 p)]

/-- R326. -/
def State.cpybad (s : State) (code : Word) : State := s.trap 0x61 code

/-- R312: what a byte copy's operands raise. -/
def bytesFault (u dst src len : Nat) : Option (Sum Nat Word) :=
  match [dst, src].find? fun a => placeOf (isCcc u) (ad a) == .bad with
  | some a => some (.inl a)
  | none =>
    if 2 ^ 24 < len then some (.inr 2)
    else if !(oneHome u src (max len 1) && oneHome u dst (max len 1)) then some (.inr 1)
    else if 0 < len && spansMeet (src, len) (dst, len) then some (.inr 3)
    else none

/-- R312, R318. -/
def State.cpyBytes (s : State) (ps : BitVec 5) (ev : BitVec 1) (dst src len : Nat) : State :=
  match bytesFault s.unit dst src len with
  | some (.inl a) => s.memFault 0x30 0 a
  | some (.inr c) => s.cpybad c
  | none =>
    s.copyIssue 0 1 ps ev (.bytes dst src len) fun s =>
      s.promise (max (padRange src len) (padRange dst len)) 0 src dst

/-- R312. -/
def execCpyByte (f : CpyByteF) (s : State) : Out :=
  .next (s.cpyBytes f.ps f.ev (s.rdA f.x.toNat).toNat (s.rdA f.y.toNat).toNat (s.spec f.len 0).toNat)

/-- R313. -/
def State.cpyTile (s : State) (f : CpyTileF) : State :=
  match s.descsBad {} [f.x, f.y] with
  | some c => s.descbad c
  | none =>
    let d := regionOf (s.rdD f.x.toNat) 0
    let a := regionOf (s.rdD f.y.toNat) 0
    match badAddr s.unit (piecesOfSpans (d.allSpans ++ a.allSpans)) with
    | some x => s.memFault 0x30 0 x
    | none =>
      if d.ty != a.ty || d.rows != a.rows || d.cols != a.cols || !sameTile d a
          || d.trailer == 0 || a.trailer == 0 then s.cpybad 4
      else s.copyIssue 0 1 f.ps f.ev (.tiles d a false) fun s =>
        s.promise (max (padSpans a.allSpans) (padSpans d.allSpans)) 0 a.base d.base
/-- R313. -/
def execCpyTile (f : CpyTileF) (s : State) : Out := .next (s.cpyTile f)

/-- R315: the scale bytes of a row. -/
def rowScales (r : Region) : Nat := if tyIsMx r.ty then (r.cols + 31) / 32 else 0

/-- R318: the bytes of a gather or scatter of `n` rows. -/
def rowsPad (d a : Region) (idx n : Nat) : Nat :=
  let one (b : Nat) : Nat := if b = 0 then 0 else 128 * ((b + 254) / 128)
  let tr (r : Region) : Nat :=
    if r.trailer == 0 then 0 else min n r.gr * r.gc * trailerSpace r.tr r.tc
  padRange idx (4 * n) + n * (one (packedSize d.ty d.cols) + one (rowScales d)) + tr d + tr a

/-- R314, R315. -/
def State.cpyRows (s : State) (f : CpyIdxF) (scatter : Bool) : State :=
  match s.descsBad { optTrailer := true } [f.dD, f.dA] with
  | some c => s.descbad c
  | none =>
    let d := regionOf (s.rdD f.dD.toNat) 0
    let a := regionOf (s.rdD f.dA.toNat) 0
    let idx := (s.rdA f.ai.toNat).toNat
    let n := (s.spec f.n 0).toNat
    match badAddr s.unit ((idx, 1) :: piecesOfSpans (d.allSpans ++ a.allSpans)) with
    | some x => s.memFault 0x30 0 x
    | none =>
      if 65535 < n then s.cpybad 2
      else if idx % 4 != 0 || !oneHome s.unit idx (max (4 * n) 1) then s.cpybad 1
      else if d.ty != a.ty || d.cols != a.cols then s.cpybad 4
      else s.copyIssue 0 1 f.ps f.ev (.rows d a idx n scatter) fun s =>
        if n = 0 then s.promise 0 0 a.base d.base
        else s.promise (rowsPad d a idx n) (endpoint s.unit idx).1 a.base d.base
/-- R315. -/
def execCpyg (f : CpyIdxF) (s : State) : Out := .next (s.cpyRows f false)
/-- R315. -/
def execCpys (f : CpyIdxF) (s : State) : Out := .next (s.cpyRows f true)

/-! ## Storage reads: issue (R323, R324, R342) -/

/-- R323: a namespace slot of the launch's session. -/
def State.nslot (s : State) (n : Nat) : NSlot :=
  ((s.sessions.get {} s.launch.session).nslots).getD n {}

/-- R342: the codec is configured for the route of some bytes. -/
def CodecCfg.routes (c : CodecCfg) (bytes : Nat) : Bool :=
  c.route.getLsbD 0 && c.pb != 0 && bytes % c.pb.toNat == 0

/-- R324, R342. A destination range of N × UB bytes is checked where PB gives N; else the bytes read
(DESIGN CHOICE, notes/assumptions/59.md). -/
def State.cpstor (s : State) (f : CpStorF) : State :=
  let dst := (s.rdA f.ad.toNat).toNat
  let count := (s.spec f.count 0).toNat
  let ns := s.nslot f.ns.toNat
  let block := 2 ^ (9 + ns.lbas)
  let total := count * block
  let codec : Option Nat := if f.codec == 0 then none else some (f.codec.toNat - 1)
  let cfg := (s.clusterAt s.cluster).codecs.getD (f.codec.toNat - 1) {}
  let routed := codec.isNone || cfg.routes total
  let padded := cfg.pb != 0 && total % cfg.pb.toNat == 0
  let chunks := if codec.isSome && padded then total / cfg.pb.toNat else 0
  let size := if codec.isSome && padded then chunks * cfg.ub.toNat else total
  if placeOf (isCcc s.unit) (ad dst) == .bad then s.memFault 0x30 0 dst
  else if !ns.v then s.cpybad 5
  else if count == 0 || ns.maxb + 1 < count || 2 ^ 20 < total then s.cpybad 2
  else if !oneHome s.unit dst size || homeOf s.unit dst == some 8 then s.cpybad 1
  else if !routed then s.cpybad 6
  else
    let work := EngWork.storage dst (s.rdA f.al.toNat).toNat ns.nsid.toNat count block ns.qp ns.tq codec
      cfg.ub.toNat cfg.pb.toNat
    s.copyIssue 5 7 f.ps f.ev work fun s =>
      let cd := if codec.isSome then chunks * ceilDiv cfg.ub.toNat 32 + 64 else 0
      let start := max (s.mtc.toNat + 3) (s.clusterAt s.cluster).stoBusy
      let busy := start + s.ticks (ceilDiv total 64)
      (busy + ns.tq + s.ticks (40 + (endpoint s.unit dst).1 + cd),
        s.updCluster s.cluster fun c => { c with stoBusy := busy })
/-- R324. -/
def execCpstor (f : CpStorF) (s : State) : Out := .next (s.cpstor f)

/-! ## SLEEPTO (R321, R322) -/

/-- R81: a block ends: the context is READY. -/
def State.unblock (s : State) (key : Nat) : State :=
  s.updCtx key fun c =>
    match c.st with
    | .blocked => { c with st := .ready, wait := none }
    | .stopped => if c.held == .blocked then { c with held := .ready, wait := none } else c
    | _ => c

/-- R321: the requests whose promise fell due and that are not done. -/
def Ctx.due (c : Ctx) (cpy sto : Bool) (deadline : Int) : List ReqRec :=
  c.reqs.filter fun r => !r.done && ((cpy && r.cls == 0) || (sto && r.cls == 5))
    && r.promise.any fun p => (p.toNat : Int) ≤ deadline

/-- R322: the undone request with the earliest promise. -/
def firstDue (rs : List ReqRec) : Option ReqRec :=
  leastBy (fun r => ((r.promise.getD 0).toNat * 8 + r.cls) * 2 ^ 64 + r.num) rs

/-- R321, R473: some context of the acting context's launch is stopped. -/
def State.someHalted (s : State) : Bool :=
  (List.range 16).any fun c => s.launch.mask.getLsbD c && (unitsOf c).any fun u =>
    (keysOf u).any fun k => (s.ctxAt k).st == .stopped

/-- R321: after the deadline: the check, then the acquire. -/
def State.sleepCheck (s : State) (f : SleepF) (deadline : Int) : State :=
  match firstDue (s.ctx.due (f.c == 1) (f.s == 1) deadline) with
  | some r =>
    if s.someHalted then
      s.blockFor 2 (.requests ((s.ctx.due (f.c == 1) (f.s == 1) deadline).map fun r => (r.cls, r.num)))
    else
      (s.upd fun c => { c with sleepValid := false }).trap 0x60
        (BitVec.ofNat 32 (r.cls + r.num % 2 ^ 24 * 256))
  | none =>
    let (s, ok) := s.acquire f.scope.toNat
    if ok then (s.upd fun c => { c with sleepValid := false }).ends .done
    else s.blockFor 2 (.fence true false true 0)

/-- R321. A deadline before time 0 is kept as a negative number. -/
def State.sleepto (s : State) (f : SleepF) : State :=
  let c := s.ctx
  let d := (s.spec f.time 0 - s.mtc.setWidth 32).toInt
  let deadline : Int := if c.sleepValid then c.deadline.toInt else (s.mtc.toNat : Int) + d
  let s := s.upd fun c => { c with sleepValid := true, deadline := BitVec.ofInt 64 deadline }
  if (s.mtc.toNat : Int) < deadline then s.blockFor 2 (.deadline (BitVec.ofInt 64 deadline))
  else s.sleepCheck f deadline
/-- R321. -/
def execSleepto (f : SleepF) (s : State) : Out := .next (s.sleepto f)

/-- R321: the deadline of a sleeping context passes. -/
def execSleeptoDeadline (key : Nat) (s : State) : Out :=
  match (s.ctxAt key).wait with
  | none => .next s
  | some w =>
    match w.why with
    | .deadline t => .next (if t.toInt ≤ (s.mtc.toNat : Int) then s.unblock key else s)
    | _ => .next s

/-! ## Data phases (R308, R312 to R316) -/

/-- How an engine step ends. -/
inductive Went where
  /-- Its accesses are made; go on. -/
  | on (s : State)
  /-- It waits. -/
  | wait (s : State)
  /-- The request has stopped. -/
  | stop (s : State)

/-- R316: both the reads and the writes of a step are ready; if not, it waits or stops. -/
def State.engReady (s : State) (r : EngReq) (reads writes : List (Nat × Nat)) : Went :=
  let p := s.partyReq r
  match s.engineTry p {} r.demander reads with
  | (s, .wait) => .wait s
  | (s, .fault c code a) => .stop (s.engFault r c code a)
  | (s, .ready) =>
    match s.engineTry p { write := true } r.demander writes with
    | (s, .wait) => .wait s
    | (s, .fault c code a) => .stop (s.engFault r c code a)
    | (s, .ready) => .on s

/-- A request goes on to its next tile, row or chunk. -/
def EngReq.next (r : EngReq) : EngReq := { r with pos := r.pos + 1, tries := 0 }

/-- R140, R340: a reading failed: it is repeated, at most twice; then `fault` stops the request. -/
def State.readAgain (s : State) (r : EngReq) (fault : State → State) : Went :=
  if r.tries < 2 then .wait (s.updEng r.id fun r => { r with tries := r.tries + 1 }) else .stop (fault s)

/-- R140, R310: a tile was read that does not verify. -/
def State.unverified (s : State) (r : EngReq) (code : Word) : Went := s.readAgain r fun s => s.engFault r 0x41 code 0

/-- R312: one piece of a byte copy. -/
def State.copyPiece (s : State) (r : EngReq) (dst src len : Nat) : Went :=
  let n := min 128 (len - r.pos)
  let a := src + r.pos
  let b := dst + r.pos
  match s.engReady r [(a, n)] [(b, n)] with
  | .on s =>
    let p := s.partyReq r
    .on ((s.engineWrite p [(b, s.engineBytes p a n)]).updEng r.id fun r => { r with pos := r.pos + n })
  | w => w

/-- R288, R313: one tile of a tile copy. -/
def State.copyOneTile (s : State) (r : EngReq) (d a : Region) (mapped : Bool) (t : Nat) : Went :=
  let (p, q) := (t / d.gc, t % d.gc)
  let (x, y) := if mapped then (a.image p q).getD (0, 0) else (p, q)
  match s.engReady r (a.tileSpans x y ++ a.codeSpans) (d.tileSpans p q) with
  | .on s =>
    let party := s.partyReq r
    let rd : Nat → Nat → List Byte := fun a n => s.engineBytes party a n
    match a.verified rd x y with
    | none => s.unverified r (uncCode a rd x y)
    | some (tile, sums) =>
      .on (((s.traceReq r (a.fixes rd x y)).engineWrite party (d.tileWrites rd p q tile sums)).updEng r.id EngReq.next)
  | w => w

/-- R315: the index of the first row out of range. -/
def badIndex (d a : Region) (scatter : Bool) (idx : List Nat) : Option Nat :=
  (idx.zipIdx.find? fun (x, i) =>
    if scatter then a.rows ≤ i || d.rows ≤ x else d.rows ≤ i || a.rows ≤ x).map Prod.snd

/-- R315: reads and checks the index vector. -/
def State.readIndexes (s : State) (r : EngReq) (d a : Region) (idx n : Nat) (scatter : Bool) : Went :=
  match s.engReady r [(idx, 4 * n)] [] with
  | .on s =>
    let bs := s.engineBytes (s.partyReq r) idx (4 * n)
    let xs := (List.range n).map fun i => leNat ((bs.drop (4 * i)).take 4)
    match badIndex d a scatter xs with
    | some i => .stop (s.engFault r 0x63 (BitVec.ofNat 32 i) 0)
    | none => .on (s.updEng r.id fun r => { r with data := xs, pos := 1 })
  | w => w

/-- R315: the tiles of a row's block of rows. -/
def blockTiles (r : Region) (row : Nat) : List (Nat × Nat) := (List.range r.gc).map fun q => (row / r.tr, q)

/-- The bytes of a row and its scales. -/
def rowBytes (r : Region) (row : Nat) : List (Nat × Nat) :=
  (r.base + row * r.pitch, packedSize r.ty r.cols)
    :: if rowScales r = 0 then [] else [(r.scale + row * r.sstride, rowScales r)]

/-- R315: the elements of a row: from verified tiles when the region has trailers. -/
def rowElems (r : Region) (rd : Nat → Nat → List Byte) (row : Nat) : Option (List Word) :=
  if r.trailer == 0 then
    some (unpackRow r.ty (rd (r.base + row * r.pitch) (packedSize r.ty r.cols)) 0 r.cols)
  else
    (blockTiles r row).foldl (fun acc (p, q) =>
      match acc, r.verified rd p q with
      | some ws, some (t, _) => some (ws ++ t.rows.getD (row % r.tr) [])
      | _, _ => none) (some [])

/-- R479: what the read of a row corrects. -/
def rowFixes (r : Region) (rd : Nat → Nat → List Byte) (row : Nat) : List Fix :=
  if r.trailer == 0 then [] else (blockTiles r row).flatMap fun (p, q) => r.fixes rd p q

/-- R315: moves row `i` of the request. -/
def State.moveRow (s : State) (r : EngReq) (d a : Region) (scatter : Bool) (i : Nat) : Went :=
  let x := r.data.getD i 0
  let (src, dst) := if scatter then (i, x) else (x, i)
  let reads := if a.trailer == 0 then rowBytes a src
    else rowBytes a src ++ (blockTiles a src).flatMap (fun (p, q) => a.tileSpans p q) ++ a.codeSpans
  match s.engReady r reads (rowBytes d dst) with
  | .on s =>
    let party := s.partyReq r
    let rd : Nat → Nat → List Byte := fun a n => s.engineBytes party a n
    match rowElems a rd src with
    | none =>
      let bad := ((blockTiles a src).find? fun (p, q) => (a.verified rd p q).isNone).getD (0, 0)
      s.unverified r (uncCode a rd bad.1 bad.2)
    | some ws =>
      let at' := d.base + dst * d.pitch
      let row := (at', packRow d.ty (rd at' (packedSize d.ty d.cols)) 0 ws)
      let scales := if rowScales a = 0 then []
        else [(d.scale + dst * d.sstride, rd (a.scale + src * a.sstride) (rowScales a))]
      .on (((s.traceReq r (rowFixes a rd src)).engineWrite party (row :: scales)).updEng r.id EngReq.next)
  | w => w

/-- R315: the tiles of D whose trailers are regenerated at the end. -/
def touchedTiles (d : Region) (scatter : Bool) (idx : List Nat) : List (Nat × Nat) :=
  if d.trailer == 0 then []
  else ((idx.zipIdx.map fun (x, i) => (if scatter then x else i) / d.tr).eraseDups).flatMap fun p =>
    (List.range d.gc).map fun q => (p, q)

/-- R315, R335: regenerates the trailer of a tile of a region from the values that the tile holds. -/
def State.regenTile (s : State) (r : EngReq) (d : Region) (p q : Nat) : Went :=
  match s.engReady r (d.dataSpans p q ++ d.scaleSpans p q ++ d.codeSpans) [(d.trailerAt p q, trailerSpace d.tr d.tc)] with
  | .on s =>
    let party := s.partyReq r
    let t := d.readTile (fun a n => s.engineBytes party a n) p q
    .on ((s.engineWrite party [(d.trailerAt p q, trailerPadded d.ty d.tr d.tc t.regenerate)]).updEng r.id
      EngReq.next)
  | w => w

/-- R315: one step of a gather or scatter. -/
def State.rowsStep (s : State) (r : EngReq) (d a : Region) (idx n : Nat) (scatter : Bool) : Went :=
  if r.pos = 0 then s.readIndexes r d a idx n scatter
  else if r.pos ≤ n then s.moveRow r d a scatter (r.pos - 1)
  else match (touchedTiles d scatter r.data)[r.pos - n - 1]? with
    | some (p, q) => s.regenTile r d p q
    | none => .stop (s.updEng r.id fun r => { r with finished := true })

/-! ## The storage sequencer (R325) -/

/-- R323: the key of a byte of a staging half of a request's cluster: each half is an L2 slice that its launch
reserves. -/
def State.stageKey (s : State) (r : EngReq) (half off : Nat) : Nat :=
  let p := ((s.launchBy r.launch).getD Launch.none).staging.get (0, 0) r.cluster
  let n := if half = 0 then p.1 else p.2
  l2Key (n / 160) (n % 160) off
/-- The key of a byte of BAR2's storage region. -/
def storeKey (off : Nat) : Nat := 21 * 2 ^ 64 + off

/-- Changes a staging half. -/
def State.setHalf (s : State) (cluster half : Nat) (h : Half) : State :=
  s.updCluster cluster fun c => { c with halves := c.halves.setIfInBounds half h }
/-- A staging half. -/
def State.halfAt (s : State) (cluster half : Nat) : Half := (s.clusterAt cluster).halves.getD half {}
/-- The half that a request holds. -/
def State.halfOf (s : State) (r : EngReq) : Option Nat :=
  (List.range 2).find? fun h => (s.halfAt r.cluster h).req == some r.id

/-- R325: moves staged blocks to their destination, when no codec is named. -/
def State.moveStaged (s : State) (r : EngReq) (dst size : Nat) : Went :=
  match s.halfOf r with
  | none => .wait s
  | some h =>
    if !(s.halfAt r.cluster h).staged then .wait s
    else match s.engReady r [] [(dst, size)] with
      | .on s =>
        let bs := memRead s.mem (s.stageKey r h 0) size
        .stop (((s.engineWrite (s.partyReq r) [(dst, bs)]).setHalf r.cluster h {}).updEng r.id fun r =>
          { r with finished := true })
      | .stop s => .stop (s.setHalf r.cluster h {})
      | .wait s => .wait s

/-- R308: one step of a request of the copy engine. -/
def State.copyStep (s : State) (r : EngReq) : Went :=
  if s.deferredReq r then
    .stop ((match s.halfOf r with
      | some h => s.setHalf r.cluster h {}
      | none => s).stopEng r)
  else
    let finish (s : State) : Went := .stop (s.updEng r.id fun r => { r with finished := true })
    match r.work with
    | .bytes dst src len => if len ≤ r.pos then finish s else s.copyPiece r dst src len
    | .tiles d a mapped => if d.gr * d.gc ≤ r.pos then finish s else s.copyOneTile r d a mapped r.pos
    | .rows d a idx n scatter => if n = 0 then finish s else s.rowsStep r d a idx n scatter
    | .storage dst _ _ count block _ _ codec _ _ =>
      match codec with
      | none => s.moveStaged r dst (count * block)
      | some _ => .wait s
    | .force _ => .wait s
    | .xform _ _ => .wait s
    | .send _ _ _ _ => .wait s
    | .relay => .wait s

/-- Steps a request until it waits or stops. -/
def State.copyRun (s : State) (id : Nat) : Nat → State
  | 0 => s
  | fuel + 1 =>
    match s.engs.find? (·.id == id) with
    | none => s
    | some r =>
      match s.copyStep r with
      | .on s => State.copyRun s id fuel
      | .wait s => s
      | .stop s => s

/-- The steps that a request can take. -/
def EngReq.steps (r : EngReq) : Nat :=
  match r.work with
  | .bytes _ _ len => len / 128 + 2
  | .tiles d _ _ => d.gr * d.gc + 1
  | .rows d _ _ n _ => n + d.gr * d.gc + 2
  | _ => 2

/-- R308: the bytes that a request reads or writes. -/
def EngReq.footprint (r : EngReq) : List (Nat × Nat) :=
  match r.work with
  | .bytes dst src len => [(dst, len), (src, len)]
  | .tiles d a _ => d.allSpans ++ a.allSpans
  | .rows d a idx n _ => (idx, 4 * n) :: (d.allSpans ++ a.allSpans)
  | .storage dst _ _ count block _ _ codec ub pb =>
    [(dst, match codec with
      | none => count * block
      | some _ => count * block / max pb 1 * ub)]
  | _ => []

/-- R308: an earlier request of the same context touches its bytes. -/
def State.mustFollow (s : State) (r : EngReq) : Bool :=
  let mine := s.flatSpans (unitOf r.key) (s.partyReq r).session r.footprint
  (s.copyQueue r.cluster).any fun q => q.key == r.key && q.id < r.id
    && anyMeet mine (s.flatSpans (unitOf q.key) (s.partyReq q).session q.footprint)

/-- R320, R324: a request must start now to be done by its promise, unless congestion or a clock lowering has broken
that; a storage read leaves its drive TQ. -/
def State.owes (s : State) (r : EngReq) : Bool :=
  let lead := match r.work with
    | .storage _ _ _ _ _ _ tq _ _ _ => tq
    | _ => 0
  !r.slow && (s.ctxAt r.key).reqs.any fun q => q.cls == r.cls && q.num == r.num
    && q.promise.any fun p => Nat.ble p.toNat (s.mtc.toNat + lead)

/-- R308, R320: a request of an engine starts: its time has come, or it or a later one must start now. -/
def State.copyStarts (s : State) (r : EngReq) : Bool :=
  Nat.ble r.ready s.cycle || (s.copyQueue r.cluster).any fun q => Nat.ble r.id q.id && s.owes q

/-- R308: the engine starts its requests in order, and goes on with those that it has started. -/
def State.copySweep (s : State) (c : Nat) : State :=
  ((s.copyQueue c).foldl (fun (acc : State × Bool) r =>
    let (s, open') := acc
    if r.started || (open' && s.copyStarts r) then
      let s := s.updEng r.id fun r => { r with started := true }
      (if s.mustFollow r then s else s.copyRun r.id r.steps, open')
    else (s, false)) (s, true)).1

/-- R308. -/
def execCopyDataPhaseStart (cluster : Nat) (s : State) : Out := .next (s.copySweep cluster)

/-- R433: a write to the bus; outside the windows it is discarded and counted. -/
def State.busPut (s : State) (bus : Nat) (bs : List Byte) : State × Bool :=
  if hostAllowed s.hostWins bus bs.length true then ({ s with mem := memWrite s.mem (busKey bus) bs }, true)
  else (s.violate, false)

/-- R433: a write to the bus for a request; one that is discarded ends the launch. -/
def State.busWrite (s : State) (r : EngReq) (bus : Nat) (bs : List Byte) : State :=
  match s.busPut bus bs with
  | (s, true) => s
  | (s, false) => s.fatalAt r.launch r.key r.slot 0x95 r.addr 0 0

/-- R325: the submission entry; the bus addresses that it names are open (log entry 2). -/
def readEntry (cid nsid lba count p1 p2 p3 p4 : Nat) : List Byte :=
  leBytes 64 (2 + cid * 2 ^ 16 + nsid * 2 ^ 32 + (p1 + p2 * 2 ^ 32) * 2 ^ 192 + (p3 + p4 * 2 ^ 32) * 2 ^ 256
    + lba * 2 ^ 320 + (count - 1) * 2 ^ 384)

/-- R325: the sequencer submits a command for a request into a half. -/
def State.submit (s : State) (r : EngReq) (h nsid lba count qp tq : Nat) : State :=
  let q := s.qpairs.get {} qp
  let (p1, s) := s.freeWord
  let (p2, s) := s.freeWord
  let (p3, s) := s.freeWord
  let (p4, s) := s.freeWord
  let e := readEntry (2 * r.cluster + h) nsid lba count p1.toNat p2.toNat p3.toNat p4.toNat
  let tail := (q.tail + 1) % 2 ^ q.log2
  let s := { s with mem := memWrite s.mem (storeKey (q.sq + 64 * q.tail)) e
                    qpairs := s.qpairs.put qp { q with tail } }
  let s := s.setHalf r.cluster h { req := some r.id, qp, deadline := s.mtc.toNat + 16 * tq }
  (s.updEng r.id fun r => { r with started := true }).busWrite r q.sqBell (leBytes 4 tail)

/-- R308, R325: a free half takes the first storage request, of those that the engine has started, that holds
none. -/
def execStorageSubmit (cluster : Nat) (s : State) : Out :=
  match (List.range 2).find? fun h => s.halfAt cluster h == {} with
  | none => .next s
  | some h =>
    match (s.copyQueue cluster).find? fun r => r.cls == 5 && (s.halfOf r).isNone && r.started with
    | none => .next s
    | some r =>
      match r.work with
      | .storage _ lba nsid count _ qp tq _ _ _ => .next (s.submit r h nsid lba count qp tq)
      | _ => .next s

/-- R325: the head of a queue pair's completion queue moves on; the state, the doorbell and what is written to
it. -/
def State.cqPass (s : State) (qp : Nat) : State × Nat × List Byte :=
  let q := s.qpairs.get {} qp
  let head := (q.cqHead + 1) % 2 ^ q.log2
  ({ s with qpairs := s.qpairs.put qp { q with cqHead := head } }, q.cqBell, leBytes 4 head)

/-- R325: a completion is polled: its status, and the blocks that the drive wrote into the half. That of a command
that had timed out frees its half. -/
def State.nvmeDone (s : State) (cluster h : Nat) (status : BitVec 15) (data : List Byte) : State :=
  let half := s.halfAt cluster h
  if half.lost then
    let (s, bell, bs) := s.cqPass half.qp
    (s.busPut bell bs).1.setHalf cluster h {}
  else match half.req.bind fun id => s.engs.find? (·.id == id) with
  | none => s
  | some r =>
    match r.work with
    | .storage _ _ _ count block qp _ _ _ _ =>
      if half.staged || data.length != count * block && status == 0 then s
      else
        let (s, bell, bs) := s.cqPass qp
        let s := s.busWrite r bell bs
        if status != 0 then (s.engFault r 0x64 (status.setWidth 32) 0).setHalf cluster h {}
        else { s with mem := memWrite s.mem (s.stageKey r h 0) data }.setHalf cluster h { half with staged := true }
    | _ => s
/-- R325. -/
def execNvmeCompletion (cluster half : Nat) (status : BitVec 15) (data : List Byte) (s : State) : Out :=
  .next (s.nvmeDone cluster half status data)

/-- R325: a command without a completion after 16 TQ ticks. -/
def execNvmeTimeout (cluster half : Nat) (s : State) : Out :=
  let x := s.halfAt cluster half
  match x.req.bind fun id => s.engs.find? (·.id == id) with
  | none => .next s
  | some r =>
    if x.staged || s.mtc.toNat < x.deadline then .next s
    else .next ((s.engFault r 0x64 0x7FFF 0).setHalf cluster half { x with req := none, lost := true })

end Sys2Proof.Machine
end

