-- ==== Sys2Proof/Machine/Transform.lean ====
section
/-! DEFINITION. The transform units: PMOV, PRD, the transposer, the converters, the codecs and the
storage lanes (R327 to R343, R481). -/

namespace Sys2Proof.Machine

/-! ## Issue (R327 to R333) -/

/-- R327: the unit whose block holds a port: 0 transposer, 1 and 2 converters, 3 and 4 codecs. -/
def portUnit (port : BitVec 12) : Nat := port.toNat / 0x200
/-- R327: the place of a port in its block. -/
def portOff (port : BitVec 12) : Nat := port.toNat % 0x200

/-- R343. -/
def State.xfmbad (s : State) (code : Word) : State := s.trap 0x65 code

/-- R328, R330: a trigger enters its unit's queue. -/
def State.xfmIssue (s : State) (f : PmovF) (op : XfOp) : State :=
  let u := portUnit f.port
  if s.unitFull s.cluster u then
    s.stallFor 4 (.engine (1 + u) s.cluster)
  else match s.releaseAtIssue with
  | (s, false) => s
  | (s, true) => (s.enterEng 2 2 (f.ev == 1) (.xform u op)).ends .done

/-- R334. -/
def State.pmovTranspose (s : State) (f : PmovF) : State :=
  match s.descsBad { optTrailer := true } [f.dD, f.dA] with
  | some c => s.descbad c
  | none =>
    let d := regionOf (s.rdD f.dD.toNat) 0
    let a := regionOf (s.rdD f.dA.toNat) 0
    if !(spansHome s.unit d.allData && spansHome s.unit a.allData) then s.xfmbad 5
    else if d.ty != a.ty || tyIsMx d.ty || d.tr != a.tc || d.tc != a.tr || d.rows != a.cols
        || d.cols != a.rows || d.trailer == 0 || a.trailer == 0 then s.xfmbad 2
    else s.xfmIssue f (.transpose d a)
/-- R334. -/
def execPmovTranspose (f : PmovF) (s : State) : Out := .next (s.pmovTranspose f)

/-- R335. -/
def State.pmovConvert (s : State) (f : PmovF) : State :=
  match s.descsBad { optTrailer := true } [f.dD, f.dA] with
  | some c => s.descbad c
  | none =>
    let d := regionOf (s.rdD f.dD.toNat) 0
    let a := regionOf (s.rdD f.dA.toNat) 0
    let off := portOff f.port
    if !(spansHome s.unit d.allData && spansHome s.unit a.allData) then s.xfmbad 5
    else if d.rows != a.rows || d.cols != a.cols || !sameTile d a || d.trailer == 0 || a.trailer == 0 then
      s.xfmbad 2
    else if (tyIsMx d.ty && d.tc % 32 != 0) || (tyIsMx a.ty && a.tc % 32 != 0) then s.xfmbad 3
    else s.xfmIssue f (.convert d a (BitVec.ofNat 3 (off % 0x40 / 8)) (0x40 ≤ off) s.ctx.srWord)
/-- R335. -/
def execPmovConvert (f : PmovF) (s : State) : Out := .next (s.pmovConvert f)

/-- The config registers of the codec whose block holds a port. -/
def State.codecOf (s : State) (port : BitVec 12) : CodecCfg :=
  (s.clusterAt s.cluster).codecs.getD (portUnit port - 3) {}

/-- R327: the chunk kind of an encode port. -/
def encodeKind (off : Nat) : Nat :=
  match off with
  | 0 => 1
  | 8 => 2
  | 16 => 3
  | _ => 0

/-- R339. -/
def State.pmovEncode (s : State) (f : PmovF) : State :=
  match s.descsBad { optTrailer := true } [f.dA] with
  | some c => s.descbad c
  | none =>
    let a := regionOf (s.rdD f.dA.toNat) 0
    let base := dField (s.rdD f.dD.toNat) 0 56
    let cap := (s.spec f.sc 0).toNat
    let kind := encodeKind (portOff f.port)
    let cfg := s.codecOf f.port
    if !(spansHome s.unit a.allData && oneHome s.unit base (max cap 1)) then s.xfmbad 5
    else if tyIsMx a.ty || (kind == 2 && a.ty != 7 && a.ty != 11)
        || (kind == 3 && 65535 < cfg.ub.toNat * 8 / tyWidth a.ty) then s.xfmbad 3
    else s.xfmIssue f (.encode a base kind cap cfg.ub.toNat cfg.pb.toNat)
/-- R339. -/
def execPmovEncode (f : PmovF) (s : State) : Out := .next (s.pmovEncode f)

/-- R340. -/
def State.pmovDecode (s : State) (f : PmovF) : State :=
  match s.descsBad { optTrailer := true } [f.dD] with
  | some c => s.descbad c
  | none =>
    let d := regionOf (s.rdD f.dD.toNat) 0
    let base := dField (s.rdD f.dA.toNat) 0 56
    if !(spansHome s.unit d.allData && oneHome s.unit base 1) then s.xfmbad 5
    else if tyIsMx d.ty then s.xfmbad 3
    else s.xfmIssue f (.decode d base (s.codecOf f.port).pb.toNat)
/-- R340. -/
def execPmovDecode (f : PmovF) (s : State) : Out := .next (s.pmovDecode f)

/-- R341: a legal value of a config register. -/
def cfgLegal (off : Nat) (w : Word) : Bool :=
  let n := w.toNat
  match off with
  | 0x100 => n % 256 == 0 && 256 ≤ n && n ≤ 2 ^ 20
  | 0x108 => n == 0 || (n % 256 == 0 && 512 ≤ n && n ≤ 2 ^ 21)
  | _ => n ≤ 1

/-- R329, R330, R341: a config register is written at the end of the issue cycle. -/
def execPmovConfig (f : PmovF) (s : State) : Out :=
  let w := s.spec f.sc 0
  .next (if cfgLegal (portOff f.port) w then s.fixed 1 [.sys (0x1000 + f.port.toNat) w] else s.xfmbad 4)

/-- R332: a status word. -/
def State.unitStatus (s : State) (c u : Nat) : Word :=
  let ops := s.unitOps c u
  let lane := 3 ≤ u && (s.copyQueue c).any fun r => (match r.work with
    | .storage _ _ _ _ _ _ _ codec _ _ => codec == some (u - 3)
    | _ => false) && (match s.halfOf r with
    | some h => (s.halfAt c h).staged
    | none => false)
  BitVec.ofNat 32 ((ops.filter fun r => !r.started).length + (if ops.any (·.started) then 32 else 0)
    + if lane then 64 else 0)

/-- R331. -/
def execPrd (f : PrdF) (s : State) : Out :=
  let cfg := s.codecOf f.port
  .next (s.scalarLater f.sd (match portOff f.port with
    | 0x100 => cfg.ub
    | 0x108 => cfg.pb
    | 0x110 => cfg.route
    | _ => s.unitStatus s.cluster (portUnit f.port)))

/-! ## Chunks (R336 to R338, R481) -/

/-- R337: one bit of the CRC. -/
def crcBit (x : Nat) : Nat :=
  if 2 ^ 63 ≤ x then (x * 2 % 2 ^ 64) ^^^ 0x42F0E1EBA9EA3693 else x * 2
/-- R337: one byte, most significant bit first. -/
def crcByte (x b : Nat) : Nat := (List.range 8).foldl (fun x _ => crcBit x) (x ^^^ (b * 2 ^ 56))
/-- R337: CRC-64 of content. -/
def crc64 (bs : List Nat) : Nat := bs.foldl crcByte 0

/-- R481: a count's continuation bytes beyond a nibble of 15. -/
def lzExt (n : Nat) : List Nat :=
  if n < 15 then [] else List.replicate ((n - 15) / 255) 255 ++ [(n - 15) % 255]

/-- R481: a sequence: literals, and a match of offset and length unless it is the last. -/
def lzSeq (lits : List Nat) (m : Option (Nat × Nat)) : List Nat :=
  let l := lits.length
  match m with
  | none => (min l 15 * 16) :: (lzExt l ++ lits)
  | some (off, len) =>
    (min l 15 * 16 + min (len - 4) 15) :: (lzExt l ++ lits ++ [off % 256, off / 256] ++ lzExt (len - 4))

/-- R481: the hash of four bytes. -/
def lzHash (b : Array Nat) (i : Nat) : Nat :=
  (b.getD i 0 + 256 * b.getD (i + 1) 0 + 65536 * b.getD (i + 2) 0 + 16777216 * b.getD (i + 3) 0)
    * 2654435761 % 2 ^ 32 / 2 ^ 20

/-- R481: a match from `m` bytes on. -/
def lzGrow (b : Array Nat) (c i : Nat) : Nat → Nat → Nat
  | 0, m => m
  | fuel + 1, m =>
    if i + m < b.size - 5 && b.getD (c + m) 0 == b.getD (i + m) 0 then lzGrow b c i fuel (m + 1) else m

/-- The bytes from one position up to another. -/
def slice (b : Array Nat) (i j : Nat) : List Nat := (List.range (j - i)).map fun k => b.getD (i + k) 0

/-- R481: the matcher from position `i`, with literals pending from `lit`. -/
def lzRun (b : Array Nat) : Nat → Nat → Nat → SMap Nat → List Nat
  | 0, _, lit, _ => lzSeq (slice b lit b.size) none
  | fuel + 1, i, lit, tab =>
    if b.size < i + 12 then lzSeq (slice b lit b.size) none
    else
      let h := lzHash b i
      let tab' := tab.put h i
      match tab.find h with
      | some c =>
        if i - c ≤ 65535 && slice b c (c + 4) == slice b i (i + 4) then
          let m := lzGrow b c i b.size 4
          lzSeq (slice b lit i) (some (i - c, m)) ++ lzRun b fuel (i + m) (i + m) tab'
        else lzRun b fuel (i + 1) lit tab'
      | none => lzRun b fuel (i + 1) lit tab'

/-- R481: the LZ4 block of some bytes. -/
def lzEncode (bs : List Nat) : List Nat := lzRun bs.toArray (bs.length + 1) 0 0 []

/-- A continued count: its value and the bytes after it. -/
def lzCount : Nat → List Nat → Option (Nat × List Nat)
  | _, [] => none
  | n, b :: rest => if b == 255 then lzCount (n + 255) rest else some (n + b, rest)

/-- A count from its nibble. -/
def lzLen (nib : Nat) (bs : List Nat) : Option (Nat × List Nat) :=
  if nib < 15 then some (nib, bs) else lzCount 15 bs

/-- R340: a match copied byte by byte onto the output, which stands backwards. -/
def lzCopy (off : Nat) : Nat → List Nat → List Nat
  | 0, out => out
  | n + 1, out => lzCopy off n (out.getD (off - 1) 0 :: out)

/-- R340: decodes a block; the output stands backwards. -/
def lzDecode (ulen : Nat) : Nat → List Nat → List Nat → Option (List Nat)
  | 0, _, _ => none
  | _, [], _ => none
  | fuel + 1, tok :: bs, out =>
    match lzLen (tok / 16) bs with
    | none => none
    | some (l, bs) =>
      if bs.length < l || ulen < out.length + l then none
      else
        let out := (bs.take l).reverse ++ out
        match bs.drop l with
        | [] => if out.length == ulen then some out.reverse else none
        | [_] => none
        | o1 :: o2 :: bs =>
          let off := o1 + 256 * o2
          match lzLen (tok % 16) bs with
          | none => none
          | some (m, bs) =>
            if off == 0 || out.length < off || ulen < out.length + m + 4 then none
            else lzDecode ulen fuel bs (lzCopy off (m + 4) out)

/-- Content as 16-bit values. -/
def halfwords : List Nat → List Nat
  | a :: b :: rest => (a + 256 * b) :: halfwords rest
  | _ => []
/-- 16-bit values as bytes. -/
def fromHalves (xs : List Nat) : List Nat := xs.flatMap fun x => [x % 256, x / 256 % 256]

/-- R336: the zigzagged deltas of values. -/
def zigzag : Nat → List Nat → List Nat
  | _, [] => []
  | prev, x :: rest =>
    let d := (x + 65536 - prev) % 65536
    ((d * 2 % 65536) ^^^ (if 32768 ≤ d then 0xFFFF else 0)) :: zigzag x rest
/-- R336: the values of zigzagged deltas. -/
def unzigzag : Nat → List Nat → List Nat
  | _, [] => []
  | prev, z :: rest =>
    let x := (prev + ((z / 2) ^^^ (if z % 2 == 1 then 0xFFFF else 0))) % 65536
    x :: unzigzag x rest

/-- Bytes as numbers. -/
def natsOf (bs : List Byte) : List Nat := bs.map BitVec.toNat
/-- Numbers as bytes. -/
def bytesOf (xs : List Nat) : List Byte := xs.map (BitVec.ofNat 8)

/-- R227, R336: the BMV image of content. -/
def bmvImage (t : BitVec 4) (bs : List Nat) : List Nat :=
  let n := bs.length * 8 / tyWidth t
  let ws := (unpackRow t (bytesOf bs) 0 n).map (norm t)
  let nz := (ws.filter fun w => rawOf t w != 0).length
  natsOf (bmvHeader t n nz nz false ++ bmvBody t ws)

/-- R336: the payload of a kind. -/
def payload (t : BitVec 4) (kind : Nat) (bs : List Nat) : List Nat :=
  match kind with
  | 1 => lzEncode bs
  | 2 => lzEncode (fromHalves (zigzag 0 (halfwords bs)))
  | 3 => bmvImage t bs
  | _ => bs

/-- R336: a chunk's header. -/
def chunkHead (crc ulen kind clen : Nat) : List Byte :=
  leBytes 16 (clen + kind * 2 ^ 24 + ulen * 2 ^ 32 + crc * 2 ^ 64)

/-- R339: a chunk of a block of content: never larger than the content. -/
def makeChunk (t : BitVec 4) (kind : Nat) (bs : List Nat) : List Byte :=
  let pay := payload t kind bs
  let stored := kind == 0 || bs.length ≤ pay.length
  let pay := if stored then bs else pay
  chunkHead (crc64 bs) bs.length (if stored then 0 else kind) pay.length ++ bytesOf pay

/-- R338: the place after a chunk of `n` bytes at `a`. -/
def nextPlace (pb a n : Nat) : Nat := if pb = 0 then (a + n + 15) / 16 * 16 else a + pb

/-- R229, R336, R340: the content of a BMV image. -/
def bmvContent (t : BitVec 4) (ulen : Nat) (pay : List Nat) : Option (List Nat) :=
  let h := leNat (bytesOf (pay.take 8))
  let len := h % 65536
  let nz := h / 65536 % 65536
  let ml := 8 * ((len + 63) / 64)
  let mask := leNat (bytesOf ((pay.drop 8).take ml))
  if pay.length < 8 || (vldbBad t 65535 h).isSome || len * tyWidth t != 8 * ulen
      || pay.length < 8 + ml + packedSize t nz || onesIn mask (8 * ml) != nz || mask / 2 ^ len != 0 then none
  else
    let vs := unpackRow t (bytesOf (pay.drop (8 + ml))) 0 nz
    some (natsOf (packElems t (bmvElems t mask len 0 vs)))

/-- R340: the content of a payload, or none for a bad one; `t` is the region's type. -/
def chunkContent (t : BitVec 4) (kind ulen : Nat) (pay : List Nat) : Option (List Nat) :=
  match kind with
  | 0 => some pay
  | 1 => lzDecode ulen (pay.length + 1) pay []
  | 2 =>
    if ulen % 2 == 1 then none
    else (lzDecode ulen (pay.length + 1) pay []).map fun z => fromHalves (unzigzag 0 (halfwords z))
  | _ => bmvContent t ulen pay

/-- R336, R340: the parts of a header. -/
structure ChunkHead where
  clen : Nat
  kind : Nat
  ulen : Nat
  crc : Nat
  bad : Bool

/-- R336, R340. -/
def chunkHeadOf (bs : List Byte) : ChunkHead :=
  let x := leNat bs
  let clen := x % 2 ^ 24
  let kind := x / 2 ^ 24 % 16
  let ulen := x / 2 ^ 32 % 2 ^ 24
  let bad := x / 2 ^ 28 % 16 != 0 || x / 2 ^ 56 % 256 != 0 || (4 ≤ kind && kind ≤ 14) || 2 ^ 20 < ulen
    || (kind == 0 && clen != ulen) || (kind ≤ 3 && ulen == 0) || (kind == 15 && (ulen != 0 || clen != 0))
  { clen, kind, ulen, crc := x / 2 ^ 64, bad }

/-! ## Operations (R334 to R340) -/

/-- A request's finish. -/
def State.xfDone (s : State) (r : EngReq) : Went := .stop (s.updEng r.id fun r => { r with finished := true })

/-- R334, R335: reads, verifies and rewrites tile `pos`: `src` gives its source tile's place, and `make`
the tile and its checks. -/
def State.xfTile (s : State) (r : EngReq) (d a : Region) (src : Nat → Nat → Nat × Nat)
    (make : RawTile → Sums → RawTile × Sums) : Went :=
  let (p, q) := (r.pos / d.gc, r.pos % d.gc)
  let (x, y) := src p q
  match s.engReady r (a.tileSpans x y ++ a.codeSpans) (d.tileSpans p q) with
  | .on s =>
    let party := s.partyReq r
    let rd : Nat → Nat → List Byte := fun a n => s.engineBytes party a n
    match a.verified rd x y with
    | none => s.unverified r (uncCode a rd x y)
    | some (t, sums) =>
      let (t, sums) := make t sums
      .on (((s.traceReq r (a.fixes rd x y)).engineWrite party (d.tileWrites rd p q t sums)).updEng r.id EngReq.next)
  | w => w

/-- R335: the codebook of a cb4 target is read once. -/
def State.readCodebook (s : State) (r : EngReq) (d : Region) : Went :=
  match s.engReady r d.codeSpans [] with
  | .on s =>
    let cb := codebookOf (s.engineBytes (s.partyReq r) d.codebook 32)
    .on (s.updEng r.id fun r => { r with data := cb.map BitVec.toNat })
  | w => w

/-- R339: the content of a region, or the TCODE of a tile that is uncorrectable. -/
def regionContent (a : Region) (rd : Nat → Nat → List Byte) : Except Word (List Nat) :=
  let bad := if a.trailer == 0 then none else a.tiles.find? fun (p, q) => (a.verified rd p q).isNone
  match bad with
  | some (p, q) => .error (uncCode a rd p q)
  | none => .ok ((List.range a.rows).flatMap fun i =>
      let n := packedSize a.ty a.cols
      let old := rd (a.base + i * a.pitch) n
      natsOf (match rowElems a rd i with
        | some ws => packRow a.ty old 0 ws
        | none => old))

/-- R339: the region is read and verified. -/
def State.encodeRead (s : State) (r : EngReq) (a : Region) (base : Nat) : Went :=
  match s.engReady r (a.allSpans ++ a.codeSpans) [] with
  | .on s =>
    let party := s.partyReq r
    let rd : Nat → Nat → List Byte := fun a n => s.engineBytes party a n
    match regionContent a rd with
    | .error c => s.unverified r c
    | .ok bs =>
      let fs := if a.trailer == 0 then [] else a.tiles.flatMap fun (p, q) => a.fixes rd p q
      .on ((s.traceReq r fs).updEng r.id fun r => { r with data := base :: bs, pos := 1, tries := 0 })
  | w => w

/-- R339: one block of an encode; `data` holds the next place and the content. -/
def State.encodeStep (s : State) (r : EngReq) (a : Region) (base kind cap ub pb : Nat) : Went :=
  match r.data with
  | [] => s.encodeRead r a base
  | place :: content =>
    let block := (content.drop ((r.pos - 1) * ub)).take ub
    if block.isEmpty then
      match s.engReady r [] [(place, 16)] with
      | .on s => (s.engineWrite (s.partyReq r) [(place, chunkHead 0 0 15 0)]).xfDone r
      | w => w
    else
      let chunk := makeChunk a.ty kind block
      let next := nextPlace pb place chunk.length
      if pb != 0 && pb < chunk.length then .stop (s.engFault r 0x66 2 0)
      else if base + cap < next + 16 then .stop (s.engFault r 0x66 1 0)
      else
        let bs := chunk ++ List.replicate (next - place - chunk.length) 0
        match s.engReady r [] [(place, bs.length)] with
        | .on s =>
          .on ((s.engineWrite (s.partyReq r) [(place, bs)]).updEng r.id fun r =>
            { r with data := next :: content, pos := r.pos + 1 })
        | w => w

/-- R336: where content bytes lie in a region: address and bytes, row by row. -/
def contentWrites (d : Region) (out : Nat) : List Nat → List (Nat × List Byte)
  | bs =>
    let n := packedSize d.ty d.cols
    (List.range (bs.length / max n 1 + 2)).filterMap fun k =>
      let row := out / n + k
      let lo := max out (row * n)
      let hi := min (out + bs.length) ((row + 1) * n)
      if hi ≤ lo then none
      else some (d.base + row * d.pitch + lo % n, bytesOf ((bs.drop (lo - out)).take (hi - lo)))

/-- R340: a chunk failed: it is read and decoded again, at most twice; then CHUNK. -/
def State.chunkFault (s : State) (r : EngReq) (cond i : Nat) : Went :=
  s.readAgain r fun s => s.engFault r 0x62 (BitVec.ofNat 32 (cond + i * 256)) 0

/-- R340: one chunk of a decode: `i` its index, `place` where it lies, `out` the bytes before it. -/
def State.decodeChunk (s : State) (r : EngReq) (d : Region) (pb total i place : Nat) : Went :=
  match s.engReady r [(place, 16)] [] with
  | .on s =>
    let party := s.partyReq r
    let h := chunkHeadOf (s.engineBytes party place 16)
    if h.bad then s.chunkFault r 2 i
    else if h.kind == 15 || total < r.pos + h.ulen then s.chunkFault r 4 i
    else match s.engReady r [(place + 16, h.clen)] [] with
      | .on s =>
        match chunkContent d.ty h.kind h.ulen (natsOf (s.engineBytes party (place + 16) h.clen)) with
        | none => s.chunkFault r 3 i
        | some bs =>
          if crc64 bs != h.crc then s.chunkFault r 1 i
          else
            let ws := contentWrites d r.pos bs
            match s.engReady r [] (ws.map fun w => (w.1, w.2.length)) with
            | .on s =>
              .on ((s.engineWrite party ws).updEng r.id fun r =>
                { r with pos := r.pos + h.ulen, tries := 0, data := [i + 1, nextPlace pb place (16 + h.clen)] })
            | w => w
      | w => w
  | w => w

/-- R340: one step of a decode: a chunk, or a trailer once all content is written. -/
def State.decodeStep (s : State) (r : EngReq) (d : Region) (base pb : Nat) : Went :=
  let total := d.rows * packedSize d.ty d.cols
  if r.pos < total then s.decodeChunk r d pb total (r.data.getD 0 0) (r.data.getD 1 base)
  else if d.trailer == 0 then s.xfDone r
  else match d.tiles[r.pos - total]? with
    | some (p, q) => s.regenTile r d p q
    | none => s.xfDone r

/-- R286, R292, R328: the tile of an evaluation: the unit reads and computes it, and is busy until it is
written. -/
def State.tileStep (s : State) (r : EngReq) (id : Nat) : Went :=
  match s.evals.find? (·.id == id) with
  | none => s.xfDone r
  | some e =>
    match e.st, s.nodeOf e.node with
    | .waiting, some n => .wait (s.evalReads e n fun s => s.computeEval e n)
    | .waiting, none => s.xfDone r
    | .computed _ _ _ _ _ _, _ => .wait s
    | .failed _, _ => .wait s

/-- R334 to R340: one step of an operation. -/
def State.xfStep (s : State) (r : EngReq) (op : XfOp) : Went :=
  if s.deferredReq r then .stop (s.stopEng r)
  else match op with
  | .transpose d a =>
    if d.gr * d.gc ≤ r.pos then s.xfDone r
    else s.xfTile r d a (fun p q => (q, p)) fun t sums =>
      ({ t with m := d.tr, n := d.tc, rows := transposeRows t.n t.rows }, { rc := sums.cc, cc := sums.rc, ck := sums.ck })
  | .convert d a mode sat rw =>
    if d.ty == 5 && r.data.isEmpty then s.readCodebook r d
    else if d.gr * d.gc ≤ r.pos then s.xfDone r
    else s.xfTile r d a (fun p q => (p, q)) fun t _ =>
      let t' := encodeTile d.ty (r.data.map (BitVec.ofNat 32)) mode sat rw d.tc t.grid
      (t', t'.regenerate)
  | .encode a base kind cap ub pb => s.encodeStep r a base kind cap ub pb
  | .decode d base pb => s.decodeStep r d base pb
  | .tile id => s.tileStep r id

/-- Steps an operation until it waits or stops. -/
def State.xfRun (s : State) (id : Nat) (op : XfOp) : Nat → State
  | 0 => s
  | fuel + 1 =>
    match s.engs.find? (·.id == id) with
    | none => s
    | some r =>
      match s.xfStep r op with
      | .on s => State.xfRun s id op fuel
      | .wait s => s
      | .stop s => s

/-- The steps that an operation can take. -/
def XfOp.steps : XfOp → Nat
  | .transpose d _ => d.gr * d.gc + 1
  | .convert d _ _ _ _ => d.gr * d.gc + 2
  | .encode a _ _ _ ub _ => a.rows * packedSize a.ty a.cols / max ub 1 + 4
  | .decode d _ _ => d.rows * packedSize d.ty d.cols + d.gr * d.gc + 2
  | .tile _ => 1

/-- R295, R328: a unit starts its first queued operation, or goes on with the one that runs. -/
def execTransformOpStart (cluster unit : Nat) (s : State) : Out :=
  match s.unitOps cluster unit with
  | [] => .next s
  | r :: _ =>
    match r.work with
    | .xform _ op =>
      if r.started || r.ready ≤ s.cycle then
        .next ((s.updEng r.id fun r => { r with started := true, work := .xform unit op }).xfRun r.id op op.steps)
      else .next s
    | _ => .next s

/-! ## Storage lanes (R342) -/

/-- R342: chunk `i` of a staged stream, read from the staging area. -/
def State.laneChunk (s : State) (r : EngReq) (h dst ub pb i : Nat) : Went :=
  let at' := s.stageKey r h (i * pb)
  let hd := chunkHeadOf (memRead s.mem at' 16)
  if hd.bad then s.chunkFault r 2 i
  else if hd.kind == 15 then s.xfDone r
  else if ub < hd.ulen then s.chunkFault r 4 i
  else
    let pay := natsOf (memRead s.mem (at' + 16) hd.clen)
    let ty := BitVec.ofNat 4 (leNat (bytesOf (pay.take 8)) / 2 ^ 48 % 16)
    match chunkContent ty hd.kind hd.ulen pay with
    | none => s.chunkFault r 3 i
    | some bs =>
      if crc64 bs != hd.crc then s.chunkFault r 1 i
      else match s.engReady r [] [(dst + r.pos, bs.length)] with
        | .on s =>
          .on ((s.engineWrite (s.partyReq r) [(dst + r.pos, bytesOf bs)]).updEng r.id fun r =>
            { r with pos := r.pos + bs.length, tries := 0, data := [i + 1] })
        | w => w

/-- R342: decodes a staged stream until it waits or stops; the half is then free. -/
def State.laneRun (s : State) (id h dst ub pb n : Nat) : Nat → State
  | 0 => s
  | fuel + 1 =>
    match s.engs.find? (·.id == id) with
    | none => s
    | some r =>
      let i := r.data.getD 0 0
      let free (s : State) : State := s.setHalf r.cluster h {}
      if s.deferredReq r then free (s.stopEng r)
      else if n ≤ i then free (s.updEng r.id fun r => { r with finished := true })
      else match s.laneChunk r h dst ub pb i with
        | .on s => State.laneRun s id h dst ub pb n fuel
        | .wait s => s
        | .stop s => free s

/-- R308, R342: a codec's storage lane takes the first CPSTOR that names it, after the earlier requests of its
context that touch its bytes. -/
def execStorageLaneDecode (cluster codec : Nat) (s : State) : Out :=
  let mine := (s.copyQueue cluster).filter fun r => match r.work with
    | .storage _ _ _ _ _ _ _ c _ _ => c == some codec
    | _ => false
  match mine with
  | [] => .next s
  | r :: _ =>
    match r.work, s.halfOf r with
    | .storage dst _ _ count block _ _ _ ub pb, some h =>
      if (s.halfAt cluster h).staged && !s.mustFollow r then
        .next (s.laneRun r.id h dst ub pb (count * block / max pb 1) (count * block / max pb 1 + 1))
      else .next s
    | _, _ => .next s

end Sys2Proof.Machine
end

