-- ==== Sys2Proof/Machine/Walk.lean ====
section
/-! DEFINITION. The tile-walk engines: WALK, BATON and the engines' tiles (R344 to R360). A walk of a
launch that does not run is held: its engine moves nothing. -/

namespace Sys2Proof.Machine

/-! ## Handles and tiles (R344, R347) -/

/-- R344: a walk's handle. -/
def Walk.handle (w : Walk) : Word :=
  BitVec.ofNat 32 (w.cluster * 2 ^ 24 + w.engine * 2 ^ 22 + w.slot * 2 ^ 19 + w.gen * 2 ^ 11)
/-- R344: the walk of the acting context's launch that a handle names; none when it is stale. -/
def State.walkOf (s : State) (h : Word) : Option Walk :=
  s.walks.find? fun w => w.handle == h && w.launch == s.launch.uid && s.launch.mask.getLsbD w.cluster
/-- R344: the place of a walk slot in the table of generations. -/
def walkPlace (cluster engine slot : Nat) : Nat := cluster * 32 + engine * 8 + slot
/-- R359: a handle names the last storer that ended in its walk slot. -/
def State.storerEnded (s : State) (h : Word) : Bool :=
  s.launch.mask.getLsbD (h.toNat / 2 ^ 24)
    && s.storerEnds.get 0 (walkPlace (h.toNat / 2 ^ 24) (h.toNat / 2 ^ 22 % 4) (h.toNat / 2 ^ 19 % 8)) == h.toNat
    && h != 0
/-- Changes a walk. -/
def State.updWalk (s : State) (id : Nat) (f : Walk → Walk) : State :=
  { s with walks := modifyFirst (·.id == id) f s.walks }

/-- R346: an 8-bit step. -/
def step8 (x : Nat) : Int := if x < 128 then x else (x : Int) - 256

/-- R346: a record from its 32 bytes. -/
def walkRecOf (x : Nat) : WalkRec :=
  let f (lo n : Nat) : Nat := x / 2 ^ lo % 2 ^ n
  { q0 := f 240 16, p0 := f 224 16, dq2 := step8 (f 216 8), dp2 := step8 (f 208 8), dq1 := step8 (f 200 8)
    dp1 := step8 (f 192 8), n1 := f 160 16, count := f 128 24, sscale := f 96 16, strail := f 80 16
    spitch := f 64 16, stride := f 32 32, n := f 20 4 + 1, ring := f 0 20 }
/-- R346: a reserved field of a record is not zero. -/
def walkReserved (x : Nat) : Bool :=
  x / 2 ^ 176 % 2 ^ 16 != 0 || x / 2 ^ 152 % 2 ^ 8 != 0 || x / 2 ^ 112 % 2 ^ 16 != 0 || x / 2 ^ 24 % 2 ^ 8 != 0

/-- R347: the tile at a point of the walk's box. -/
def WalkRec.at' (r : WalkRec) (i1 i2 : Nat) : Int × Int :=
  (r.p0 + r.dp1 * i1 + r.dp2 * i2, r.q0 + r.dq1 * i1 + r.dq2 * i2)
/-- R347: tile j. -/
def WalkRec.tile (r : WalkRec) (j : Nat) : Nat × Nat :=
  let (p, q) := r.at' (j % r.n1) (j / r.n1)
  (p.toNat, q.toNat)

/-- R347: a slot of the ring on a core, as a region of one tile. -/
def Walk.slotRegion (w : Walk) (core k : Nat) : Region :=
  let base := 0x00F2000000000000 + core * 2 ^ 20 + w.record.ring + k * w.record.stride
  { w.d with base, rows := w.d.tr, cols := w.d.tc, pitch := w.record.spitch, trailer := w.record.strail
             scale := base + w.record.sscale, sstride := w.d.tc / 32 }

/-- R347: the first tile of a slot. -/
def Walk.first (w : Walk) (k : Nat) : Nat :=
  w.j0 + (k + w.record.n - w.j0 % w.record.n) % w.record.n
/-- Where a walk counts the fills given back: per core for a loader. -/
def Walk.giveKey (w : Walk) (core k : Nat) : Nat := (if w.storer then 0 else 16 * core) + k
/-- R356: the smallest tile of a slot that has not been given back. -/
def Walk.nextOf (w : Walk) (core k : Nat) : Nat := w.first k + w.record.n * w.given.get 0 (w.giveKey core k)
/-- R347: how many tiles the walk moves. -/
def Walk.total (w : Walk) : Nat := w.record.count - w.j0
/-- R352: the next tile of a loader. -/
def Walk.nextTile (w : Walk) : Nat := w.j0 + w.moved
/-- The cores of the multicast set. -/
def Walk.cores (w : Walk) : List Nat := (List.range 8).filter fun c => w.mcast / 2 ^ c % 2 == 1

/-! ## WALK (R349 to R351) -/

/-- R350: the condition that fails. -/
def walkBad (u : Nat) (d : Region) (mcast addr x : Nat) (storer : Bool) : Option Nat :=
  let r := walkRecOf x
  let row := packedSize d.ty d.tc
  let m := if tyIsMx d.ty then d.tr * (d.tc / 32) else 0
  let i1 := min r.n1 r.count - 1
  let i2 := (r.count - 1) / r.n1
  let inGrid (p : Int × Int) : Bool := 0 ≤ p.1 && p.1 < d.gr && 0 ≤ p.2 && p.2 < d.gc
  let bits := ((List.range 8).filter fun c => mcast / 2 ^ c % 2 == 1).length
  let home := homeOf u d.base
  if walkReserved x || r.spitch < row || r.strail < (d.tr - 1) * r.spitch + row
      || r.strail % 256 != 0 || r.strail == 0 || r.spitch % 4 != 0 || r.stride % 256 != 0 || r.ring % 256 != 0
      || r.stride < r.strail + trailerSpace d.tr d.tc + (if r.sscale != 0 then m else 0)
      || (r.sscale != 0) != tyIsMx d.ty || 2 ^ 20 < r.ring + r.n * r.stride then some 2
  else if r.count == 0 || r.n1 == 0 then some 3
  else if !(inGrid (r.at' 0 0) && inGrid (r.at' i1 0) && inGrid (r.at' 0 i2) && inGrid (r.at' i1 i2)) then some 4
  else if (if storer then bits != 1 else bits == 0) then some 5
  else if d.trailer == 0 || !spansHome u d.allData || home == some 16 || home == some 18 then some 6
  else if addr % 32 != 0 then some 1
  else none

/-- R344, R351: a walk takes a slot; its request is done at once. -/
def State.startWalk (s : State) (f : WalkF) (slot : Nat) (d : BitVec 512) (x : Nat) : State :=
  let eng := f.engine.toNat
  let gk := walkPlace s.cluster eng slot
  let g := s.walkGens.get 0 gk
  let gen := if g == 255 then 1 else g + 1
  let r := walkRecOf x
  let storer := f.st == 1
  let j0 := dCursor d
  let (id, s) := s.fresh
  let b : Baton := if storer then .compute else .engine
  let w : Walk := { id, cluster := s.cluster, engine := eng, slot, gen, launch := s.launch.uid, key := s.cur
                    task := s.taskNo, eslot := s.slot, addr := unitsAddr s.ctx.pc, storer, ev := f.ev == 1
                    d := regionOf d 0, mcast := dMcast d, record := r, j0, batons := List.replicate r.n b }
  let s := { s with walks := s.walks ++ [w], walkGens := s.walkGens.put gk gen }
  let (num, s) := s.issueNumber 3 none
  (s.upd fun c => c.reqDone 3 num).scalarLater f.hd w.handle

/-- R360: a walk holds its slot: its launch is not pre-empted. -/
def State.walkHere (s : State) (w : Walk) : Bool :=
  (s.launchBy w.launch).any fun l => l.st != .preempted

/-- R349, R350. -/
def State.walk (s : State) (f : WalkF) : State :=
  let dd := s.rdD f.dn.toNat
  let addr := (s.rdA f.aw.toNat).toNat
  match s.descsBad {} [f.dn] with
  | some c => s.descbad c
  | none =>
    let home := homeOf s.unit addr
    if addr % 32 != 0 || (home != some 16 && home != some 17) || homeOf s.unit (addr + 31) != home then s.trap 0x70 1
    else match s.operandsReady [(addr, 32)] with
    | (s, false) => s
    | (s, true) =>
      let x := leNat (s.engineBytes (s.partyOf s.cur) addr 32)
      match walkBad s.unit (regionOf dd 0) (dMcast dd) addr x (f.st == 1) with
      | some c => s.trap 0x70 (BitVec.ofNat 32 c)
      | none =>
        let held := (s.walks.filter fun w => w.cluster == s.cluster && w.engine == f.engine.toNat && s.walkHere w).map (·.slot)
        match (List.range 8).find? fun k => !held.contains k with
        | none => s.stallFor 4 (.engine (10 + f.engine.toNat) s.cluster)
        | some slot =>
          match s.releaseAtIssue with
          | (s, false) => s
          | (s, true) => s.startWalk f slot dd x
/-- R349. -/
def execWalk (f : WalkF) (s : State) : Out := .next (s.walk f)

/-! ## The end of a walk (R351, R360) -/

/-- R354: some slot is FULL. -/
def Walk.anyFull (w : Walk) : Bool :=
  w.batons.any fun b => match b with
    | .full _ => true
    | .engine => false
    | .compute => false
    | .done => false

/-- R354: slots that the engine holds and that have no further tile are DONE. -/
def Walk.settle (w : Walk) : Walk :=
  { w with batons := w.batons.zipIdx.map fun (b, k) =>
      let further := if w.storer then true else w.nextTile < w.record.count && (List.range w.record.n).any fun i =>
        w.nextTile + i < w.record.count && (w.nextTile + i) % w.record.n == k
      match b with
      | .engine => if further && w.st == .active then b else .done
      | _ => b }

/-- R351: a walk that is over and has no FULL slot leaves its walk slot. -/
def State.freeWalk (s : State) (id : Nat) : State :=
  { s with walks := s.walks.filter fun w => w.id != id || w.st == .active || w.anyFull }

/-- R349, R351: a walk ends. -/
def State.endWalk (s : State) (w : Walk) : State :=
  let s := if w.ev then s.postEvent w.cluster (eventA 3 w.handle.toNat) (eventB w.key 3) else s
  let s := if w.storer then
    { s with storerEnds := s.storerEnds.put (walkPlace w.cluster w.engine w.slot) w.handle.toNat } else s
  (s.updWalk w.id fun w => { w with st := .ended }.settle).freeWalk w.id

/-- R360: a walk stops: every slot goes to DONE. -/
def State.stopWalk (s : State) (w : Walk) : State :=
  (s.updWalk w.id fun w => { w with st := .stopped, batons := w.batons.map fun _ => .done }).freeWalk w.id

/-- R360: a fault stops a walk, and reaches its context. -/
def State.failWalk (s : State) (w : Walk) (cause : Nat) (code : Word) (addr : Nat) : State :=
  let s := s.stopWalk w
  if cause == 0x33 || cause == 0x95 then s.fatalAt w.launch w.key w.eslot cause w.addr code 0
  else s.walkFault w { cause, tcode := code, addr := ad addr }

/-- The party of a walk: any core of its cluster addresses its scratchpads alike. -/
def State.partyWalk (s : State) (w : Walk) : Party :=
  let l := (s.launchBy w.launch).getD Launch.none
  { unit := unitNo w.cluster 0, session := l.session, launch := w.launch, secure := l.secure, req := w.id
    who := w.id }

/-- R316: how a walk demands. -/
def Walk.demander (w : Walk) : Demander :=
  { site := some { kind := 4, key := w.key, slot := w.eslot, addr := w.addr, req := w.id } }

/-- R360: the launch of a walk runs. -/
def State.walkRuns (s : State) (w : Walk) : Bool :=
  w.st == .active && (s.launchBy w.launch).any fun l => l.st == .running || l.st == .retiring

/-! ## The engines' tiles (R352, R353) -/

/-- R140, R352, R353: reads, verifies and writes one tile from one region to others; then goes on. A tile that does
not verify is read again, at most twice. -/
def State.walkMove (s : State) (w : Walk) (src : Region) (sp sq : Nat) (dsts : List (Region × Nat × Nat))
    (done : State → State) : State :=
  let p := s.partyWalk w
  if s.deferred.contains w.id then
    { s with deferred := s.deferred.filter (· != w.id) }.stopWalk w
  else match s.engineTry p {} w.demander (src.tileSpans sp sq ++ src.codeSpans) with
  | (s, .wait) => s
  | (s, .fault c code a) => s.failWalk w c code a
  | (s, .ready) =>
    match s.engineTry p { write := true } w.demander (dsts.flatMap fun (r, x, y) => r.tileSpans x y) with
    | (s, .wait) => s
    | (s, .fault c code a) => s.failWalk w c code a
    | (s, .ready) =>
      let rd : Nat → Nat → List Byte := fun a n => s.engineBytes p a n
      match src.verified rd sp sq with
      | none =>
        if w.tries < 2 then s.updWalk w.id fun w => { w with tries := w.tries + 1 }
        else s.failWalk w 0x41 (uncCode src rd sp sq) 0
      | some (t, sums) =>
        let s := (s.traceFixes w.key w.eslot w.addr 0 false (src.fixes rd sp sq)).updWalk w.id fun w =>
          { w with tries := 0 }
        done (dsts.foldl (fun s (r, x, y) => s.engineWrite p (r.tileWrites rd x y t sums)) s)

/-- R352: a loader moves its next tile, when its engine holds the baton of the slot. -/
def State.loaderTile (s : State) (w : Walk) : State :=
  let j := w.nextTile
  let k := j % w.record.n
  if w.record.count ≤ j then s.endWalk w
  else if w.batons.getD k .done != .engine then s
  else
    let (p, q) := w.record.tile j
    s.walkMove w w.d p q (w.cores.map fun c => (w.slotRegion c k, 0, 0)) fun s =>
      let s := s.updWalk w.id fun w =>
        { w with batons := w.batons.set k (.full w.mcast), moved := w.moved + 1 }.settle
      if j + 1 == w.record.count then s.endWalk w else s
/-- R352. -/
def execLoaderTile (cluster engine slot : Nat) (s : State) : Out :=
  match s.walks.find? fun w => w.cluster == cluster && w.engine == engine && w.slot == slot && s.walkRuns w with
  | none => .next s
  | some w => .next (if s.walkRuns w && !w.storer then s.loaderTile w else s)

/-- R353: a storer moves the tile whose baton arrived first; a slot that has no tile goes to DONE (R354). -/
def State.storerTile (s : State) (w : Walk) : State :=
  if w.total ≤ w.moved then s.endWalk w
  else match w.arrivals with
  | [] => s
  | k :: rest =>
    let core := w.cores.headD 0
    let j := w.nextOf core k - w.record.n
    let (p, q) := w.record.tile j
    if w.record.count ≤ j then s.updWalk w.id fun w => { w with batons := w.batons.set k .done, arrivals := rest }
    else s.walkMove w (w.slotRegion core k) 0 0 [(w.d, p, q)] fun s =>
      let b : Baton := if j + w.record.n < w.record.count then .compute else .done
      let s := s.updWalk w.id fun w =>
        { w with batons := w.batons.set k b, moved := w.moved + 1, arrivals := rest }
      if w.moved + 1 == w.total then s.endWalk w else s
/-- R353. -/
def execStorerTile (cluster engine slot : Nat) (s : State) : Out :=
  match s.walks.find? fun w => w.cluster == cluster && w.engine == engine && w.slot == slot && s.walkRuns w with
  | none => .next s
  | some w => .next (if s.walkRuns w && w.storer then s.storerTile w else s)

/-! ## BATON (R355 to R359) -/

/-- R371. -/
def State.batonbad (s : State) (code : Word) : State := s.trap 0x72 code

/-- R356, R357: the calling core is not of the walk's set. -/
def State.outsideSet (s : State) (w : Walk) : Bool :=
  s.cluster != w.cluster || !w.cores.contains (coreOf s.unit)

/-- R356: a core holds a slot's baton. -/
def Walk.holds (w : Walk) (core k : Nat) : Bool :=
  match w.batons.getD k .done with
  | .full pend => pend / 2 ^ core % 2 == 1
  | .compute => w.storer
  | .engine => false
  | .done => false

/-- R359: a wait acquires at a scope, and then writes its result. -/
def State.batonDone (s : State) (sd : BitVec 5) (scope : Nat) (x : Word) : State :=
  let (s, ok) := s.acquire scope
  if ok then s.scalarLater sd x else s.blockFor 4 (.fence false false true 0)

/-- R356, R359. An ended storer leaves its slot at once, as no slot of it is FULL (R351), so that the wait that
finds it ended is one whose handle has become stale. -/
def State.batonWait (s : State) (f : BatonF) : State :=
  let h := s.spec f.h 0
  let k := (s.spec f.k 0).toNat
  let core := coreOf s.unit
  match s.walkOf h with
  | none => if s.storerEnded h then s.batonDone f.sd 4 0 else s.scalarLater f.sd 0
  | some w =>
    if s.outsideSet w then s.batonbad 1
    else if w.record.n ≤ k then s.batonbad 3
    else
      let n := w.nextOf core k
      if w.record.count ≤ n || w.st == .stopped then s.scalarLater f.sd 0
      else if !w.holds core k then s.blockFor 4 (.baton h k)
      else s.batonDone f.sd 2 (BitVec.ofNat 32 (2 ^ 31 + n))
/-- R356. -/
def execBatonWait (f : BatonF) (s : State) : Out := .next (s.batonWait f)

/-- R354, R357: a core gives a slot back. -/
def Walk.give (w : Walk) (core k : Nat) : Walk :=
  let w := { w with given := w.given.put (w.giveKey core k) (w.given.get 0 (w.giveKey core k) + 1) }
  if w.storer then { w with batons := w.batons.set k .engine, arrivals := w.arrivals ++ [k] }
  else match w.batons.getD k .done with
    | .full pend =>
      let pend := pend - 2 ^ core
      { w with batons := w.batons.set k (if pend == 0 then .engine else .full pend) }.settle
    | .engine => w
    | .compute => w
    | .done => w

/-- R357, R359. -/
def State.batonGive (s : State) (f : BatonF) : State :=
  let h := s.spec f.h 0
  let k := (s.spec f.k 0).toNat
  let core := coreOf s.unit
  match s.walkOf h with
  | none => s.ends .done
  | some w =>
    if s.outsideSet w then s.batonbad 1
    else if w.record.n ≤ k then s.batonbad 3
    else if !w.holds core k then s.batonbad 2
    else match s.release 2 with
      | (s, false) => s.stallFor 4 (.released (s.wider 2))
      | (s, true) => ((s.updWalk w.id fun w => w.give core k).freeWalk w.id).ends .done
/-- R357. -/
def execBatonGive (f : BatonF) (s : State) : Out := .next (s.batonGive f)

/-- R358. -/
def execBatonStat (f : BatonF) (s : State) : Out :=
  .next (s.scalarLater f.sd (match s.walkOf (s.spec f.h 0) with
    | none => 0
    | some w =>
      let st := match w.st with
        | .active => 1
        | .ended => 2
        | .stopped => 3
      BitVec.ofNat 32 (st * 2 ^ 30 + w.moved)))

end Sys2Proof.Machine
end

