-- ==== Sys2Proof/Machine/Nakan.lean ====
section
/-! DEFINITION. Nakan ports: NSEND, NMCAST, the tiles they send and the tiles that arrive (R361 to
R371). A tile goes out and comes in whole, in one step. -/

namespace Sys2Proof.Machine

/-! ## Issue (R363, R364) -/

/-- R364. -/
def State.nsbad (s : State) (code : Word) : State := s.trap 0x74 code

/-- R362: the port that reaches a peer of a session. -/
def Session.portOf (x : Session) (id : Nat) : Option Nat :=
  if x.hasPeers && id != x.ownId then x.peers.find id else none

/-- R364: the TCODE of the first bad id of a list. -/
def peerBad (x : Session) : List Nat → List Nat → Option Word
  | _, [] => none
  | seen, id :: rest =>
    if seen.contains id then some (BitVec.ofNat 32 (id % 1024 + 2 ^ 16))
    else if 1024 ≤ id || (x.portOf id).isNone then some (BitVec.ofNat 32 (id % 1024))
    else peerBad x (id :: seen) rest

/-- R364: dA's region lies where a source may. -/
def sendSourceOk (u : Nat) (a : Region) : Bool :=
  spansHome u a.allData && (match homeOf u a.base with
    | some h => h ≤ 8 || h == 17 || h == 20
    | none => false)

/-- R364: the TCODE of NSBAD for the two descriptors. -/
def sendShape (u : Nat) (d a : Region) : Option Word :=
  if d.ty != a.ty || d.rows != a.rows || d.cols != a.cols || !sameTile d a || d.trailer == 0 || a.trailer == 0
  then some 1
  else if !sendSourceOk u a || 4 * 2 ^ 52 ≤ d.base then some 2
  else none

/-- R364: the peers of a part, one for each port in use. -/
def partsOf (x : Session) (req : Nat) (ids : List Nat) : List SendPart :=
  ((ids.filterMap x.portOf).eraseDups).map fun port =>
    { req, port, peers := ids.filter fun id => x.portOf id == some port }

/-- R364: a port of a request holds 64 requests. -/
def State.portFull (s : State) (x : Session) (ids : List Nat) : Option Nat :=
  (ids.filterMap x.portOf).find? fun port => 64 ≤ (s.parts.filter (·.port == port)).length

/-- R363, R364: the request is entered, and split into its parts. -/
def State.sendTo (s : State) (dd : BitVec 512) (d a : Region) (ev : BitVec 1) (ids : List Nat) : State :=
  let x := s.sessions.get {} s.launch.session
  match peerBad x [] ids with
  | some c => s.trap 0x73 c
  | none =>
    match s.portFull x ids with
    | some port => s.stallFor 4 (.engine (20 + port) s.cluster)
    | none =>
      match s.releaseAtIssue with
      | (s, false) => s
      | (s, true) =>
        let id := s.nextUid
        let s := s.enterEng 3 4 (ev == 1) (.send dd d a ids.length)
        { s with parts := s.parts ++ partsOf x id ids }.ends .done

/-- R363, R364. -/
def State.nsend (s : State) (f : NSendF) : State :=
  match s.descsBad { optTrailer := true } [f.dD, f.dA] with
  | some c => s.descbad c
  | none =>
    let dd := s.rdD f.dD.toNat
    let d := regionOf dd 0
    let a := regionOf (s.rdD f.dA.toNat) 0
    match sendShape s.unit d a with
    | some c => s.nsbad c
    | none => s.sendTo dd d a f.ev [(s.spec f.peer 0).toNat]
/-- R363. -/
def execNsend (f : NSendF) (s : State) : Out := .next (s.nsend f)

/-- R363, R364: NMCAST; its list is read once the context's stores to it are applied. -/
def State.nmcast (s : State) (f : NMcastF) : State :=
  match s.descsBad { optTrailer := true } [f.dD, f.dA] with
  | some c => s.descbad c
  | none =>
    let dd := s.rdD f.dD.toNat
    let d := regionOf dd 0
    let a := regionOf (s.rdD f.dA.toNat) 0
    let n := (s.spec f.count 0).toNat
    let at' := (s.rdA f.al.toNat).toNat
    let home := homeOf s.unit at'
    match sendShape s.unit d a with
    | some c => s.nsbad c
    | none =>
      if at' % 2 != 0 || !oneHome s.unit at' (max 1 (2 * n)) || (home != some 16 && home != some 17) then s.nsbad 3
      else if n == 0 || 64 < n then s.nsbad 4
      else match s.operandsReady [(at', 2 * n)] with
        | (s, false) => s
        | (s, true) =>
          let bs := s.engineBytes (s.partyOf s.cur) at' (2 * n)
          s.sendTo dd d a f.ev ((List.range n).map fun i => leNat ((bs.drop (2 * i)).take 2))
/-- R363. -/
def execNmcast (f : NMcastF) (s : State) : Out := .next (s.nmcast f)

/-! ## Sending (R365, R367, R368) -/

/-- R310, R369: a request stops: nothing more of it is sent. -/
def State.dropSend (s : State) (id : Nat) : State :=
  { s with parts := s.parts.filter (·.req != id), sent := s.sent.filter (·.req != id) }

/-- R310: an engine fault of a send. -/
def State.failSend (s : State) (r : EngReq) (cause : Nat) (code : Word) (addr : Nat) : State :=
  (s.engFault r cause code addr).dropSend r.id

/-- R367: the node under which a tile of dA is still to be evaluated. -/
def State.sendNode (s : State) (p : Party) (a : Region) (x y : Nat) : Option Node :=
  match (sectorsOf (a.tileSpans x y)).find? fun sec =>
      paged p.unit (sec * 128) && (s.tagNo p.session sec).tag.unready
        && (s.tagNo p.session sec).launch == p.launch with
  | none => none
  | some sec => s.nodeOf (s.tagNo p.session sec).node

/-- R365: a tile as it goes out: packed rows, trailer, scales. -/
def packTile (port ownId session : Nat) (secure : Bool) (dd : BitVec 512) (p q : Nat) (t : RawTile)
    (trailer : List Byte) : TilePacket :=
  let row (ws : List Word) : List Byte := packRow t.ty (List.replicate (packedSize t.ty t.n) 0) 0 ws
  { port, peer := BitVec.ofNat 10 ownId, session, secure, desc := dd, p, q, data := t.rows.flatMap row
    trailer, scales := t.scales.flatMap fun r => r.map (BitVec.ofNat 8) }

/-- R365: sends a tile to a peer. -/
def State.sendOut (s : State) (r : EngReq) (dd : BitVec 512) (port peer tile gc : Nat) (t : RawTile)
    (trailer : List Byte) : State :=
  let p := s.partyReq r
  let own := (s.sessions.get {} p.session).ownId
  let pkt := packTile port own p.session p.secure dd (tile / gc) (tile % gc) t trailer
  { s with signals := s.signals ++ [.tile peer pkt] }

/-- R365: the first attempt of a part's next tile, as read. -/
def State.sendNext (s : State) (r : EngReq) (x : SendPart) (dd : BitVec 512) (a : Region) : State :=
  let p := s.partyReq r
  let (tp, tq) := (x.pos / a.gc, x.pos % a.gc)
  let mine (y : SendPart) : Bool := y.req == x.req && y.port == x.port
  let node := match x.node with
    | some n => some n
    | none => s.sendNode p a tp tq
  let s := { s with parts := modifyFirst mine (fun y => { y with node }) s.parts }
  match s.engineTry p {} r.demander (a.tileSpans tp tq) with
  | (s, .wait) => s
  | (s, .fault c code addr) => s.failSend r c code addr
  | (s, .ready) =>
    let rd : Nat → Nat → List Byte := fun b n => s.engineBytes p b n
    let t := a.readTile rd tp tq
    let trailer := rd (a.trailerAt tp tq) a.trailerSize
    let s := x.peers.foldl (fun s peer =>
      let s := s.sendOut r dd x.port peer x.pos a.gc t trailer
      let one : SentTile := { req := x.req, port := x.port, peer, tile := x.pos, attempt := 1, sent := s.mtc.toNat,
                               node, addend := x.addend }
      { s with sent := s.sent ++ [one] }) s
    let last := x.pos + 1 == a.gr * a.gc
    { s with parts := if last then s.parts.filter fun y => !mine y
                      else modifyFirst mine (fun y => { y with pos := x.pos + 1, node := none, addend := [] }) s.parts }

/-- Every byte from `a` on, `n` of them, lies in one of some ranges; a range is left behind at its end. -/
def coveredBy (ws : List (Nat × Nat)) : Nat → Nat → Nat → Bool
  | _, _, 0 => true
  | 0, _, _ => false
  | k + 1, a, n =>
    match ws.find? fun (w, m) => w ≤ a && a < w + m with
    | none => false
    | some (w, m) => coveredBy ws k (w + m) (n - (w + m - a))

/-- Bytes as they are after some writes. -/
def written (rd : Nat → Nat → List Byte) (ws : List (Nat × List Byte)) (a n : Nat) : List Byte :=
  ws.foldl (fun bs (w, new) =>
    if w + new.length ≤ a || a + n ≤ w then bs
    else bs.zipIdx.map fun (b, i) => if w ≤ a + i then new.getD (a + i - w) b else b) (rd a n)

/-- What a further attempt comes to. -/
inductive Again where
  | tile (s : State) (t : RawTile) (sums : Sums)
  | bad (s : State) (code : Word)
  | wait (s : State)
  | stop (s : State)

/-- R284, R368: computes a tile again from a kept record, its guarded sources and the addend that was kept. -/
def State.sendEvaluate (s : State) (r : EngReq) (n : Node) (addend : SMap (List (List Word))) (t : Nat) : Again :=
  let p := s.partyNode n
  match s.engineTry p {} r.demander (n.inputSpans t) with
  | (s, .wait) => .wait s
  | (s, .fault c code a) => .stop (s.failSend r c code a)
  | (s, .ready) =>
    let rd : Nat → Nat → List Byte := fun a k => s.engineBytes p a k
    let ins := n.inputs t
    match verifyAll rd (ins.map Prod.fst), verifyAll rd (ins.filterMap Prod.snd) with
    | .error c, _ => .bad s c
    | .ok _, .error c => .bad s c
    | .ok as, .ok bs =>
      let cb := if n.d.ty == 5 then codebookOf (rd n.d.codebook 32) else []
      let old : Option RawTile := if n.op == .tmac then
        some { ty := n.d.ty, m := n.d.tr, n := n.d.tc, rows := addend.get [] t } else none
      let reads := (ins.map Prod.fst ++ ins.filterMap Prod.snd).flatMap fun x => x.1.fixes rd x.2.1 x.2.2
      let go (core : Option Nat) : Again :=
        match evalTile n core.isSome cb old as bs with
        | .fail f =>
          .bad (match core with
            | none => s
            | some c => s.updArr (unitNo n.cluster c) fun a =>
                ((a.applyRetired.countVerdict []).countVerdict []).countVerdict []) f.code
        | .tile u sums fixed =>
          let s := (s.traceReq r reads).traceFixes r.key r.slot r.addr 0 true fixed
          match core with
          | none => .tile s u sums
          | some c => .tile (s.updArr (unitNo n.cluster c) fun a => a.applyRetired.countVerdict fixed) u sums
      if n.op == .tmul || n.op == .tmac then
        match s.spotFor n 0 with
        | .alu => go none
        | .array c => go (some c)
        | .waits _ => .wait s
      else go none

/-- R368: reads and verifies a tile of dA at the sender, over the bytes `ws` that a re-evaluation gave. -/
def State.sendRead (s : State) (r : EngReq) (a : Region) (tile : Nat) (ws : List (Nat × List Byte)) : Again :=
  let (tp, tq) := (tile / a.gc, tile % a.gc)
  let p := s.partyReq r
  let given := ws.map fun w => (w.1, w.2.length)
  let rest := (a.tileSpans tp tq).filter fun (b, n) => !coveredBy given given.length b n
  match s.engineTry p {} r.demander (rest ++ a.codeSpans) with
  | (s, .wait) => .wait s
  | (s, .fault c code addr) => .stop (s.failSend r c code addr)
  | (s, .ready) =>
    let rd := written (fun b n => s.engineBytes p b n) ws
    match a.verified rd tp tq with
    | none => .bad s (uncCode a rd tp tq)
    | some (t, sums) => .tile (s.traceReq r (a.fixes rd tp tq)) t sums

/-- R368: evaluates the tiles of a kept node that a tile of dA takes bytes from, and reads it over their
results. -/
def State.sendOver (s : State) (r : EngReq) (x : SentTile) (a : Region) (n : Node) :
    List Nat → List (Nat × List Byte) → Again
  | [], ws => s.sendRead r a x.tile ws
  | t :: ts, ws =>
    match s.sendEvaluate r n x.addend t with
    | .tile s u sums =>
      let (p, q) := n.coord t
      let rd : Nat → Nat → List Byte := fun b k => s.engineBytes (s.partyNode n) b k
      State.sendOver s r x a n ts (ws ++ n.d.tileWrites rd p q u sums)
    | o => o

/-- R368: a further attempt of a tile. -/
def State.sendAgain (s : State) (r : EngReq) (x : SentTile) (a : Region) : Again :=
  match x.node with
  | none => s.sendRead r a x.tile []
  | some n =>
    let mine := a.tileSpans (x.tile / a.gc) (x.tile % a.gc)
    s.sendOver r x a n ((List.range n.tiles.length).filter fun t =>
      (n.tile t).unforced && anyMeet (n.tileSpans t) mine) []

/-- Changes the i-th tile that is out. -/
def State.updSent (s : State) (i : Nat) (f : SentTile → SentTile) : State := { s with sent := modifyNth f s.sent i }

/-- R368, R369: one resend; the third failure stops the request with CHKUNC. -/
def State.resend (s : State) (r : EngReq) (i : Nat) (x : SentTile) (dd : BitVec 512) (a : Region) : State :=
  let n := x.attempt + 1
  match s.sendAgain r x a with
  | .wait s => s
  | .stop s => s
  | .bad s c =>
    if n == 3 then s.failSend r 0x41 (c &&& 0xFFFFFFF8) 0 else s.updSent i fun y => { y with attempt := n }
  | .tile s t sums =>
    let s := s.sendOut r dd x.port x.peer x.tile a.gc t (trailerBytes a.ty a.tr a.tc sums)
    s.updSent i fun y => { y with attempt := n, sent := s.mtc.toNat, resend := false }

/-- The request that a part or a tile belongs to. -/
def State.engBy (s : State) (id : Nat) : Option EngReq := s.engs.find? (·.id == id)

/-- R361: a port has failed: every request routed through it fails. -/
def State.portDown (s : State) (port : Nat) : State :=
  let ids := ((s.parts.filter (·.port == port)).map SendPart.req ++ (s.sent.filter (·.port == port)).map SentTile.req).eraseDups
  (ids.filterMap s.engBy).foldl (fun s r => s.failSend r 0x76 1 0) s

/-- R361, R364, R365, R368: a port sends: a tile to be sent again first, else the next of the part at
the head of its queue. -/
def State.portSend (s : State) (port : Nat) : State :=
  let again := indexOfFirst (fun (x : SentTile) => x.port == port && x.resend) s.sent
  let part := s.parts.find? (·.port == port)
  let id := match again, part with
    | some i, _ => (s.sent[i]?).map SentTile.req
    | none, some x => some x.req
    | none, none => none
  if s.portFailed.getLsbD port then s.portDown port
  else match id.bind s.engBy with
  | none => s
  | some r =>
    if s.deferredReq r then (s.stopEng r).dropSend r.id
    else match r.work with
      | .send dd _ a _ =>
        match again.bind fun i => (s.sent[i]?).map fun x => (i, x) with
        | some (i, x) => s.resend r i x dd a
        | none =>
          match part with
          | none => s
          | some x => if s.cycle < r.ready then s else s.sendNext r x dd a
      | _ => s
/-- R365. -/
def execNakanSendTile (port : Nat) (s : State) : Out := .next (s.portSend port)

/-! ## Answers (R366, R369, R370) -/

/-- R361: a flit of the port has passed. -/
def State.flitPassed (s : State) (port : Nat) : State := { s with portFlits := s.portFlits.del port }

/-- R370: a request with nothing left to send and no answer outstanding is done. -/
def State.sendSettle (s : State) (id : Nat) : State :=
  if s.parts.any (·.req == id) || s.sent.any (·.req == id) then s
  else s.updEng id fun r => { r with finished := true }

/-- R370: a peer acknowledges the i-th tile that is out. -/
def State.sendAck (s : State) (i : Nat) (x : SentTile) : State :=
  if x.resend then s else ({ s with sent := s.sent.eraseIdx i }.flitPassed x.port).sendSettle x.req

/-- R369: the first NAK of a request queues LINKCHK. -/
def State.linkCheck (s : State) (r : EngReq) (x : SentTile) (a : Region) : State :=
  if r.pos != 0 then s
  else
    let first := ((a.dataSpans (x.tile / a.gc) (x.tile % a.gc)).headD (0, 0)).1
    (s.updEng r.id fun r => { r with pos := 1 }).queueFault r.key
      { cause := 0x71, tcode := BitVec.ofNat 32 (x.peer % 1024 + 2 ^ 10 + x.tile % 2 ^ 16 * 2 ^ 16), addr := ad first }

/-- R369: the counts of failing rows and columns that the receiver found are open (log entry 2). -/
def State.nakCounts (s : State) : Word × State :=
  let (r, s) := s.freeByte
  let (c, s) := s.freeByte
  (chkuncCode 0 r.toNat c.toNat, s)

/-- R368, R369: a NAK. -/
def State.nak (s : State) (i : Nat) (x : SentTile) (r : EngReq) (a : Region) : State :=
  let s := (s.linkCheck r x a).flitPassed x.port
  if x.attempt < 3 then s.updSent i fun y => { y with resend := true }
  else
    let (c, s) := s.nakCounts
    s.failSend r 0x41 c 0

/-- R366, R368, R369: a NAK (refusal 0) of the i-th tile that is out, or a refusal with its reason. -/
def State.sendNak (s : State) (i : Nat) (refusal : BitVec 3) (x : SentTile) : State :=
    match s.engBy x.req with
    | none => s
    | some r =>
      match r.work with
      | .send _ _ a _ =>
        if x.resend then s
        else if refusal == 0 then s.nak i x r a
        else ((s.flitPassed x.port).failSend r 0x75 (BitVec.ofNat 32 (refusal.toNat + x.peer % 1024 * 2 ^ 16)) 0)
      | _ => s

/-- R366: a tile that nothing answered within 2^20 MTC ticks. -/
def execNakanNoAnswer (i : Nat) (s : State) : Out :=
  match s.sent[i]? with
  | none => .next s
  | some x =>
    match s.engBy x.req with
    | none => .next s
    | some r =>
      .next (if x.resend || s.mtc.toNat < x.sent + 2 ^ 20 then s else s.failSend r 0x76 2 0)

/-- R361: a copy of a flit fails; the ninth marks the port failed, and its requests fail. -/
def execNakanFlitCrcFail (port : Nat) (s : State) : Out :=
  let n := s.portFlits.get 0 port + 1
  .next (if n < 9 then { s with portFlits := s.portFlits.put port n }
    else { s with portFlits := s.portFlits.del port, portFailed := setBit s.portFailed port true }.portDown port)

/-! ## Receiving (R366) -/

/-- R366: the tile's answer goes back. -/
def State.answer (s : State) (p : TilePacket) (code : Nat) : State :=
  { s with signals := s.signals ++ [.answer p.port p.peer.toNat p.p p.q code] }

/-- A list cut into parts of `n`. -/
def chunksOf {α : Type} (n : Nat) : Nat → List α → List (List α)
  | 0, _ => []
  | k + 1, xs => xs.take n :: chunksOf n k (xs.drop n)

/-- A tile from its packet. -/
def packetTile (p : TilePacket) (d : Region) (cb : List Word) : RawTile :=
  { ty := d.ty, m := d.tr, n := d.tc, cb
    rows := (chunksOf (packedSize d.ty d.tc) d.tr p.data).map fun bs => unpackRow d.ty bs 0 d.tc
    scales := if tyIsMx d.ty then (chunksOf (d.tc / 32) d.tr p.scales).map (·.map BitVec.toNat) else [] }

/-- R362, R366: every byte lies in a receive window (DEDUCED, notes/assumptions/61.md). -/
def insideWindows (ws : List (Nat × Nat)) (spans : List (Nat × Nat)) : Bool :=
  spans.all fun (a, n) => coveredBy ws ws.length a n

/-- R366: the reason of a refusal, in the order that R366 gives; pages are present. -/
def State.refusal (s : State) (x : Session) (p : Party) (d : Region) (spans : List (Nat × Nat)) (secure : Bool) :
    Option Nat :=
  let ps := piecesOfSpans spans
  let code := piecesOfSpans d.codeSpans
  if secure != x.secure || (ps ++ code).any (fun y => s.worldBad p y.1) then some 5
  else if !insideWindows x.windows spans then some 2
  else if (badAddr p.unit (ps ++ code)).isSome || ps.any (fun y => s.readOnlyAt p y.1)
      || ps.any (fun y => s.hostRefused p y.1 y.2 true) then some 3
  else if ps.any (fun y => (s.tagAt p y.1).tag.unready) then some 4
  else none

/-- R366: takes a tile: refuses it, lets it wait for a page or a guard, or verifies and writes it. -/
def State.takeTile (s : State) (pk : TilePacket) : State :=
  let s := ({ s with inbox := s.inbox.erase pk }).flitPassed pk.port
  let x := s.sessions.get {} pk.session
  let d := regionOf pk.desc 0
  let p : Party := { unit := 0, session := pk.session, launch := 0, secure := x.secure }
  let spans := d.tileSpans pk.p pk.q
  let ps := piecesOfSpans (spans ++ d.codeSpans)
  let wait (s : State) : State := { s with inbox := s.inbox ++ [pk] }
  if !x.opened then s.answer pk 1
  else match s.tlbMiss p ps with
  | some (die, e) => wait (s.walkPage die e)
  | none => match s.refusal x p d spans pk.secure with
  | some c => s.answer pk c
  | none =>
    match firstAt ps (s.pageMissing p) with
    | some a => wait (s.reportPage p.session a 0)
    | none =>
      match s.guardOf (s.flatSpans p.unit p.session (piecesOfSpans spans)) none with
      | some n => wait (s.protectiveForce n.handle)
      | none =>
        let rd : Nat → Nat → List Byte := fun a n => s.engineBytes p a n
        let cb := if d.ty == 5 then codebookOf (rd d.codebook 32) else []
        match verifyRaw (packetTile pk d cb) pk.trailer with
        | none => s.answer pk 7
        | some (t, sums) => (s.engineWrite p (d.tileWrites rd pk.p pk.q t sums)).answer pk 0
/-- R366. -/
def execNakanTileReceive (p : TilePacket) (s : State) : Out := .next (s.takeTile p)

/-- R238, R366: the tiles that wait for a page that turns out not to be mapped are refused. -/
def State.inboxNomap (s : State) (session base size : Nat) : State :=
  let hit (pk : TilePacket) : Bool :=
    let d := regionOf pk.desc 0
    pk.session == session && (d.tileSpans pk.p pk.q ++ d.codeSpans).any fun y =>
      spansMeet y (base, max size 1)
  (s.inbox.filter hit).foldl (fun s pk => ({ s with inbox := s.inbox.erase pk }).answer pk 3) s

end Sys2Proof.Machine
end

