-- ==== Sys2Proof/Machine/Relay.lean ====
section
/-! DEFINITION. Stack reduce units: RELAY, RLSTAT, relay steps, packets and stops (R372 to R399). A
relay whose launch does not run is held: it starts no step (R398). -/

namespace Sys2Proof.Machine

/-! ## Records (R373 to R375) -/

/-- A two's complement number of `n` bits. -/
def signedOf (n x : Nat) : Int := if x < 2 ^ (n - 1) then x else (x : Int) - (2 ^ n : Nat)

/-- A field of a relay record: byte offset, first bit, bits. -/
def relayField (x off lo n : Nat) : Nat := x / 2 ^ (8 * off + lo) % 2 ^ n

/-- R374: level `l` of a record. -/
def relayLevel (x l : Nat) : RelayLevel :=
  let f (off lo n : Nat) : Nat := relayField x (128 + 16 * l + off) lo n
  { n := f 0 0 16, c := signedOf 8 (f 0 16 8), k := signedOf 8 (f 0 24 8), o := f 4 0 16, m := f 4 16 16
    ss := signedOf 32 (f 8 0 32), ds := signedOf 32 (f 12 0 32) }

/-- R374: entry `e` of a record. -/
def relayEntry (x e : Nat) : RelayEntry :=
  let f (lo n : Nat) : Nat := relayField x (24 + 4 * e) lo n
  { kind := f 0 2, p0 := f 16 10, xoff := signedOf 8 (f 8 8) }

/-- R373: LEVELS and KP. -/
def relayLevels (x : Nat) : Nat := relayField x 0 12 2 + 1
/-- R373. -/
def relayKp (x : Nat) : Nat := relayField x 0 14 2 + 1

/-- R373: a record from its 192 bytes. -/
def relayRecOf (x : Nat) : RelayRec :=
  let g := relayField x 4 16 11
  let final := relayField x 8 0 16
  { op := relayField x 0 0 4, e2 := relayField x 0 4 1 == 1, ty := BitVec.ofNat 4 (relayField x 0 8 4)
    chan := BitVec.ofNat 16 (relayField x 0 16 16), epoch := BitVec.ofNat 16 (relayField x 4 0 16), g
    final := if final = 0 then g else final, nt := relayField x 8 16 16, tr := relayField x 12 0 7 + 1
    tc := relayField x 12 7 7 + 1, toff := relayField x 16 0 32, tstr := relayField x 20 0 32
    entries := (List.range (relayKp x)).map (relayEntry x)
    levels := (List.range (relayLevels x)).map (relayLevel x), sbase := relayField x 40 0 64
    dbase := relayField x 48 0 64, gtab := relayField x 56 0 64, cwbase := relayField x 64 0 64 }

/-- R373, R374, R378: a reserved field is not zero, or a reserved value stands in OP or KIND. -/
def relayReserved (x : Nat) : Bool :=
  relayField x 0 5 3 != 0 || relayField x 4 27 5 != 0 || relayField x 12 14 18 != 0
    || relayField x 40 56 8 != 0 || relayField x 48 56 8 != 0 || relayField x 56 56 8 != 0
    || relayField x 72 0 448 != 0 || 3 < relayField x 0 0 4
    || (List.range 4).any (fun e =>
      if e < relayKp x then
        relayField x (24 + 4 * e) 26 6 != 0 || relayField x (24 + 4 * e) 2 6 != 0 || relayField x (24 + 4 * e) 0 2 == 3
      else relayField x (24 + 4 * e) 0 32 != 0)
    || (List.range 4).any fun l => relayLevels x ≤ l && relayField x (128 + 16 * l) 0 128 != 0

/-- R386: TYPE is allowed for OP, and E2 stands with the triple only. -/
def relayTypeOk (r : RelayRec) : Bool :=
  (if r.op == 3 then r.ty == 0 && 3 ≤ r.tc else r.ty == 0 || r.ty == 1 || r.ty == 6) && (r.op == 3 || !r.e2)

/-- R375: bytes from one row of a tile to the next. -/
def RelayRec.rowPitch (r : RelayRec) : Nat := (packedSize r.ty r.tc + 3) / 4 * 4
/-- R375: the tile at an address, as a region of one tile. -/
def RelayRec.tileAt (r : RelayRec) (a : Nat) : Region :=
  { base := a, ty := r.ty, rows := r.tr, cols := r.tc, pitch := r.rowPitch, trailer := r.toff, tr := r.tr, tc := r.tc }

/-- R378: the condition of RLBAD 2 to 6 that holds first. -/
def relayBad (x : Nat) : Option Nat :=
  let r := relayRecOf x
  if relayReserved x then some 2
  else if !relayTypeOk r then some 3
  else if r.g == 0 || 1024 < r.g || r.nt == 0 || r.g < relayField x 8 0 16 || r.toff == 0 || r.toff % 256 != 0
      || r.toff < r.tr * r.rowPitch || r.tstr % 256 != 0 || r.tstr < r.toff + trailerSpace r.tr r.tc
      || r.levels.any (·.n == 0) then some 4
  else if r.entries.any fun e => r.g ≤ e.p0 then some 5
  else if r.cwbase != 0 && (r.cwbase % 8 != 0 || r.sbase != r.dbase || r.levels.any fun l => l.ss != l.ds) then some 6
  else none

/-- R375: how many steps a relay has. -/
def RelayRec.steps (r : RelayRec) : Nat := r.entries.length * r.levels.foldl (fun n l => n * l.n) 1

/-- R375: the indexes of the levels, innermost first, from a mixed-radix number. -/
def levelIndexes : List RelayLevel → Nat → List (RelayLevel × Nat)
  | [], _ => []
  | l :: ls, i => (l, i % max l.n 1) :: levelIndexes ls (i / max l.n 1)

/-- R375: the address index of a level; `xoff` counts for level 0 only. -/
def levelX (l : RelayLevel) (i : Nat) (xoff : Int) : Int :=
  let x := (l.o : Int) + l.k * i + xoff
  if l.m = 0 then x else x % (l.m : Int)

/-- R375: step `n`: its entry's KIND, src, dst and index in the group table. -/
def RelayRec.step (r : RelayRec) (n : Nat) : Nat × Nat × Nat × Nat :=
  let kp := max r.entries.length 1
  let e := r.entries.getD (n % kp) { kind := 0, p0 := 0, xoff := 0 }
  let xs := (levelIndexes r.levels (n / kp)).zipIdx
  let sum (f : RelayLevel → Int) : Int :=
    (xs.map fun ((l, i), k) => f l * levelX l i (if k = 0 then e.xoff else 0)).foldl (· + ·) 0
  let wrap (base : Nat) (d : Int) : Nat := (((base : Int) + d) % (2 ^ 64 : Nat)).toNat
  let peer := (((e.p0 : Int) + (xs.map fun ((l, i), _) => l.c * (i : Int)).foldl (· + ·) 0) % (max r.g 1 : Nat)).toNat
  (e.kind, wrap r.sbase (sum (·.ss)), wrap r.dbase (sum (·.ds)), peer)

/-! ## RELAY and RLSTAT (R377 to R380) -/

/-- R399. -/
def State.rlbad (s : State) (code : Nat) : State := s.trap 0x77 (BitVec.ofNat 32 code)

/-- R379: the handle. -/
def Relay.handle (x : Relay) : Word := BitVec.ofNat 32 (x.stack * 2 ^ 24 + x.slot * 2 ^ 20 + x.gen * 2 ^ 12)

/-- R373, R378: an address range of the record or the group table lies where it may. -/
def relayHome (u a n : Nat) : Bool :=
  oneHome u a n && (match homeOf u a with
    | some h => h ≤ 3 || h == 16 || h == 17
    | none => false)

/-- R398: an active relay whose launch is not pre-empted keeps its slot. -/
def State.relayBusy (s : State) (x : Relay) : Bool :=
  x.st == .active && !(s.launchBy x.launch).any (·.st == .preempted)

/-- R379: the lowest-numbered free slot of a unit. -/
def State.relaySlot (s : State) (stack : Nat) : Option Nat :=
  let held := (s.relays.filter fun x => x.stack == stack && s.relayBusy x).map (·.slot)
  (List.range 16).find? fun k => !held.contains k

/-- R381: the active or held relay of a unit on a channel and epoch. -/
def State.relayOn (s : State) (stack : Nat) (chan epoch : BitVec 16) : Option Relay :=
  s.relays.find? fun x => x.stack == stack && x.st == .active && x.r.chan == chan && x.r.epoch == epoch

/-- R378: the TCODE of PEERBAD. -/
def groupBad (x : Session) (ids : List Nat) : Option Word :=
  (ids.find? fun id => 1024 ≤ id || (id != x.ownId && (x.portOf id).isNone)).map fun id =>
    BitVec.ofNat 32 (id % 1024)

/-- R372: a unit's command queue. -/
def State.relayCmds (s : State) (stack : Nat) : List RelayCmd := s.relayQ.get [] stack
/-- R372: a command enters the queue of a unit; while its 64 entries are taken it waits behind them, at the port
where it has arrived (DESIGN CHOICE, notes/assumptions/62.md). -/
def State.relayPut (s : State) (stack : Nat) (c : RelayCmd) : State :=
  { s with relayQ := s.relayQ.put stack (s.relayCmds stack ++ [c]) }
/-- R372, R378: a unit takes a RELAY: it has a free slot and room in its queue. -/
def State.relayRoom (s : State) (stack : Nat) : Option Nat :=
  if 64 ≤ (s.relayCmds stack).length then none else s.relaySlot stack

/-- R372, R379: the relay takes its slot and enters the queue of its unit, and the request is entered. -/
def State.startRelay (s : State) (f : RelayF) (stack slot : Nat) (r : RelayRec) (ids : List Nat) : State :=
  let g := s.relayGens.get 0 (16 * stack + slot)
  let gen := if g == 255 then 1 else g + 1
  let x : Relay := { id := s.nextUid, stack, slot, gen, launch := s.launch.uid, r, ids }
  let keep (y : Relay) : Bool := y.stack != stack || y.slot != slot || y.st == .active
  let s := { s with relays := s.relays.filter keep ++ [x], relayGens := s.relayGens.put (16 * stack + slot) gen }
  let s := s.relayPut stack (.start x.id)
  ((s.enterEng 4 5 (f.ev == 1) .relay none (some x.handle)).dropAcc).scalarLater f.hd x.handle

/-- R378: the group table of a record, read as the second record; a group of none takes no read. -/
def State.readGroup (s : State) (r : RelayRec) : State × Option (List Nat) :=
  if r.g == 0 then (s, some [])
  else match s.readSecond r.gtab (2 * r.g) 2 with
    | (s, none) => (s, none)
    | (s, some gs) => (s, some ((List.range r.g).map fun i => leNat ((gs.drop (2 * i)).take 2)))

/-- R378: the record and the group table are read, and then checked. -/
def State.relay (s : State) (f : RelayF) : State :=
  let va := (s.rdA f.ar.toNat).toNat
  let stack := 4 * dieOf s.cluster + f.u.toNat
  if va % 64 != 0 || !relayHome s.unit va 192 then s.rlbad 1
  else match s.readFirst va 192 64 with
  | (s, none) => s
  | (s, some bs) =>
    let x := leNat bs
    let r := relayRecOf x
    if r.gtab % 2 != 0 || !relayHome s.unit r.gtab (max 1 (2 * r.g)) then s.rlbad 1
    else match s.readGroup r with
    | (s, none) => s
    | (s, some ids) => match relayBad x with
      | some c => s.rlbad c
      | none =>
        if (s.relayOn stack r.chan r.epoch).isSome then s.rlbad 7
        else match groupBad (s.sessions.get {} s.launch.session) ids with
        | some c => s.trap 0x73 c
        | none =>
          match s.relayRoom stack with
          | none => s.stallFor 4 (.engine (40 + stack) s.cluster)
          | some slot =>
            match s.releaseAtIssue with
            | (s, false) => s
            | (s, true) => s.startRelay f stack slot r ids
/-- R377. -/
def execRelay (f : RelayF) (s : State) : Out := .next (s.relay f)

/-- R380: the relay of the acting context's launch that a handle names. -/
def State.relayNamed (s : State) (h : Word) : Option Relay :=
  s.relays.find? fun x => x.handle == h && x.launch == s.launch.uid

/-- R380: form 0. -/
def execRlstat (f : DstSpec) (s : State) : Out :=
  .next (s.scalarLater f.sd (match s.relayNamed (s.spec f.h 0) with
    | none => 0
    | some x =>
      let st := match x.st with
        | .active => 1
        | .ended => 2
        | .stopped => 3
      BitVec.ofNat 32 (st * 2 ^ 30 + min x.doneSteps (2 ^ 24 - 1))))
/-- R380: form 1. -/
def execRlstatWhy (f : DstSpec) (s : State) : Out :=
  .next (s.scalarLater f.sd (match s.relayNamed (s.spec f.h 0) with
    | none => 0
    | some x => BitVec.ofNat 32 (x.why % 256 + x.whyStep % 2 ^ 24 * 256)))

/-! ## Stops (R396) -/

/-- Changes a relay. -/
def State.updRelay (s : State) (id : Nat) (f : Relay → Relay) : State :=
  { s with relays := modifyFirst (·.id == id) f s.relays }
/-- A relay by its request's number. -/
def State.relayBy (s : State) (id : Nat) : Option Relay := s.relays.find? (·.id == id)

/-- R379: the request of a relay that is over and whose tiles are all answered is done. -/
def State.relaySettle (s : State) (id : Nat) : State :=
  if (s.relayBy id).any (·.st == .active) || s.relaySent.any (·.relay == id) then s
  else s.updEng id fun r => { r with finished := true }

/-- The module's own peer id for a relay. -/
def State.ownIdOf (s : State) (x : Relay) : Nat :=
  (s.sessions.get {} ((s.launchBy x.launch).getD Launch.none).session).ownId

/-- R396: a relay stops at a step: no step goes on, and every other module of its group is told. -/
def State.haltRelay (s : State) (x : Relay) (cause n : Nat) : State :=
  let s := s.updRelay x.id fun x => { x with st := .stopped, flights := [], why := cause, whyStep := n }
  let again (y : RelaySent) : Bool := match y.st with
    | .out _ => false
    | .busy _ => true
    | .again => true
  let s := { s with relaySent := s.relaySent.filter fun y => y.relay != x.id || !again y
                    relayBuf := s.relayBuf.filter fun y => !((y.own || y.acked) && y.stack == x.stack && y.pkt.chan == x.r.chan
                      && y.pkt.epoch == x.r.epoch) }
  let own := s.ownIdOf x
  let s := { s with relaySent := s.relaySent.filter fun y => y.relay != x.id || y.peer != own }
  ((x.ids.filter (· != own)).eraseDups.foldl (fun s id =>
    { s with signals := s.signals ++ [.stopNotice id x.stack x.r.chan x.r.epoch cause] }) s).relaySettle x.id

/-- R310, R396: a fault stops a relay, and is queued on its context. -/
def State.failRelay (s : State) (x : Relay) (cause : Nat) (code : Word) (addr n : Nat) : State :=
  match s.engBy x.id with
  | none => s.haltRelay x cause n
  | some r =>
    let s := s.haltRelay x cause n
    if cause == 0x33 || cause == 0x95 then s.fatalAt r.launch r.key r.slot cause r.addr code 0
    else s.faultTo r.launch r.key { cause, tcode := code, addr := ad addr }

/-- R396: a stop notice for a relay. -/
def State.noticeRelay (s : State) (x : Relay) (peer : BitVec 10) (cause : BitVec 8) : State :=
  s.failRelay x 0x78 (BitVec.ofNat 32 (peer.toNat + cause.toNat * 2 ^ 16)) 0
    ((x.flights.head?.map Flight.n).getD x.next)

/-- R398: the launch of a relay runs. -/
def State.relayRuns (s : State) (x : Relay) : Bool :=
  (s.launchBy x.launch).any fun l => l.st == .running || l.st == .retiring

/-- R381, R396: a stop notice stops its relay, active or held, or is kept. -/
def State.takeNotice (s : State) (stack : Nat) (chan epoch : BitVec 16) (peer : BitVec 10) (cause : BitVec 8) : State :=
  match s.relayOn stack chan epoch with
  | some x => s.noticeRelay x peer cause
  | none => { s with relayNotices := s.relayNotices ++ [{ stack, chan, epoch, peer, cause, at' := s.mtc.toNat }] }

/-- R372, R396: a stop notice arrives. -/
def execStopNotice (stack : Nat) (chan epoch : BitVec 16) (peer : BitVec 10) (cause : BitVec 8) (s : State) : Out :=
  .next (s.relayPut stack (.notice chan epoch peer cause))

/-! ## Tiles (R383, R386 to R391) -/

/-- R390: the values of a tile as a unit sums them: an m of -infinity counts as 0. -/
def relayGrid (triple : Bool) (t : RawTile) : Grid :=
  t.grid.map fun row => row.zipIdx.map fun (x, j) => if triple && j == 0 && x == .inf true then .zero else x

/-- R383, R390: verifies a tile. -/
def relayVerify (triple : Bool) (t : RawTile) (bs : List Byte) : Option (RawTile × Sums) :=
  if !headOk t.ty t.m t.n bs then none
  else match testTile (toleranceOf t.ty) t.n (relayGrid triple t) (sumsOf bs t.m t.n) t.place with
    | .bad => none
    | .good _ s located => some (located.foldl (fun t (i, j, x) => t.setRaw i j (t.rawFor i j x)) t, s)

/-- R479: what the read of a tile corrects. -/
def relayFixes (triple : Bool) (t : RawTile) (bs : List Byte) : List Fix :=
  match testTile (toleranceOf t.ty) t.n (relayGrid triple t) (sumsOf bs t.m t.n) t.place with
  | .bad => []
  | .good _ _ located => fixesOf (toleranceOf t.ty) t.n (relayGrid triple t) (sumsOf bs t.m t.n) located

/-- R265, R383, R384: CHKUNC's TCODE. -/
def relayUnc (triple : Bool) (t : RawTile) (bs : List Byte) : Word :=
  let g := relayGrid triple t
  let s := sumsOf bs t.m t.n
  chkuncCode 0 (badRows (toleranceOf t.ty) g s).length (badCols (toleranceOf t.ty) t.n g s).length

/-- R386: sum, max or min of two raw elements. -/
def relayElem (op : Nat) (ty : BitVec 4) (a b : Word) : Word :=
  if op = 0 then
    if ty == 6 then a + b else BitVec.ofNat 32 (roundTo ty 0 false 0 ((valOf ty a).add (valOf ty b)))
  else putElem ty (numPick (op == 1) (valOf ty a) (valOf ty b))

/-- R389: Factor of m1 - m. -/
def relayFactor (e2 : Bool) (mi m : Num) : Num :=
  if mi == .inf true then .zero
  else
    let x := mi.sub m
    if x.eqv .zero then .fin false 1 0
    else fp32 (BitVec.ofNat 32 (funcOf (if e2 then .exp2 else .exp) 0 0 false 0 x))

/-- R389: combines two rows of a triple. -/
def relayTriple (e2 : Bool) (a b : List Word) : List Word :=
  let m1 := fp32 (a.headD 0)
  let m2 := fp32 (b.headD 0)
  let m := numPick true m1 m2
  if m == .inf true then 0xFF800000 :: List.replicate (a.length - 1) 0
  else
    let f1 := relayFactor e2 m1 m
    let f2 := relayFactor e2 m2 m
    round32 m :: List.zipWith (fun x y => round32 (((fp32 x).mul f1).add ((fp32 y).mul f2))) (a.drop 1) (b.drop 1)

/-- R386: a carried check. -/
def carryCheck (ty : BitVec 4) (a b : Word) : Word :=
  if tyIsInt ty then a + b else round32 ((fp32 a).add (fp32 b))

/-- R386, R391: combines a verified local tile with a verified incoming one. -/
def relayCombine (r : RelayRec) (a b : RawTile × Sums) : RawTile × Sums :=
  let row (x y : List Word) : List Word :=
    if r.op == 3 then relayTriple r.e2 x y else List.zipWith (relayElem r.op r.ty) x y
  let t := { a.1 with rows := List.zipWith row a.1.rows b.1.rows }
  if r.op == 0 then
    (t, { rc := List.zipWith (carryCheck r.ty) a.2.rc b.2.rc, cc := List.zipWith (carryCheck r.ty) a.2.cc b.2.cc
          ck := carryCheck r.ty a.2.ck b.2.ck })
  else (t, makeSums (tyIsInt r.ty) r.tc (relayGrid (r.op == 3) t))

/-! ## One tile of a step (R381 to R385, R392 to R394) -/

/-- R385: the spans of a step lie where they may. -/
def relaySpansOk (u : Nat) (spans : List (Nat × Nat)) : Option Nat :=
  ((spans.filter (·.2 != 0)).find? fun (a, n) => [a, a + n - 1].any fun b => match homeOf u b with
    | some h => !(h ≤ 3 || 20 ≤ h)
    | none => true).map Prod.fst

/-- R392: the completion word of the tile at an address. -/
def RelayRec.wordAt (r : RelayRec) (a : Nat) : Option Nat :=
  if a < r.dbase || (a - r.dbase) % max r.tstr 1 != 0 || 2 ^ 24 < (a - r.dbase) / max r.tstr 1 then none
  else some (r.cwbase + 8 * ((a - r.dbase) / max r.tstr 1))

/-- R392: the completion word, as spans: none where no word is kept. -/
def RelayRec.wordSpans (r : RelayRec) (a : Nat) : List (Nat × Nat) :=
  if r.cwbase = 0 then []
  else match r.wordAt a with
    | none => []
    | some w => [(w, 8)]

/-- R393: a local tile's count, from its word. -/
def RelayRec.countOf (r : RelayRec) (w : Nat) : Nat :=
  if w / 2 ^ 16 % 2 ^ 16 == r.epoch.toNat then w % 2 ^ 16 else 1

/-- How one tile of a step goes. -/
inductive RelayWent where
  | on (s : State)
  | wait (s : State)
  | stop (s : State)

/-- R381, R385: reads and writes of a relay, ready or not. -/
def State.relayReady (s : State) (x : Relay) (e : EngReq) (n : Nat) (reads writes : List (Nat × Nat)) : RelayWent :=
  let p := s.partyReq e
  match relaySpansOk p.unit (reads ++ writes) with
  | some a => .stop (s.failRelay x 0x7A 1 a n)
  | none =>
    match s.engineTry p {} e.demander reads with
    | (s, .wait) => .wait s
    | (s, .fault c code a) => .stop (s.failRelay x c code a n)
    | (s, .ready) =>
      match s.engineTry p { write := true } e.demander writes with
      | (s, .wait) => .wait s
      | (s, .fault c code a) => .stop (s.failRelay x c code a n)
      | (s, .ready) => .on s

/-- R381, R394: a tile as it travels. -/
def relayPacket (x : Relay) (own seq count : Nat) (t : RawTile) (trailer : List Byte) : RelayPacket :=
  let row (ws : List Word) : List Byte := packRow t.ty (List.replicate (packedSize t.ty t.n) 0) 0 ws
  { chan := x.r.chan, epoch := x.r.epoch, peer := BitVec.ofNat 10 own, seq, count := BitVec.ofNat 16 count
    data := t.rows.flatMap row, trailer }

/-- R372: the bytes that a unit's receive buffer holds. -/
def State.bufUse (s : State) (stack : Nat) : Nat :=
  ((s.relayBuf.filter (·.stack == stack)).map fun y => y.pkt.data.length + y.pkt.trailer.length).sum

/-- R381: a packet enters a unit's receive buffer; false when it is full. -/
def State.bufPut (s : State) (stack : Nat) (pkt : RelayPacket) (own : Bool) : State × Bool :=
  if 2 ^ 22 < s.bufUse stack + pkt.data.length + pkt.trailer.length then (s, false)
  else ({ s with relayBuf := s.relayBuf ++ [{ stack, pkt, at' := s.mtc.toNat, own }] }, true)

/-- R381: a packet goes out, or into the unit's own buffer; how it then stands. -/
def State.shipRelay (s : State) (x : Relay) (peer : Nat) (pkt : RelayPacket) : State × RelayWait :=
  let now := s.mtc.toNat
  if peer == s.ownIdOf x then
    match s.bufPut x.stack pkt true with
    | (s, true) => (s, .out now)
    | (s, false) => (s, .busy now)
  else ({ s with signals := s.signals ++ [.relayTile peer x.stack pkt] }, .out now)

/-- R383, R394: SEND of one tile. -/
def State.relaySend (s : State) (x : Relay) (e : EngReq) (f : Flight) (src : Nat) : RelayWent :=
  let reg := x.r.tileAt src
  if x.r.cwbase != 0 && (x.r.wordAt src).isNone then .stop (s.failRelay x 0x7A 2 0 f.n)
  else match s.relayReady x e f.n (reg.tileSpans 0 0 ++ x.r.wordSpans src) [] with
  | .on s =>
    let p := s.partyReq e
    let rd : Nat → Nat → List Byte := fun a n => s.engineBytes p a n
    let count := match x.r.wordSpans src with
      | [] => 0
      | (w, _) :: _ => x.r.countOf (leNat (rd w 8))
    let pkt := relayPacket x (s.ownIdOf x) (f.seq + f.pos) count (reg.readTile rd 0 0)
      (rd (reg.trailerAt 0 0) reg.trailerSize)
    let failed := s.portFailed
    let port := ((s.sessions.get {} p.session).portOf f.peer).getD 0
    if f.peer != s.ownIdOf x && failed.getLsbD port then .stop (s.failRelay x 0x76 1 0 f.n)
    else
      let (s, st) := s.shipRelay x f.peer pkt
      let one : RelaySent := { relay := x.id, step := f.n, src, peer := f.peer, attempt := 1, st, pkt }
      .on { s with relaySent := s.relaySent ++ [one] }
  | w => w

/-- R381: the packet that a step takes next. -/
def State.relayPacketFor (s : State) (x : Relay) (f : Flight) : Option RelayHeld :=
  s.relayBuf.find? fun y => y.stack == x.stack && y.pkt.chan == x.r.chan && y.pkt.epoch == x.r.epoch
    && y.pkt.peer.toNat == f.peer && y.pkt.seq == f.seq + f.pos

/-- R381: the tile that a packet carries. -/
def Relay.packetTile (x : Relay) (p : RelayPacket) : RawTile :=
  { ty := x.r.ty, m := x.r.tr, n := x.r.tc
    rows := (chunksOf (packedSize x.r.ty x.r.tc) x.r.tr p.data).map fun bs => unpackRow x.r.ty bs 0 x.r.tc }

/-- R384: the first NAK of a relay queues LINKCHK. -/
def State.relayWarn (s : State) (x : Relay) (peer n : Nat) : State :=
  if (s.relayBy x.id).any (·.warned) then s
  else match s.engBy x.id with
    | none => s
    | some r => (s.updRelay x.id fun x => { x with warned := true }).faultTo r.launch r.key
        { cause := 0x71, tcode := BitVec.ofNat 32 (peer % 1024 + 2 ^ 10 + n % 2 ^ 16 * 2 ^ 16) }

/-- R384: a NAK of a tile that is out, with the TCODE of CHKUNC should it be the third. -/
def State.relayNak (s : State) (i : Nat) (y : RelaySent) (code : Word) : State :=
  match s.relayBy y.relay with
  | none => s
  | some x =>
    let s := s.relayWarn x y.peer y.step
    if x.st != .active then { s with relaySent := s.relaySent.eraseIdx i }.relaySettle x.id
    else if y.attempt < 3 then { s with relaySent := modifyNth (fun z => { z with st := .again }) s.relaySent i }
    else ({ s with relaySent := s.relaySent.eraseIdx i }).failRelay x 0x41 code 0 y.step

/-- The tile that is out and that a packet of the module's own carries. -/
def State.ownSent (s : State) (pkt : RelayPacket) : Option Nat :=
  indexOfFirst (fun (y : RelaySent) => y.pkt == pkt && (match y.st with
    | .out _ => true
    | .busy _ => false
    | .again => false)) s.relaySent

/-- R381, R383: answers a packet: 0 acknowledged, 7 NAK, 6 discarded. -/
def State.relayTell (s : State) (h : RelayHeld) (code : Nat) (unc : Word) : State :=
  if h.acked then s
  else if !h.own then
    { s with signals := s.signals ++ [.relayAnswer h.pkt.peer.toNat h.stack h.pkt.chan h.pkt.epoch h.pkt.seq code] }
  else match s.ownSent h.pkt with
  | none => s
  | some i =>
    match s.relaySent[i]? with
    | none => s
    | some y =>
      if code == 7 then s.relayNak i y unc
      else
        let s := { s with relaySent := s.relaySent.eraseIdx i }
        match s.relayBy y.relay with
        | none => s
        | some x =>
          if code == 6 && x.st == .active then
            s.failRelay x 0x75 (BitVec.ofNat 32 (6 + y.peer % 1024 * 2 ^ 16)) 0 y.step
          else s.relaySettle x.id

/-- R381, R383: a packet leaves the buffer, with its answer if it has none yet. -/
def State.relayReply (s : State) (h : RelayHeld) (code : Nat) (unc : Word) : State :=
  ({ s with relayBuf := s.relayBuf.erase h }).relayTell h code unc

/-- R381, R383: a receiving step verifies its packet as soon as it holds it, whatever its own reads and
writes still wait for: a good one is acknowledged, a bad one answered NAK (DEDUCED,
notes/assumptions/22.md). -/
def State.relayAck (s : State) (x : Relay) (f : Flight) : State :=
  match s.relayPacketFor x f with
  | none => s
  | some h =>
    if h.acked then s
    else
      let pk := x.packetTile h.pkt
      match relayVerify (x.r.op == 3) pk h.pkt.trailer with
      | none => s.relayReply h 7 (relayUnc (x.r.op == 3) pk h.pkt.trailer)
      | some _ =>
        let s := s.relayTell h 0 0
        { s with relayBuf := modifyFirst (· == h) (fun y => { y with acked := true }) s.relayBuf }

/-- R383, R392 to R394: writes a destination tile: data, trailer, completion word. -/
def State.relayWrite (s : State) (x : Relay) (e : EngReq) (f : Flight) (dst count : Nat) (h : RelayHeld)
    (t : RawTile) (sums : Sums) (fs : List Fix) : RelayWent :=
  let reg := x.r.tileAt dst
  if x.r.cwbase != 0 && (x.r.wordAt dst).isNone then .stop (s.failRelay x 0x7A 2 0 f.n)
  else match s.relayReady x e f.n [] (reg.tileSpans 0 0 ++ x.r.wordSpans dst) with
  | .on s =>
    let p := s.partyReq e
    let rd : Nat → Nat → List Byte := fun a n => s.engineBytes p a n
    let word := leBytes 8 (sums.ck.toNat * 2 ^ 32 + x.r.epoch.toNat * 2 ^ 16 + count % 2 ^ 16)
    let s := (s.traceReq e fs).engineWrite p (reg.tileWrites rd 0 0 t sums ++ (x.r.wordSpans dst).map fun w => (w.1, word))
    .on (s.relayReply h 0 0)
  | w => w

/-- R383, R394: RECVRED and RECVCOPY of one tile. -/
def State.relayTake (s : State) (x : Relay) (e : EngReq) (f : Flight) (src dst : Nat) : RelayWent :=
  match s.relayPacketFor x f with
  | none => .wait s
  | some h =>
    let triple := x.r.op == 3
    let reg := x.r.tileAt src
    let pk := x.packetTile h.pkt
    match relayVerify triple pk h.pkt.trailer with
    | none => .wait (s.relayReply h 7 (relayUnc triple pk h.pkt.trailer))
    | some inc =>
      let keep := x.r.cwbase != 0
      let fs := relayFixes triple pk h.pkt.trailer
      if f.kind = 2 then
        if keep && h.pkt.count.toNat != x.r.final then .stop (s.failRelay x 0x79 2 0 f.n)
        else s.relayWrite x e f dst x.r.final h inc.1 inc.2 fs
      else if keep && (x.r.wordAt src).isNone then .stop (s.failRelay x 0x7A 2 0 f.n)
      else match s.relayReady x e f.n (reg.tileSpans 0 0 ++ x.r.wordSpans src) [] with
      | .on s =>
        let p := s.partyReq e
        let rd : Nat → Nat → List Byte := fun a n => s.engineBytes p a n
        let raw := reg.readTile rd 0 0
        let bs := rd (reg.trailerAt 0 0) reg.trailerSize
        match relayVerify triple raw bs with
        | none =>
          if f.tries < 2 then .wait (s.updRelay x.id fun x =>
            { x with flights := modifyFirst (·.n == f.n) (fun g => { g with tries := g.tries + 1 }) x.flights })
          else .stop (s.failRelay x 0x41 (relayUnc triple raw bs) 0 f.n)
        | some loc =>
          let mine := match x.r.wordSpans src with
            | [] => 0
            | (w, _) :: _ => x.r.countOf (leNat (rd w 8))
          let c := mine + h.pkt.count.toNat
          if keep && x.r.final < c then .stop (s.failRelay x 0x79 1 0 f.n)
          else
            let (t, sums) := relayCombine x.r loc inc
            s.relayWrite x e f dst c h t sums (fs ++ relayFixes triple raw bs)
      | w => w

/-! ## Steps (R375, R382) -/

/-- R382: starts the next step. -/
def State.relayStart (s : State) (x : Relay) : State :=
  let (kind, src, dst, gi) := x.r.step x.next
  let peer := x.ids.getD gi 0
  let seq := if kind = 0 then x.sentTo.get 0 peer else x.taken.get 0 peer
  let f : Flight := { n := x.next, kind, src, dst, peer, seq }
  s.updRelay x.id fun x =>
    { x with next := x.next + 1, flights := x.flights ++ [f]
             sentTo := if kind = 0 then x.sentTo.put peer (seq + x.r.nt) else x.sentTo
             taken := if kind = 0 then x.taken else x.taken.put peer (seq + x.r.nt) }

/-- R375: the address of a step's tile. -/
def RelayRec.tileOf (r : RelayRec) (a k : Nat) : Nat := (a + k * r.tstr) % 2 ^ 64
/-- R382: the bytes of a tile, with its completion word. -/
def RelayRec.tileReach (r : RelayRec) (a : Nat) : List (Nat × Nat) := (r.tileAt a).tileSpans 0 0 ++ r.wordSpans a
/-- R382, R384: the bytes that a step may still read and those that it may still write, from tile `k` on. -/
def Relay.reach (x : Relay) (f : Flight) (ks : List Nat) : List (Nat × Nat) × List (Nat × Nat) :=
  (if f.kind = 2 then [] else ks.flatMap fun k => x.r.tileReach (x.r.tileOf f.src k),
   if f.kind = 0 then [] else ks.flatMap fun k => x.r.tileReach (x.r.tileOf f.dst k))

/-- R382: an earlier step in flight keeps a step's next tile waiting. A SEND may read a tile again until it is
acknowledged (R384). -/
def State.relayWaits (s : State) (x : Relay) (f : Flight) : Bool :=
  let (r, w) := x.reach f [f.pos]
  x.flights.any fun g => Nat.blt g.n f.n &&
    (let (r', w') := x.reach g ((List.range (x.r.nt - g.pos)).map (g.pos + ·))
     let out := (s.relaySent.filter fun y => y.relay == x.id && y.step == g.n).flatMap fun y => x.r.tileReach y.src
     anyMeet r w' || anyMeet w (r' ++ out ++ w'))

/-- R381, R383: a step whose tiles are all moved is done; a SEND once they are acknowledged. -/
def State.flightOver (s : State) (x : Relay) (f : Flight) : Bool :=
  x.r.nt ≤ f.pos && !s.relaySent.any fun y => y.relay == x.id && y.step == f.n

/-- One tile of a step. -/
def State.flightTile (s : State) (x : Relay) (e : EngReq) (f : Flight) : RelayWent :=
  let at' (a : Nat) : Nat := x.r.tileOf a f.pos
  let moved : RelayWent := if f.kind = 0 then s.relaySend x e f (at' f.src) else s.relayTake x e f (at' f.src) (at' f.dst)
  match moved with
  | .on s => .on (s.updRelay x.id fun x =>
      { x with flights := modifyFirst (·.n == f.n) (fun g => { g with pos := g.pos + 1, tries := 0 }) x.flights })
  | w => w

/-- The tiles of a step, as far as they go. -/
def State.flightRun (s : State) (id n : Nat) : Nat → State
  | 0 => s
  | fuel + 1 =>
    match s.relayBy id, s.engBy id with
    | some x, some e =>
      match x.flights.find? (·.n == n) with
      | none => s
      | some f =>
        let s := if f.kind = 0 || x.r.nt ≤ f.pos then s else s.relayAck x f
        if x.r.nt ≤ f.pos || s.relayWaits x f then s
        else match s.flightTile x e f with
          | .on s => State.flightRun s id n fuel
          | .wait s => s
          | .stop s => s
    | some _, none => s
    | none, _ => s

/-- R379: steps that are done leave; with the last of them the relay ends. -/
def State.relayTidy (s : State) (id : Nat) : State :=
  match s.relayBy id with
  | none => s
  | some x =>
    if x.st != .active then s
    else
      let left := x.flights.filter fun f => !s.flightOver x f
      let done := x.doneSteps + (x.flights.length - left.length)
      let isOver := left.isEmpty && x.r.steps ≤ x.next
      let s := s.updRelay id fun x =>
        { x with flights := left, doneSteps := done, st := if isOver then .ended else .active }
      if isOver then s.relaySettle id else s

/-- R384: reads a source again, verifies it, and sends it again. -/
def State.relayAgain (s : State) (x : Relay) (e : EngReq) (i : Nat) (y : RelaySent) : State :=
  let reg := x.r.tileAt y.src
  match s.relayReady x e y.step (reg.tileSpans 0 0) [] with
  | .wait s => s
  | .stop s => s
  | .on s =>
    let p := s.partyReq e
    let rd : Nat → Nat → List Byte := fun a n => s.engineBytes p a n
    let raw := reg.readTile rd 0 0
    let bs := rd (reg.trailerAt 0 0) reg.trailerSize
    match relayVerify (x.r.op == 3) raw bs with
    | none =>
      if y.tries < 2 then { s with relaySent := modifyNth (fun z => { z with tries := y.tries + 1 }) s.relaySent i }
      else s.failRelay x 0x41 (relayUnc (x.r.op == 3) raw bs) 0 y.step
    | some (t, sums) =>
      let pkt := relayPacket x (s.ownIdOf x) y.pkt.seq y.pkt.count.toNat t (trailerBytes x.r.ty x.r.tr x.r.tc sums)
      let (s, st) := (s.traceReq e (relayFixes (x.r.op == 3) raw bs)).shipRelay x y.peer pkt
      { s with relaySent := modifyNth (fun z => { z with st, pkt, attempt := y.attempt + 1, tries := 0 }) s.relaySent i }

/-- R384: every tile of a relay that is to be sent again. -/
def State.relayAgains (s : State) (id : Nat) : State :=
  (List.range s.relaySent.length).foldl (fun s i =>
    match s.relaySent[i]?, s.relayBy id, s.engBy id with
    | some y, some x, some e =>
      if y.relay == id && y.st == .again && x.st == .active then s.relayAgain x e i y else s
    | _, _, _ => s) s

/-- R381: the stop notice that was kept for a relay. -/
def State.noticeFor (s : State) (x : Relay) : Option RelayNotice :=
  s.relayNotices.find? fun n => n.stack == x.stack && n.chan == x.r.chan && n.epoch == x.r.epoch

/-- R361: a tile of a relay is out through a port that has failed: its step. -/
def State.relayCut (s : State) (x : Relay) : Option Nat :=
  let session := ((s.launchBy x.launch).getD Launch.none).session
  (s.relaySent.find? fun y => y.relay == x.id && y.peer != s.ownIdOf x
    && ((s.sessions.get {} session).portOf y.peer).any s.portFailed.getLsbD).map RelaySent.step

/-- R382: one turn of a relay: its stop notice, resends, new steps, the tiles of its steps. -/
def State.relayTurn (s : State) (x : Relay) : State :=
  if x.st != .active then s
  else match s.noticeFor x with
  | some n => ({ s with relayNotices := s.relayNotices.erase n }).noticeRelay x n.peer n.cause
  | none => match s.relayCut x with
  | some n => s.failRelay x 0x76 1 0 n
  | none =>
    if s.deferred.contains x.id then
      { s with deferred := s.deferred.filter (· != x.id) }.haltRelay x 0x53 ((x.flights.head?.map Flight.n).getD x.next)
    else
      let s := s.relayAgains x.id
      let s := (List.range 8).foldl (fun s _ =>
        match s.relayBy x.id with
        | none => s
        | some x =>
          if x.st == .active && s.relayRuns x && x.flights.length < 8 && x.next < x.r.steps then s.relayStart x else s) s
      let ns := ((s.relayBy x.id).map fun x => x.flights.map Flight.n).getD []
      (ns.foldl (fun s n => s.flightRun x.id n (x.r.nt + 1)) s).relayTidy x.id

/-- R398: a relay whose launch runs, or that still has steps in flight. -/
def State.relayLives (s : State) (x : Relay) : Bool := x.st == .active && (s.relayRuns x || !x.flights.isEmpty)

/-- R382: the relay in a slot goes on, once its unit has taken it from its queue. -/
def execRelayStepStart (stack slot : Nat) (s : State) : Out :=
  .next (match s.relays.find? fun x => x.stack == stack && x.slot == slot && s.relayLives x with
    | none => s
    | some x =>
      match s.engBy x.id with
      | none => s
      | some e => if s.cycle < e.ready || (s.relayCmds stack).contains (.start x.id) then s else s.relayTurn x)

/-! ## Packets (R381) -/

/-- R381: the answer to a packet of a peer. -/
def State.relayAnswer (s : State) (stack : Nat) (p : RelayPacket) (code : Nat) : State :=
  { s with signals := s.signals ++ [.relayAnswer p.peer.toNat stack p.chan p.epoch p.seq code] }

/-- R372, R381: a packet arrives from a peer. -/
def execRelayPacketReceive (stack : Nat) (p : RelayPacket) (s : State) : Out :=
  .next (if !s.sessions.any (·.2.opened) then s.relayAnswer stack p 1 else s.relayPut stack (.tile p))

/-- R372, R381: a command has come to the head of a unit's queue: a relay may start its steps, a tile enters the
receive buffer or is answered busy, a notice acts. -/
def State.relayCmd (s : State) (stack : Nat) : State :=
  match s.relayCmds stack with
  | [] => s
  | c :: rest =>
    let s := { s with relayQ := if rest.isEmpty then s.relayQ.del stack else s.relayQ.put stack rest }
    match c with
    | .start _ => s
    | .tile p => match s.bufPut stack p false with
      | (s, true) => s
      | (s, false) => s.relayAnswer stack p 8
    | .notice chan epoch peer cause => s.takeNotice stack chan epoch peer cause

/-- R381: a packet that was answered busy is sent again after 1,024 ticks. -/
def State.relayRetry (s : State) (i : Nat) (y : RelaySent) : State :=
  match y.st with
  | .busy t =>
    if s.mtc.toNat < t + 1024 then s
    else match s.relayBy y.relay with
      | none => s
      | some x =>
        let (s, st) := s.shipRelay x y.peer y.pkt
        { s with relaySent := modifyNth (fun z => { z with st }) s.relaySent i }
  | .out _ => s
  | .again => s
/-- R381. -/
def execRelayBusyRetry (i : Nat) (s : State) : Out :=
  .next (match s.relaySent[i]? with
    | none => s
    | some y => s.relayRetry i y)

/-- R381: the i-th packet of the receive buffers, or after them the i-th notice, has matched no relay
for 2^26 ticks. -/
def execRelayPacketExpire (stack i : Nat) (s : State) : Out :=
  .next (match s.relayBuf[i]? with
    | some h =>
      if h.stack == stack && (s.relayOn h.stack h.pkt.chan h.pkt.epoch).isNone && h.at' + 2 ^ 26 ≤ s.mtc.toNat
      then s.relayReply h 6 0 else s
    | none =>
      match s.relayNotices[i - s.relayBuf.length]? with
      | none => s
      | some n =>
        if n.stack == stack && (s.relayOn n.stack n.chan n.epoch).isNone && n.at' + 2 ^ 26 ≤ s.mtc.toNat then { s with relayNotices := s.relayNotices.erase n } else s)

/-- R381: a tile that got no answer within 2^20 ticks. -/
def execRelayNoAnswer (i : Nat) (s : State) : Out :=
  .next (match s.relaySent[i]? with
    | none => s
    | some y =>
      match y.st, s.relayBy y.relay with
      | .out t, some x =>
        if s.mtc.toNat < t + 2 ^ 20 then s
        else
          let s := { s with relaySent := s.relaySent.eraseIdx i }
          if x.st == .active then s.failRelay x 0x76 2 0 y.step else s.relaySettle x.id
      | _, _ => s)

/-! ## Answers of peers (R366, R369, R370, R381, R384) -/

/-- R370, R379: a peer acknowledges the i-th tile that is out: those of sends first, then those of
relays. -/
def execNakanAck (i : Nat) (s : State) : Out :=
  .next (match s.sent[i]? with
    | some x => s.sendAck i x
    | none =>
      let j := i - s.sent.length
      match s.relaySent[j]? with
      | none => s
      | some y => { s with relaySent := s.relaySent.eraseIdx j }.relaySettle y.relay)

/-- R381, R384, R396: a NAK (0), busy (7) or a refusal of a relay's tile. -/
def State.relayAnswered (s : State) (i : Nat) (y : RelaySent) (refusal : BitVec 3) : State :=
  if refusal == 7 then
    { s with relaySent := modifyNth (fun z => { z with st := .busy s.mtc.toNat }) s.relaySent i }
  else if refusal == 0 then
    let (c, s) := s.nakCounts
    s.relayNak i y c
  else
    let s := { s with relaySent := s.relaySent.eraseIdx i }
    match s.relayBy y.relay with
    | none => s
    | some x =>
      if x.st == .active then
        s.failRelay x 0x75 (BitVec.ofNat 32 (refusal.toNat + y.peer % 1024 * 2 ^ 16)) 0 y.step
      else s.relaySettle x.id

/-- R366, R368, R369, R384: a NAK (refusal 0) of the i-th tile that is out, or a refusal. -/
def execNakanNak (i : Nat) (refusal : BitVec 3) (s : State) : Out :=
  .next (match s.sent[i]? with
    | some x => s.sendNak i refusal x
    | none =>
      let j := i - s.sent.length
      match s.relaySent[j]? with
      | none => s
      | some y =>
        match y.st with
        | .out _ => s.relayAnswered j y refusal
        | .busy _ => s
        | .again => s)

end Sys2Proof.Machine
end

