-- ==== Sys2Proof/Machine/Control.lean ====
section
/-! DEFINITION. Tasks, job counters, events, the stream controller, hurdles and SRGEN (R400 to R424). -/

namespace Sys2Proof.Machine

/-! ## Task records (R405, R409) -/

/-- R405: a field of a task record. -/
def taskField (x lo n : Nat) : Nat := x / 2 ^ lo % 2 ^ n

/-- R405: a task from its record. -/
def taskOf (x uid : Nat) : Task :=
  let w (k : Nat) : Word := BitVec.ofNat 32 (taskField x (32 * k) 32)
  { uid, entry := w 0, args := Vector.ofFn fun i => w (2 + i.val), stage := BitVec.ofNat 3 (taskField x 32 3)
    aff := taskField x 36 8, hasAff := taskField x 36 8 != 0, cc := taskField x 35 1 == 1
    ascope := BitVec.ofNat 3 (taskField x 44 3), jv := taskField x 47 1 == 1, jcl := taskField x 54 4
    job := taskField x 48 6 }

/-- R409: the checks of a push, in order: TQBAD's TCODE, or 0 for HDRBAD. `n` is what the job counter
gains, `kernel` spares the words that hold QUEUE and COUNT. -/
def State.taskBad (s : State) (x queue n : Nat) (kernel : Bool) : Option Nat :=
  let t := taskOf x 0
  let h := s.hdrOf s.cur
  if h.codeSize / 2 ≤ t.entry.toNat then some 1
  else if taskField x 58 6 != 0 || (!kernel && taskField x 192 64 != 0) || 6 ≤ t.ascope.toNat
      || (t.cc && t.aff != 0) || 2 ^ 9 ≤ queue then some 2
  else if !s.launch.mask.getLsbD (queue / 32) || (t.jv && !s.launch.mask.getLsbD t.jcl) then some 3
  else if t.jv && 16777215 < s.jobCount t.jcl t.job + n then some 4
  else if h.stage < t.stage.toNat then some 0
  else none

/-- R429. -/
def State.tqbad (s : State) (code : Nat) : State := s.trap 0x80 (BitVec.ofNat 32 code)
/-- R409: TQBAD, or the fatal HDRBAD of R69. -/
def State.pushFault (s : State) (code : Nat) : State :=
  if code = 0 then s.dropAcc.fatalHere 0x90 else s.tqbad code

/-- R405: a record's address. -/
def recordHome (s : State) (va : Nat) : Bool := va % 32 == 0 && relayHome s.unit va 32

/-! ## Queues (R406, R409, R410) -/

/-- R406: a queue of a cluster. -/
def State.queueAt (s : State) (c q : Nat) : TaskQueue := (s.clusterAt c).queues.get {} q
/-- Writes a queue. -/
def State.setQueue (s : State) (c q : Nat) (x : TaskQueue) : State :=
  s.updCluster c fun k => { k with queues := k.queues.put q x }
/-- R406: a queue has room for an entry. -/
def State.queueRoom (s : State) (c q : Nat) : Bool := (s.queueAt c q).entries.length < 4160

/-- R409: a ticket. -/
def ticketWord (c q seq : Nat) : Word := BitVec.ofNat 32 (c * 2 ^ 28 + q * 2 ^ 23 + seq)

/-- R406, R409: a queue accepts a task, and gives its ticket. -/
def State.enqueue (s : State) (c q launch : Nat) (t : Task) : State × Word :=
  let x := s.queueAt c q
  let tick := ticketWord c q x.next
  let next := if x.next == 2 ^ 23 - 1 then 1 else x.next + 1
  (s.setQueue c q { entries := x.entries ++ [{ task := { t with ticket := tick }, seq := x.next, launch }], next }, tick)

/-- R406, R409: a push that has added to its job counter: the release, then the queue, where it waits while
that is full (log entry 11). -/
def State.pushGo (s : State) (sd : BitVec 5) (p : HeldPush) : State :=
  let (c, q) := (p.arg.toNat / 32, p.arg.toNat % 32)
  match s.release 4 with
  | (s, false) => s.stallFor 4 (.released true)
  | (s, true) =>
    if !s.queueRoom c q then s.stallFor 4 (.queueRoom c q)
    else
      let (uid, s) := s.fresh
      let (s, tick) := s.enqueue c q s.launch.uid (taskOf p.record uid)
      (s.upd fun c => { c with push := none }).scalarLater sd tick

/-- R409, R418: the checks of a record have passed: its job counter gains `n`, and the push is held. -/
def State.holdPush (s : State) (x n : Nat) (arg : Word) : State :=
  let t := taskOf x 0
  let s := if t.jv then s.jobAdd t.jcl t.job n else s
  (s.dropAcc).upd fun c => { c with push := some { record := x, arg } }

/-- R409: the address, the record and its checks. -/
def State.pushNew (s : State) (f : TqPushF) : State :=
  let va := (s.rdA f.at'.toNat + f.off.signExtend 64 * 32).toNat
  let qv := (s.spec f.q 0).toNat
  if !recordHome s va then s.tqbad 5
  else match s.readRecord va 32 32 with
  | (s, none) => s
  | (s, some bs) =>
    let x := leNat bs
    match s.taskBad x qv 1 false with
    | some c => s.pushFault c
    | none =>
      let s := s.holdPush x 1 (s.spec f.q 0)
      s.pushGo f.sd { record := x, arg := s.spec f.q 0 }

/-- R409. -/
def State.tqpush (s : State) (f : TqPushF) : State :=
  match s.ctx.push with
  | some p => s.pushGo f.sd p
  | none => s.pushNew f
/-- R409. -/
def execTqpush (f : TqPushF) (s : State) : Out := .next (s.tqpush f)

/-- R410. -/
def State.tqcancel (s : State) (tick : Word) : State × Nat :=
  let (c, q, seq) := (tick.toNat / 2 ^ 28, tick.toNat / 2 ^ 23 % 32, tick.toNat % 2 ^ 23)
  if !s.launch.mask.getLsbD c then (s, 2)
  else
    let x := s.queueAt c q
    match x.entries.find? (·.seq == seq) with
    | some e =>
      let s := s.setQueue c q { x with entries := x.entries.filter (·.seq != seq) }
      (if e.task.jv then s.jobSub e.task.jcl e.task.job 1 else s, 0)
    | none => (s, if signedOf 23 ((seq + 2 ^ 23 - x.next) % 2 ^ 23) < 0 then 1 else 2)
/-- R410. -/
def execTqcancel (f : DstSpec) (s : State) : Out :=
  let (s, r) := s.tqcancel (s.spec f.h 0)
  .next (s.scalarLater f.sd (BitVec.ofNat 32 r))

/-! ## Job counters and events (R411 to R415) -/

/-- R412. -/
def State.jobwait (s : State) (f : JobWaitF) : State :=
  let j := (s.spec f.j 0).toNat
  if 2 ^ 10 ≤ j then s.tqbad 2
  else if j / 64 != s.cluster then s.tqbad 3
  else if s.ctx.passed.isNone && s.jobCount s.cluster (j % 64) != 0 then s.blockFor 3 (.job (j % 64))
  else
    let (s, ok) := s.acquire f.scope.toNat
    if ok then s.ends .done else s.blockFor 3 (.fence true false true 0)
/-- R412: form 0. -/
def execJobwaitWait (f : JobWaitF) (s : State) : Out := .next (s.jobwait f)
/-- R412: form 1. -/
def execJobwaitRd (f : DstSpec) (s : State) : Out :=
  let j := (s.spec f.h 0).toNat
  .next (if 2 ^ 10 ≤ j then s.tqbad 2
    else if !s.launch.mask.getLsbD (j / 64) then s.tqbad 3
    else s.scalarLater f.sd (BitVec.ofNat 32 (s.jobCount (j / 64) (j % 64))))

/-- R413, R414: EVPOST; an event queue of 256 holds it back. -/
def State.evpost (s : State) (f : EvPostF) : State :=
  let c := (s.spec f.c 0).toNat
  if 16 ≤ c || !s.launch.mask.getLsbD c then s.tqbad 3
  else if 256 ≤ (s.clusterAt c).events.length then s.stallFor 4 (.engine 60 c)
  else match s.release 4 with
    | (s, false) => s.stallFor 4 (.released true)
    | (s, true) => (s.postEvent c (eventA 7 (s.spec f.v 0).toNat) (eventB s.cur 0)).ends .done
/-- R414. -/
def execEvpost (f : EvPostF) (s : State) : Out := .next (s.evpost f)

/-- R415: the two words land in s[sd] and s[sd+1]. -/
def State.eventOut (s : State) (sd : BitVec 5) (a b : Word) : State :=
  let (due, s) := s.laterDue
  s.variable due [.s sd.toNat a, .s (sd.toNat + 1) b]

/-- R415: the event that a context takes: the first that no earlier waiter is owed. -/
def State.evwait (s : State) (f : EvWaitF) : State :=
  let k := s.clusterAt s.cluster
  let i := (indexOfFirst (· == s.cur) k.evWaiters).getD k.evWaiters.length
  match k.events[i]? with
  | some (a, b) =>
    let s := s.updCluster s.cluster fun k =>
      { k with events := k.events.eraseIdx i, evWaiters := k.evWaiters.filter (· != s.cur) }
    (s.acquireModule s.cur).eventOut f.sd a b
  | none =>
    if f.nb == 1 then s.eventOut f.sd 0xF0000000 0
    else
      (s.updCluster s.cluster fun k =>
        { k with evWaiters := if k.evWaiters.contains s.cur then k.evWaiters else k.evWaiters ++ [s.cur] }).blockFor
        3 .event
/-- R415. -/
def execEvwait (f : EvWaitF) (s : State) : Out := .next (s.evwait f)

/-! ## The stream controller (R416 to R418) -/

/-- R429. -/
def State.kbad (s : State) (code : Word) : State := s.trap 0x83 code

/-- R417: a handle. -/
def streamHandle (i gen : Nat) : Word := BitVec.ofNat 32 (gen * 256 + i)

/-- The lowest FREE entry of a cluster's scoreboard. -/
def State.streamFree (s : State) (c : Nat) : Option Nat :=
  (List.range 32).find? fun i => ((s.clusterAt c).streamCtl.getD i {}).st == .free

/-- R416: an entry leaves FREE. -/
def State.streamTake (s : State) (c i : Nat) (st : StreamState) : State × Word :=
  let g := ((s.clusterAt c).streamCtl.getD i {}).gen
  let gen := if g == 255 then 1 else g + 1
  (s.updCluster c fun k => { k with streamCtl := k.streamCtl.setIfInBounds i { gen, st } }, streamHandle i gen)

/-- R417: a transfer record's address. -/
def transferHome (u va : Nat) : Bool :=
  va % 32 == 0 && oneHome u va 32 && (match homeOf u va with
    | some h => h ≤ 3 || h == 17
    | none => false)

/-- R418: form 0. -/
def State.klaunchX (s : State) (f : KLaunchF) : State :=
  let va := (s.rdA f.ar.toNat).toNat
  if !transferHome s.unit va then s.kbad 1
  else match s.readRecord va 32 32 with
  | (s, none) => s
  | (s, some bs) =>
    let x := leNat bs
    let (dst, src, len) := (taskField x 0 64, taskField x 64 64, taskField x 128 32)
    if taskField x 160 96 != 0 then s.kbad 1
    else match bytesFault s.unit dst src len with
    | some (.inl a) => s.memFault 0x30 0 a
    | some (.inr c) => s.cpybad c
    | none =>
      match s.streamFree s.cluster with
      | none => s.stallFor 4 .streamEntry
      | some i =>
        if 64 ≤ (s.copyQueue s.cluster).length then s.stallFor 4 (.engine 0 s.cluster)
        else match s.releaseAtIssue with
        | (s, false) => s
        | (s, true) =>
          let (p, s) := s.promise (max (padRange src len) (padRange dst len)) 0 src dst
          let id := s.nextUid
          let s := s.enterEng 0 1 false (.bytes dst src len) (some (BitVec.ofNat 64 p))
          let (s, h) := s.streamTake s.cluster i (.pending id)
          s.dropAcc.scalarLater f.sd h
/-- R418. -/
def execKlaunchX (f : KLaunchF) (s : State) : Out := .next (s.klaunchX f)

/-- R418: every entry of a mask is a PENDING or RESIDENT transfer. -/
def maskNames (v : Vector StreamEntry 32) (m : Word) : Bool :=
  (List.range 32).all fun i => !m.getLsbD i || (match (v.getD i {}).st with
    | .pending _ => true
    | .resident => true
    | .free => false
    | .failed => false
    | .waiting _ _ _ _ => false
    | .pushing _ _ _ _ => false)

/-- R418: a kernel launch that has added to its job counter takes an entry, when one is FREE. -/
def State.kernelGo (s : State) (sd : BitVec 5) (p : HeldPush) : State :=
  let (qw, count) := (taskField p.record 192 32, taskField p.record 224 32)
  let v := (s.clusterAt s.cluster).streamCtl
  match s.streamFree s.cluster with
  | none => s.stallFor 4 .streamEntry
  | some i =>
    match s.release 4 with
    | (s, false) => s.stallFor 4 (.released true)
    | (s, true) =>
      let t := taskOf p.record 0
      let gone := maskFailed v p.arg
      let st : StreamState := if gone then .free
        else if maskResident v p.arg then .pushing t qw count 0 else .waiting p.arg t qw count
      let (s, h) := s.streamTake s.cluster i st
      let s := if gone && t.jv then s.jobSub t.jcl t.job count else s
      (s.upd fun c => { c with push := none }).scalarLater sd h

/-- R418: the record of form 1 and its checks. -/
def State.kernelNew (s : State) (f : KLaunchF) : State :=
  let va := (s.rdA f.ar.toNat).toNat
  if !recordHome s va then s.tqbad 5
  else match s.readRecord va 32 32 with
  | (s, none) => s
  | (s, some bs) =>
    let x := leNat bs
    let (qw, count) := (taskField x 192 32, taskField x 224 32)
    match s.taskBad x (32 * s.cluster) count true with
    | some c => s.pushFault c
    | none =>
      let mask := s.spec f.sp 0
      let v := (s.clusterAt s.cluster).streamCtl
      if count == 0 || 65535 < count || 31 < qw then s.kbad 1
      else if !maskNames v mask then s.kbad 2
      else (s.holdPush x count mask).kernelGo f.sd { record := x, arg := mask }

/-- R418: form 1. -/
def State.klaunchK (s : State) (f : KLaunchF) : State :=
  match s.ctx.push with
  | some p => s.kernelGo f.sd p
  | none => s.kernelNew f
/-- R418. -/
def execKlaunchK (f : KLaunchF) (s : State) : Out := .next (s.klaunchK f)

/-- R418: a WAITING kernel names an entry. -/
def namedByWaiting (v : Vector StreamEntry 32) (i : Nat) : Bool :=
  v.toList.any fun e => match e.st with
    | .waiting m _ _ _ => m.getLsbD i
    | .free => false
    | .pending _ => false
    | .resident => false
    | .failed => false
    | .pushing _ _ _ _ => false

/-- R418: form 2. -/
def State.klaunchR (s : State) (h : Word) : State :=
  let i := h.toNat % 32
  let v := (s.clusterAt s.cluster).streamCtl
  let e := v.getD i {}
  if e.st == .free || h != streamHandle i e.gen then s.kbad 4
  else if (e.st == .resident || e.st == .failed) && !namedByWaiting v i then
    (s.updCluster s.cluster fun k => { k with streamCtl := k.streamCtl.setIfInBounds i { e with st := .free } }).ends .done
  else s.kbad 3
/-- R418. -/
def execKlaunchR (f : KLaunchF) (s : State) : Out := .next (s.klaunchR (s.spec f.sp 0))

/-- R418: a kernel that is PUSHING pushes its next task, if its queue has room. -/
def State.kernelPush (s : State) (c i : Nat) : State :=
  match ((s.clusterAt c).streamCtl.getD i {}).st, s.launchOn c with
  | .pushing t q count k, some l =>
    if !s.queueRoom c q || l.st == .preempting then s
    else
      let (uid, s) := s.fresh
      let t' := { t with uid, args := t.args.setIfInBounds 3 (BitVec.ofNat 32 k) }
      let (s, _) := s.enqueue c q l.uid t'
      s.updCluster c fun x =>
        let st : StreamState := if k + 1 == count then .free else .pushing t q count (k + 1)
        { x with streamCtl := x.streamCtl.setIfInBounds i { x.streamCtl.getD i {} with st } }
  | _, _ => s
/-- R416, R418. -/
def execKernelPushing (cluster entry : Nat) (s : State) : Out := .next (s.kernelPush cluster entry)

/-! ## Hurdles (R419 to R422) -/

/-- R419: a hurdle's contents. -/
structure Hurdle where
  expect : Nat
  arrived : Nat
  early : Nat
  phase : Word

/-- R419: a hurdle from its 16 bytes; none where R421 refuses the contents. -/
def hurdleOf (x : Nat) : Option Hurdle :=
  let h : Hurdle := { expect := x % 2 ^ 16, arrived := x / 2 ^ 32 % 2 ^ 16, early := x / 2 ^ 48 % 2 ^ 16
                      phase := BitVec.ofNat 32 (x / 2 ^ 64) }
  if h.expect == 0 || h.expect ≤ h.arrived || h.expect ≤ h.early || x / 2 ^ 16 % 2 ^ 16 != 0 || x / 2 ^ 96 != 0
  then none else some h

/-- R419: the bytes of a hurdle. -/
def Hurdle.bytes (h : Hurdle) : List Byte :=
  leBytes 16 (h.expect + h.arrived * 2 ^ 32 + h.early * 2 ^ 48 + h.phase.toNat * 2 ^ 64)

/-- R421: the phase, as far ahead of q as it is. -/
def Hurdle.ahead (h : Hurdle) (q : Word) : Int := (h.phase - q).toInt

/-- R421: what an arrival for phase q comes to: the hurdle after it and the result, or HURDLE's code. -/
def Hurdle.arrive (h : Hurdle) (q : Word) : Sum Nat (Hurdle × Word) :=
  let d := h.ahead q
  if d = 0 then
    if h.arrived + 1 = h.expect then
      let h' : Hurdle := { h with phase := h.phase + 1, arrived := h.early, early := 0 }
      .inr (if h'.arrived = h'.expect then { h' with phase := h'.phase + 1, arrived := 0 } else h', 1)
    else .inr ({ h with arrived := h.arrived + 1 }, 0)
  else if d = -1 && h.early < h.expect - 1 then .inr ({ h with early := h.early + 1 }, 2)
  else .inl (if 1 ≤ d then 1 else if d ≤ -2 then 2 else 3)

/-- R421: HURDLE. -/
def State.hurdleTrap (s : State) (h : Hurdle) (code : Nat) : State :=
  s.trap 0x81 (BitVec.ofNat 32 (code + h.phase.toNat % 2 ^ 24 * 256))
/-- R421: HBAD; a pending HARW arrives anew. -/
def State.hbad (s : State) (code : Word) : State := (s.upd fun c => { c with harwa := false }).trap 0x82 code

/-- R420: the object's address. -/
def State.hurdleAddr (s : State) (f : HurdleF) : Nat :=
  (s.rdA f.ah.toNat + f.off.signExtend 64 * 16).toNat

/-- R419: the object lies where it may. -/
def State.hurdleHome (s : State) (va : Nat) : Bool :=
  va % 16 == 0 && (match homeOf s.unit va with
    | some h => h ≤ 3 || h == 17
    | none => false)
    && !(paged s.unit va && (s.pageOf (s.sessionOf s.unit) (ad va)).any (·.isLazy))

/-- R421: the object is admitted, the context's earlier accesses to its sector are performed, and the
domain's L1 drops the sector; none while the slot waits or when it faults. -/
def State.hurdleAccess (s : State) (va : Nat) : State × Option Hurdle :=
  if !s.hurdleHome va then (s.hbad 1, none)
  else match s.lAdmit .atomic va 16 16 with
  | (s, false) => (s, none)
  | (s, true) =>
    if !s.hurdleHome va then (s.hbad 1, none)
    else
      let s := s.drainSectors s.cur (pieces va 16)
      if s.storeBefore va 16 || s.atomicBefore va 16 then (s.stallFor 4 .storesApplied, none)
      else
        let (s, held) := match s.l1Unit s.unit va with
          | none => (s, false)
          | some c =>
            let s := s.writeBack c (va / 128)
            if s.dirtyAt c (va / 128) then (s, true) else (s.l1Drop c (va / 128), false)
        if held then (s.stallFor 4 (.flushed (ad va)), none)
        else match hurdleOf (s.ownerNat s.unit (s.sessionOf s.unit) (ad va) 16) with
          | none => (s.hbad 2, none)
          | some h => (s, some h)

/-- R421: the arrival's write. -/
def State.hurdleWrite (s : State) (va : Nat) (h : Hurdle) : State :=
  s.ownerWrite s.unit (s.sessionOf s.unit) (ad va) h.bytes

/-- R421: HARRIVE. -/
def State.harrive (s : State) (f : HurdleF) : State :=
  let va := s.hurdleAddr f
  match s.hurdleAccess va with
  | (s, none) => s
  | (s, some h) =>
    match h.arrive (s.spec f.q 0) with
    | .inl c => s.hurdleTrap h c
    | .inr (h', r) =>
      match s.release f.scope.toNat with
      | (s, false) => s.stallFor 4 (.released (s.wider f.scope.toNat))
      | (s, true) => ((s.hurdleWrite va h').dropAcc).scalarLater f.sd r
/-- R421. -/
def execHarrive (f : HurdleF) (s : State) : Out := .next (s.harrive f)

/-- R421: a wait that has passed acquires, and what follows. -/
def State.hurdleOver (s : State) (f : HurdleF) (phase : Word) (done : State → State) : State :=
  match s.acquire f.scope.toNat with
  | (s, true) => done s.dropAcc
  | (s, false) => (s.upd fun c => { c with passed := some phase }).blockFor 3 (.fence true false true 0)

/-- R421: the test of a wait. -/
def State.hurdleTest (s : State) (f : HurdleF) (va : Nat) (h : Hurdle) (done : Word → State → State) : State :=
  if h.ahead (s.spec f.q 0) < 1 then s.blockFor 3 (.hurdle (ad va) (s.spec f.q 0))
  else s.hurdleOver f h.phase (done h.phase)

/-- R421: HWAIT. -/
def State.hwait (s : State) (f : HurdleF) : State :=
  let va := s.hurdleAddr f
  let done (_ : Word) (s : State) : State := s.ends .done
  match s.ctx.passed with
  | some phase => s.hurdleOver f phase (done phase)
  | none =>
    match s.hurdleAccess va with
    | (s, none) => s
    | (s, some h) => if h.ahead (s.spec f.q 0) ≤ -2 then s.hurdleTrap h 2 else s.hurdleTest f va h done
/-- R421. -/
def execHwait (f : HurdleF) (s : State) : Out := .next (s.hwait f)

/-- R421, R422: HARW: its arrival, once, then its wait. -/
def State.harw (s : State) (f : HurdleF) : State :=
  let va := s.hurdleAddr f
  let done (phase : Word) (s : State) : State := (s.upd fun c => { c with harwa := false }).scalarLater f.sd phase
  match s.ctx.passed with
  | some phase => s.hurdleOver f phase (done phase)
  | none =>
    match s.hurdleAccess va with
    | (s, none) => s
    | (s, some h) =>
      if s.ctx.harwa then s.hurdleTest f va h done
      else match h.arrive (s.spec f.q 0) with
        | .inl c => s.hurdleTrap h c
        | .inr (h', _) =>
          match s.release f.scope.toNat with
          | (s, false) => s.stallFor 4 (.released (s.wider f.scope.toNat))
          | (s, true) => ((s.hurdleWrite va h').upd fun c => { c with harwa := true }).hurdleTest f va h' done
/-- R421. -/
def execHarw (f : HurdleF) (s : State) : Out := .next (s.harw f)

/-! ## SRGEN (R212, R424) -/

/-- R212, R424. -/
def execSrgen (f : SrGenF) (s : State) : Out :=
  let s := s.updUnit s.unit fun u => { u with key := s.rdA f.ak.toNat, counter := s.rdA f.ac.toNat }
  let s := (keysOf s.unit).foldl (fun s k =>
    if k == s.cur || (s.ctxAt k).st == .free then s.updCtx k fun c => { c with rq := [] } else s) s
  .next (s.ends .done)

end Sys2Proof.Machine
end

