-- ==== Sys2Proof/Machine/Schedule.lean ====
section
/-! DEFINITION. How contexts take turns: the completion of a bundle, idle runs, sprints, blocks, random
words, draining, and the binding and restoring of tasks (R27 to R30, R77 to R85, R153 to R160, R209 to
R212, R406 to R408, R427). -/

namespace Sys2Proof.Machine

/-! ## The completion of a bundle (R28, R80, R154, R156, R157, R160) -/

/-- R157: LE: the innermost loop counts down; where it goes back to. -/
def Ctx.loopEnd (c : Ctx) : Ctx × Option Addr :=
  match innermost c.loops with
  | none => (c, none)
  | some k =>
    let l := c.loops.getD k {}
    if l.remain.toNat ≤ 1 then
      ({ c with loops := c.loops.setIfInBounds k { l with remain := l.remain - 1, active := false } }, none)
    else
      ({ c with loops := c.loops.setIfInBounds k { l with remain := l.remain - 1 } }, some (bytesAddr l.start))

/-- R80: the sprint has reached its limit. -/
def State.sprintDue (s : State) (key : Nat) : Bool :=
  let limit := (s.hdrOf key).sprint
  limit != 0 && limit ≤ (s.ctxAt key).sprint

/-- The bundle at pc is over: nothing of it is left in the context. -/
def Ctx.closeBundle (c : Ctx) : Ctx :=
  { c with opened := false, counted := false, done := 0, harwa := false, accs := [], wait := none
           preEnd := none, preK := 1, after := {}, idle := none, emptied := [], push := none, passed := none, ended := true }

/-- R28, R153 to R157: where the context goes on after a bundle with header `h`, in cycle `cycle`. -/
def Ctx.goOn (c : Ctx) (h : BitVec 64) (due : Bool) (cycle : Nat) : Ctx :=
  let (c, back) := if hdrLE h then c.loopEnd else (c, none)
  let a := c.after
  let y := hdrY h || due
  let d := { c.closeBundle with nextIssue := max c.nextIssue (cycle + 1) }
  if a.transfer then { d with pc := c.fall, dly := true, target := a.taken, yieldDue := y }
  else
    let d := { d with yieldDue := y || c.yieldDue }
    if c.dly then
      { d with pc := match c.target with
                 | some t => t
                 | none => back.getD c.fall
               dly := false, target := none }
    else match a.exit with
      | some t => { d with pc := t, nextIssue := max c.nextIssue (cycle + 2) }
      | none => { d with pc := back.getD c.fall }

/-- R78 to R80, R82, R466: the transition at the end of a bundle: X ends, a due yield gives way, and a
step or a halt stops the context. -/
def State.endTurn (s : State) (key : Nat) (x : Bool) : State :=
  let c := s.ctxAt key
  let s :=
    if x then (s.updCtx key fun c => { c with yieldDue := false }).leaveIssuing key .draining
    else if c.yieldDue && !c.dly then
      (s.updCtx key fun c => { c with yieldDue := false }).leaveIssuing key .ready
    else s
  if c.stepping then (s.updCtx key fun c => { c with halt := true }).stopCtx key 15 0x97
  else if c.stopDue && (s.ctxAt key).st != .stopped then s.stopCtx key 15 0x97
  else s

/-- R157, R160: a context's bundle completes. -/
def State.finishBundle (s : State) (key : Nat) : State :=
  let c := s.ctxAt key
  let h := s.headerAt key c.pc
  let due := s.sprintDue key
  if c.after.resume then
    let r := c.closeBundle.returnFrom s.cycle
    let r := { r with yieldDue := r.yieldDue }
    let s := s.setCtx key r
    if hdrY h || due then s.leaveIssuing key .ready else s.endTurn key false
  else (s.setCtx key (c.goOn h due s.cycle)).endTurn key (hdrX h)

/-! ## Idle runs (R29, R30) -/

/-- R474: adds to the counters of every slot that a mask has (`fill`) or lacks. -/
def Laps.count (l : Laps) (bucket : Nat) (mask : BitVec 10) (n : Nat) : Laps :=
  let row (v : Vector Word 10) (want : Bool) : Vector Word 10 :=
    Vector.ofFn fun i => if mask.getLsbD i.val == want then v.getD i.val 0 + BitVec.ofNat 32 n else v.getD i.val 0
  let z : Vector Word 10 := Vector.replicate 10 0
  { l with fill := l.fill.setIfInBounds bucket (row (l.fill.getD bucket z) true)
           nop := l.nop.setIfInBounds bucket (row (l.nop.getD bucket z) false) }

/-- R474: the bundle at pc is counted once. -/
def Ctx.countLaps (c : Ctx) (mask : BitVec 10) (n : Nat) : Ctx :=
  if c.counted then c
  else { c with counted := true, laps := c.laps.count ((innermost c.loops).getD 8) mask n }

/-- R474: a cycle in which the context is ISSUING and issues nothing. -/
def State.stalled (s : State) (key cause n : Nat) : State :=
  s.updCtx key fun c =>
    { c with laps := { c.laps with stall := c.laps.stall.setIfInBounds cause (c.laps.stall.getD cause 0 + BitVec.ofNat 32 n) } }

/-- R29, R80: an idle bundle with count `n` begins: the context issues nothing in its cycles. -/
def execIdle (n : BitVec 20) (s : State) : Out :=
  let k := n.toNat + 1
  .next ((s.upd fun c =>
    { c.countLaps 0 k with idle := some k, sprint := c.sprint + k, issueAt := s.cycle
                           fall := c.pc + 8, seq := c.seq + 1 }).ends .done)

/-- R29: one idle cycle passes; at the end of the last one the bundle completes. -/
def State.idleCycle (s : State) (key : Nat) : State :=
  let c := s.ctxAt key
  match c.idle with
  | none => s
  | some k =>
    if c.st != .issuing then s
    else if k ≤ 1 then (s.setCtx key { c with fall := c.pc + 8 }).finishBundle key
    else s.setCtx key { c with idle := some (k - 1) }
/-- R29, R30. -/
def execIdleRunEnd (key : Nat) (s : State) : Out := .next (s.idleCycle key)

/-- R80: a context at the end of a bundle whose sprint has reached its limit yields; the first bundle of a
handler stands behind one that did not end (R87). -/
def execSprintLimit (key : Nat) (s : State) : Out :=
  let c := s.ctxAt key
  .next (if s.sprintDue key && c.st == .issuing && !c.opened && c.idle.isNone && c.done == 0 && !c.dly
      && c.ended
    then s.leaveIssuing key .ready else s)

/-! ## The scheduler (R55, R79) -/

/-- R425: the contexts of a unit may issue: its launch runs. -/
def State.unitRuns (s : State) (u : Nat) : Bool :=
  (s.launchOn (clusterOf u)).any fun l => l.st == .running

/-- R79: the first READY context after the one that left. -/
def State.nextReady (s : State) (u : Nat) : Option Nat :=
  let n := ctxCount u
  ((List.range n).map fun i => ((s.unitAt u).last + 1 + i) % n).find? fun k =>
    (s.ctxAt (8 * u + k)).st == .ready && (s.ctxAt (8 * u + k)).stopAt.isNone

/-- R79, R80: the next READY context enters ISSUING; it issues in the second cycle after the previous one
left. -/
def execScheduleContext (unit : Nat) (s : State) : Out :=
  let x := s.unitAt unit
  if x.cur.isSome || s.cycle + 1 < x.mayIssue || !s.unitRuns unit then .next s
  else match s.nextReady unit with
    | none => .next s
    | some k =>
      let s := s.updUnit unit fun x => { x with cur := some k }
      .next (s.updCtx (8 * unit + k) fun c =>
        { c with st := .issuing, sprint := if c.opened then 1 else 0, nextIssue := max c.nextIssue x.mayIssue })

/-- R55: a bank is drowsy: the context has issued nothing for 1,024 cycles and has no write pending. -/
def State.isDrowsy (s : State) (key : Nat) : Bool :=
  let c := s.ctxAt key
  c.drowsy || (c.lastIssue + 1024 ≤ s.cycle && c.pend.isEmpty && c.atomics.isEmpty)
/-- R55. -/
def execDrowsy (key : Nat) (s : State) : Out :=
  .next (if s.isDrowsy key then s.updCtx key fun c => { c with drowsy := true } else s)

/-! ## Blocks that end (R78, R81) -/

/-- Room in an engine's queue (R307, R328, R349, R364, R377, R413). -/
def State.engineRoom (s : State) (kind cluster : Nat) : Bool :=
  if kind == 0 then (s.copyQueue cluster).length < 64
  else if kind < 10 then !s.unitFull cluster (kind - 1)
  else if kind < 20 then
    ((s.walks.filter fun w => w.cluster == cluster && w.engine == kind - 10 && s.walkHere w).map (·.slot)).length < 8
  else if kind < 40 then (s.parts.filter (·.port == kind - 20)).length < 64
  else if kind < 60 then (s.relayRoom (kind - 40)).isSome
  else (s.clusterAt cluster).events.length < 256

/-- R81: what a context waits for has come. -/
def State.whyOver (s : State) (key : Nat) (c : Ctx) : Why → Bool
  | .regs rs => rs.all fun r => c.bank.full r.1 r.2
  | .scoreboard mask => (List.range 8).all fun n => !mask.getLsbD n || c.sb.getD n 0 == 0
  | .admission slot => c.accs.all fun a => a.slot != slot || (match a.st with
    | .admitted => true
    | .fault _ _ _ => true
    | .asking _ => false
    | .queued => false
    | .retry _ => false
    | .page _ _ => false
    | .held _ => false)
  | .storeRoom n => c.stored || (c.storeBuf ++ c.storeQ).length + n ≤ 16
  | .storesApplied => c.stored && c.atomics.isEmpty
  | .fence loads stores clean classes =>
    (!loads || c.loadsBound) && (!stores || (c.stored && c.atomics.isEmpty)) && c.classesDone classes
      && (!clean || s.allClean (s.domain (unitOf key)))
  | .timeline cls goal => goal ≤ c.completed.getD cls 0
  | .deadline t => t.toInt ≤ (s.mtc.toNat : Int)
  | .requests rs => rs.all fun x => c.reqs.all fun r => r.cls != x.1 || r.num != x.2 || r.done
  | .hurdle va q =>
    match hurdleOf (s.ownerNat (unitOf key) (s.sessionOf (unitOf key)) va 16) with
    | none => true
    | some h => 1 ≤ h.ahead q
  | .job n => s.jobCount (clusterOf (unitOf key)) n == 0
  | .passed => true
  | .event =>
    let k := s.clusterAt (clusterOf (unitOf key))
    (indexOfFirst (· == key) k.evWaiters).getD k.evWaiters.length < k.events.length
  | .table => (s.freeSlot (clusterOf (unitOf key))).isSome
  | .dieRoom guard die n => !s.dieFull guard die n
  | .node h =>
    match s.nodeOf h with
    | none => true
    | some n => n.tiles.all fun t => t != .suspended && t != .evaluating
  | .sendGuard spans => (s.guardOf spans none).isNone
  | .released wide => c.stored && c.atomics.isEmpty && (!wide || s.allClean (s.domain (unitOf key)))
  | .flushed va => match s.l1Unit (unitOf key) va.toNat with
    | none => true
    | some u => !s.dirtyAt u (va.toNat / 128)
  | .tiles secs => secs.all fun a => (s.tagAt (s.partyOf key) a.toNat).tag != .evaluating
  | .accumulator n => !({ s with cur := key }.accBlocked n)
  | .turn n =>
    let a := s.arrAt (unitOf key)
    !a.inFlight.any (·.placeOf key n) || (a.running.any fun op => op.placeOf key n && (match op.kind with
      | .drain _ ty sat => (a.acc n).verdict.any (fun v => v.ty == ty && v.sat == sat)
          || a.uncorrectable.any fun x => x.1 == n && x.2.1 == ty && x.2.2.1 == sat
      | _ => true))
  | .array =>
    let a := ({ s with cur := key }).arr
    a.holder == c.task.map (·.uid) || (a.holder.isNone && a.evaluator.isNone && a.evalWaiting.isEmpty
      && a.waiting.head? == some key)
  | .baton h k =>
    match ({ s with cur := key }).walkOf h with
    | none => true
    | some w =>
      let core := coreOf (unitOf key)
      w.record.count ≤ w.nextOf core k || w.st == .stopped || w.holds core k
  | .streamEntry => (s.streamFree (clusterOf (unitOf key))).isSome
  | .queueRoom cl q => s.queueRoom cl q
  | .engine kind cl => s.engineRoom kind cl
  | .token ring =>
    let r := (s.sessions.get {} (s.sessionOf (unitOf key))).rings.getD ring {}
    !r.en || r.producer < r.tcons + 2 ^ r.log2
  | .bank => true
  | .fatal => false

/-- R412, R421: a waiting context whose counter reads zero, or whose hurdle's phase has come, has passed. -/
def State.passes (s : State) (key : Nat) (c : Ctx) : Ctx :=
  match c.wait with
  | none => c
  | some w =>
    match w.why with
    | .job n => if s.jobCount (clusterOf (unitOf key)) n == 0
        then { c with wait := some { w with why := .passed }, passed := some 0 } else c
    | .hurdle va q =>
      match hurdleOf (s.ownerNat (unitOf key) (s.sessionOf (unitOf key)) va 16) with
      | none => c
      | some h => if 1 ≤ h.ahead q
          then { c with wait := some { w with why := .passed }, passed := some h.phase } else c
    | _ => c

/-- R412, R421: a context waits for a job counter or for a hurdle. -/
def Ctx.retested (c : Ctx) : Bool := c.wait.any fun w => match w.why with
  | .job _ => true
  | .hurdle _ _ => true
  | _ => false

/-- R412, R421: the waits on job counters and hurdles are tested again, after every turn that may have written
them. -/
def State.retest (s : State) : State :=
  if s.ctxs.any fun p => p.2.retested then { s with ctxs := s.ctxs.map fun (p : Nat × Ctx) => (p.1, s.passes p.1 p.2) } else s

/-- R102, R298, R300: what a waiting context's domain keeps dirty is written back once the guards let it, and a die
whose entries it waits for gives up its oldest. -/
def State.cleanFor (s : State) (key : Nat) : Why → State
  | .fence _ stores clean _ =>
    let s := if stores then s.drainStores key 128 else s
    if clean then s.writeBackAll (s.domain (unitOf key)) else s
  | .released wide =>
    let s := s.drainStores key 128
    if wide then s.writeBackAll (s.domain (unitOf key)) else s
  | .flushed va => match s.l1Unit (unitOf key) va.toNat with
    | none => s
    | some u => s.writeBack u (va.toNat / 128)
  | .dieRoom guard die n => if s.dieFull guard die n then s.demandOldest guard die else s
  | _ => s

/-- R78, R81: the blocking condition of a context clears: it is READY and issues from the next cycle on. -/
def execBlockClears (key : Nat) (s : State) : Out :=
  let c := s.ctxAt key
  match c.wait with
  | none => .next (if c.st == .blocked then s.unblock key else s)
  | some w =>
    if c.st != .blocked then .next s
    else
      let s := s.cleanFor key w.why
      if s.whyOver key (s.ctxAt key) w.why then
        .next ((s.unblock key).updCtx key fun c => { c with nextIssue := max c.nextIssue (s.cycle + 1) })
      else .next s

/-! ## Random words (R209, R210) -/

/-- R209: the word that a key and a counter give. -/
def randomWord (key counter : Addr) : Word :=
  let mix (x : Addr) : Addr := x ^^^ (x >>> 33)
  let x := counter ^^^ key
  let x := mix x * 0xFF51AFD7ED558CCD
  let x := mix x * 0xC4CEB9FE1A85EC53
  (mix x).setWidth 32

/-- R210: the context that takes the next word: the ISSUING one, then the lowest, while it has fewer than
64. -/
def State.wantsWord (s : State) (u : Nat) : Option Nat :=
  let open' (k : Nat) : Bool := (s.ctxAt (8 * u + k)).rq.length < 64
  match (s.unitAt u).cur with
  | some k => if open' k then some k else (List.range (ctxCount u)).find? open'
  | none => (List.range (ctxCount u)).find? open'

/-- R210: up to `n` words are delivered. -/
def State.deliverWords (s : State) (u : Nat) : Nat → State
  | 0 => s
  | n + 1 =>
    match s.wantsWord u with
    | none => s
    | some k =>
      let x := s.unitAt u
      let s := s.updCtx (8 * u + k) fun c => { c with rq := c.rq ++ [randomWord x.key x.counter] }
      State.deliverWords (s.setUnit u { x with counter := x.counter + 1 }) u n

/-- R473: a context that takes a task of a halted stage stops at once. -/
def State.stageStop (s : State) (key : Nat) : State :=
  match s.launchOn (clusterOf (unitOf key)), (s.ctxAt key).task with
  | some l, some t =>
    if s.dbg.halted.contains (l.uid, t.stage.toNat) && !isCcc (unitOf key) then
      (s.updCtx key fun c => { c with stageh := true }).stopCtx key 15 0x97
    else s
  | _, _ => s

/-- R78, R210: a bound context whose queue holds 64 words is READY. -/
def State.readyBound (s : State) (key : Nat) : State :=
  let c := s.ctxAt key
  if c.st == .free && c.task.isSome && c.rq.length == 64 then
    (s.setCtx key { c with st := .ready, nextIssue := s.cycle + 1 }).stageStop key
  else s

/-- R210: a unit's generator delivers words, and bound contexts become READY. -/
def execRandomWordDelivery (unit : Nat) (s : State) : Out :=
  let s := s.deliverWords unit 4
  .next ((keysOf unit).foldl State.readyBound s)

/-! ## The end of a task (R82, R245, R408) -/

/-- R82: the context's work is over. -/
def State.drained (s : State) (key : Nat) : Bool :=
  let c := s.ctxAt key
  c.st == .draining && c.pend.all (·.fixed) && c.atomics.isEmpty && c.stored && c.reqs.isEmpty
    && (s.arrAt (unitOf key)).inFlight.all (·.key != key)

/-- R245: chains that a task leaves open are ended as by MEND, in accumulator order. -/
def State.endChains (s : State) (key task : Nat) : State :=
  (List.range 8).foldl (fun s n =>
    if (s.arrAt (unitOf key)).chains.contains (n, task) then
      s.updArr (unitOf key) fun a =>
        { a with chains := dropFirst (n, task) a.chains, ending := a.ending ++ [(n, task)]
                 queue := a.queue ++ [{ kind := .endChain n, key, task }] }
    else s) s

/-- R85: the region of a task returns to the pool. -/
def State.freeSpill (s : State) (u : Nat) (r : Option Nat) : State :=
  match r with
  | none => s
  | some i => s.updUnit u fun x => { x with spills := modifyNth (fun y => (y.1, false)) x.spills i }

/-- R212, R461: a context becomes FREE; the counters of R474 and the time of its last issue stay. -/
def Ctx.freed (c : Ctx) : Ctx := { Ctx.reset with laps := c.laps, lastIssue := c.lastIssue, seq := c.seq }

/-- R82, R408: the context becomes FREE; its task's job counts down. -/
def State.endTask (s : State) (key : Nat) : State :=
  let c := s.ctxAt key
  let s := s.freeSpill (unitOf key) c.spill
  let s := s.setCtx key c.freed
  match c.task with
  | none => s
  | some t => if t.jv then s.jobSub t.jcl t.job 1 else s

/-- R82, R245, R408: a DRAINING context ends its task with a release at module scope. -/
def execContextDrained (key : Nat) (s : State) : Out :=
  if !s.drained key then .next s
  else
    let c := s.ctxAt key
    let task := (c.task.map (·.uid)).getD 0
    let s := s.endChains key task
    if !s.drained key then .next s
    else
      let s := s.writeBackAll (s.domain (unitOf key))
      .next (if s.allClean (s.domain (unitOf key)) then s.endTask key else s)

/-! ## Binding and restoring (R77, R84, R407, R408) -/

/-- A FREE context with no task on its way. -/
def Ctx.vacant (c : Ctx) : Bool := c.st == .free && c.task.isNone

/-- The lowest-numbered FREE context of a unit. -/
def State.vacancy (s : State) (u : Nat) : Option Nat :=
  (keysOf u).find? fun k => (s.ctxAt k).vacant

/-- R407: a core that may take a task. -/
def State.candidate (s : State) (u : Nat) (t : Task) (dlimit : Nat) : Bool :=
  (t.aff == 0 || t.aff / 2 ^ coreOf u % 2 == 1) && (s.vacancy u).isSome
    && ((keysOf u).filter fun k => !(s.ctxAt k).vacant).length < dlimit
    && (s.unitAt u).parked.all (!·.ready)

/-- R407: the place for a task: the unit. -/
def State.placeFor (s : State) (c : Nat) (t : Task) : Option Nat :=
  if t.cc then (if (s.vacancy (cccNo c)).isSome then some (cccNo c) else none)
  else
    let k := s.clusterAt c
    (((List.range 8).map fun i => unitNo c ((k.lastCore + 1 + i) % 8)).find? fun u =>
      s.candidate u t k.dlimit.toNat)

/-- R407: the queue served next, with its head and its place. -/
def State.nextQueue (s : State) (c : Nat) : Option (Nat × QEntry × Nat) :=
  let k := s.clusterAt c
  let eligible (q : Nat) : Option (Nat × QEntry × Nat) :=
    match (s.queueAt c q).entries with
    | [] => none
    | e :: _ => (s.placeFor c e.task).map fun u => (q, e, u)
  let found := (List.range 32).filterMap eligible
  let top := found.foldl (fun m x => max m (k.qpri.get 0 x.1).toNat) 0
  let mine := found.filter fun x => (k.qpri.get 0 x.1).toNat == top
  let last := k.served.get 31 top
  leastBy (fun x => (x.1 + 31 - last) % 32) mine

/-- R85: takes a free spill region of a unit: its number and its address. -/
def State.takeSpill (s : State) (u : Nat) : State × Option Nat × Addr :=
  let l := (s.unitAt u).spills
  match indexOfFirst (fun (x : Addr × Bool) => !x.2) l with
  | none => (s, none, 0)
  | some i =>
    (s.updUnit u fun x => { x with spills := modifyNth (fun y => (y.1, true)) x.spills i }, some i, (l.getD i (0, false)).1)

/-- R54, R77, R400, R402: the bank of a task, gated registers and all. -/
def startBank (ccc : Bool) (h : Header) (t : Task) (spill : Addr) : Bank :=
  let b := Bank.init h.vl
  let put (b : Bank) (n : Nat) : Bank :=
    if ccc || !h.gated .s n then { b with s := b.s.setIfInBounds n (t.args.getD (n - 1) 0) } else b
  let b := [1, 2, 3, 4].foldl put b
  { b with a := b.a.setIfInBounds 15 spill }

/-- R77: a context takes a task. -/
def State.giveTask (s : State) (key : Nat) (t : Task) : State :=
  let u := unitOf key
  let (s, n, addr) := s.takeSpill u
  let c := s.ctxAt key
  let b := startBank (isCcc u) (s.hdrOf key) t addr
  let c := { c.freed with
    bank := b, rd := b, rq := c.rq, pc := bytesAddr t.entry, task := some t, spill := n }
  (s.setCtx key c).readyBound key

/-- R408: binding is an acquire at the record's scope. -/
def State.acquireAt (s : State) (key scope : Nat) : State × Bool :=
  let cur := s.cur
  let (s, ok) := { s with cur := key }.acquire scope
  ({ s with cur }, ok)

/-- R407: the arbiter binds the task of a queue's head to a unit. -/
def State.bind (s : State) (c q : Nat) (e : QEntry) (u : Nat) : State :=
  match s.vacancy u with
  | none => s
  | some key =>
    match s.acquireAt key e.task.ascope.toNat with
    | (s, false) => s
    | (s, true) =>
      let x := s.queueAt c q
      let s := s.setQueue c q { x with entries := x.entries.drop 1 }
      let pri := ((s.clusterAt c).qpri.get 0 q).toNat
      let s := s.updCluster c fun k => { k with
        served := k.served.put pri q, lastCore := if isCcc u then k.lastCore else coreOf u }
      s.giveTask key e.task

/-- R407: in each cycle the arbiter binds at most one task. -/
def execTaskBind (cluster : Nat) (s : State) : Out :=
  if !s.unitRuns (cccNo cluster) then .next s
  else match s.nextQueue cluster with
    | none => .next s
    | some (q, e, u) => .next (s.bind cluster q e u)

/-- R238: the access of a slot that found no mapping raises NOMAP when its bundle goes on. -/
def nomapAccess (slot : Nat) (va : Addr) : Access :=
  { slot, kind := .load, va, size := 1, st := .fault 0x34 0 va }

/-- R57, R84, R112, R473: a parked task goes on in a context, from its frame; one that was stopped is restored
STOPPED. A frame that may not be restored is a fatal fault of its launch. -/
def State.restore (s : State) (key : Nat) (p : Parked) : State :=
  let old := s.ctxAt key
  let l := (s.launchOn (clusterOf (unitOf key))).getD Launch.none
  match s.loadFrame l (unitOf key) p.frame p.ctx with
  | none => s.fatalAt l.uid key 15 0x90 (unitsAddr p.ctx.pc) 0 0
  | some c =>
    let c := { c with
      laps := old.laps, lastIssue := old.lastIssue, seq := max old.seq p.ctx.seq, st := .ready, opened := false
      counted := true, nextIssue := s.cycle + 1
      accs := if p.noMap then [nomapAccess p.slot p.page] else [] }
    let c := c.thaw (s.cycle + 1)
    let s := s.updUnit (unitOf key) fun x => { x with parked := dropFirst p x.parked }
    let s := s.setCtx key c
    if c.halt || c.stageh then s.stopCtx key 15 0x97 else s.stageStop key

/-- R84: the parked task that was parked earliest and whose page is present is restored. -/
def execParkedTaskRestore (unit : Nat) (s : State) : Out :=
  if !s.unitRuns unit then .next s
  else match (s.unitAt unit).parked.find? (·.ready), s.vacancy unit with
    | some p, some key =>
      match s.acquireAt key 5 with
      | (s, true) => .next (s.restore key p)
      | (s, false) => .next s
    | _, _ => .next s

/-- R427: the first entry of a restored latch bank lands in its cycle. -/
def execLatchReplayLand (key : Nat) (s : State) : Out :=
  match (s.ctxAt key).latches.find? fun l => l.after == 0 && l.pend.due ≤ s.cycle with
  | none => .next s
  | some l =>
    let s := s.updCtx key fun c => { c with latches := dropFirst l c.latches }
    .next ((s.landPend key l.pend).updCtx key fun c => c.sbDone l.pend.sb)

end Sys2Proof.Machine
end

