-- ==== Sys2Proof/Machine/Issue.lean ====
section
/-! DEFINITION. The issue of a bundle: fetch, the checks and stalls of issue, and the run of its slots in
commit order (R26, R50 to R60, R76, R98, R170, R173, R174, R200, R210, R211, R221, R222, R401, R472). -/

namespace Sys2Proof.Machine

/-! ## What a bundle reads and writes at its issue (R33, R169) -/

/-- R169: the predicate field of an instruction, whose group widens its vector operands. -/
def predField (i : Instr) : BitVec 3 :=
  match i with
  | .fexp f => f.q
  | .fexp2 f => f.q
  | .flog2 f => f.q
  | .frcp f => f.q
  | .frsq f => f.q
  | .fsqrt f => f.q
  | .ftanh f => f.q
  | .fsigm f => f.q
  | .fsin f => f.q
  | .fcos f => f.q
  | .fconv f => f.q
  | .fqnt f => f.q
  | .fdqt f => f.q
  | .frnd f => f.q
  | i => match i.vRow with
    | some (f, _) => f.q
    | none => 0

/-- R51, R52: a write to a register is pending; of a scalar, address or vector register, one of variable
latency. -/
def Ctx.pendingOn (c : Ctx) (file : RegFile) (n : Nat) : Bool :=
  let strict := file == .q || file == .d
  (c.pend.any fun p => (strict || !p.fixed) && p.vals.any fun v => v.dest == some (file, n))
    || (file == .s && n != 0 && c.atomics.any (·.dest == n))

/-- R169, R191: the group of an instruction: QFROMV's own, else that of its predicate. While a write to the
predicate is pending, so that the bundle stalls (R52), only the registers named are known. -/
def groupIn (c : Ctx) (i : Instr) : Nat :=
  match i with
  | .qfromv f => max 1 (f.imm.toNat % 8)
  | i =>
    let q := (predField i).toNat
    if q == 0 || c.pendingOn .q q then 1
    else max 1 ((c.bank.q.getD q { active := 0, width := 0, group := 1 }).group.toNat)

/-- R169: the registers read, group members and all. -/
def wideReads (c : Ctx) (i : Instr) : List RegRead :=
  i.reads.flatMap fun r =>
    if r.grouped then (List.range (groupIn c i)).map fun k => { r with num := r.num + k } else [r]

/-- R169: the registers written, group members and all. -/
def wideWrites (c : Ctx) (i : Instr) : List (RegFile × Nat) :=
  i.writes.flatMap fun r =>
    if r.grouped then (List.range (groupIn c i)).map fun k => (r.file, r.num + k) else [(r.file, r.num)]

/-! ## The checks of issue (R60) -/

/-- What keeps a bundle from issuing. -/
inductive Hold where
  /-- A trap at a slot, with subcode and cause. -/
  | trap (slot sub cause : Nat)
  /-- A stall, with its cause of R474; `bank` for R222's. -/
  | stall (cause : Nat) (bank : Bool)
  /-- A block, with its counter of R474 and what ends it. -/
  | block (cause : Nat) (why : Why)
  deriving DecidableEq, Repr

/-- R170, R403: the reasons for ILLENC that the registers of the acting context decide: destination groups
that share a register, once their predicates are known, and a reserved value of a system register, once its
source is full. -/
def State.liveIllegal (s : State) (xs : List (Nat × Instr)) : List Illegal :=
  let c := s.ctx
  let known := xs.all fun x => !c.pendingOn .q (predField x.2).toNat
  let shared (i : Nat) (a : Instr) (rest : List (Nat × Instr)) : Bool :=
    (wideWrites c a).any fun w => w.1 == .v && rest.any fun y =>
      Nat.blt i y.1 && (wideWrites c y.2).contains w
  (if known then xs.filterMap fun x => if shared x.1 x.2 xs then some (0x0A, x.1) else none else [])
    ++ xs.filterMap fun x =>
      match x.2 with
      | .wrsys f =>
        if (f.a.toNat ≥ 32 || c.bank.full .s f.a.toNat) && wrsysBad f.sysNum (s.opA f) then some (0x03, x.1) else none
      | _ => none

/-- R54: the slot names a gated register, or one past v31. -/
def namesGated (ccc : Bool) (h : Header) (c : Ctx) (i : Instr) : Bool :=
  let names := (wideReads c i).map (fun r => (r.file, r.num)) ++ wideWrites c i
  names.any fun x => (x.1 == .v && 31 < x.2) || (!ccc && h.gated x.1 x.2)

/-- R51, R52, R50: the stalls and blocks on registers. -/
def registerHold (c : Ctx) (xs : List (Nat × Instr)) : Option Hold :=
  let writes := xs.flatMap fun x => wideWrites c x.2
  let reads := xs.flatMap fun x => wideReads c x.2
  let strict (f : RegFile) : Bool := f == .q || f == .d
  if writes.any fun w => !strict w.1 && c.pendingOn w.1 w.2 then some (.stall 0 false)
  else if (writes.any fun w => strict w.1 && c.pendingOn w.1 w.2)
      || reads.any fun r => strict r.file && c.pendingOn r.file r.num then some (.stall 1 false)
  else match xs.flatMap fun x => emptyReads c.bank false (wideReads c x.2) with
    | [] => none
    | rs => some (.block 0 (.regs rs))

/-- R42: the L slot's fields. -/
def lFields (i : Instr) : Option LFields :=
  match i with
  | .ldb f => some f
  | .ldbs f => some f
  | .ldh f => some f
  | .ldhs f => some f
  | .ldw f => some f
  | .lda f => some f
  | .stb f => some f
  | .sth f => some f
  | .stw f => some f
  | .sta f => some f
  | .vld f => some f
  | .vldr f => some f
  | .vldb f => some f
  | .vst f => some f
  | .vstr f => some f
  | .vstb f => some f
  | .amoadd f => some f
  | .amomin f => some f
  | .amomax f => some f
  | .amoswp f => some f
  | .amocas f => some f
  | .amoand f => some f
  | .amoor f => some f
  | .amofadd f => some f
  | .flush f => some f
  | .inval f => some f
  | .pref f => some f
  | .tagq f => some f
  | .ldpeek f => some f
  | _ => none

/-- R98: a wait mask names a slot that is not zero, or the sets would pass 15. -/
def scoreboardHold (c : Ctx) (xs : List (Nat × Instr)) : Option Hold :=
  let ls := xs.filterMap fun x => lFields x.2
  let mask := ls.foldl (fun m f => m ||| f.wait) (0 : BitVec 8)
  if (List.range 8).any fun n => mask.getLsbD n && c.sb.getD n 0 != 0 then some (.block 1 (.scoreboard mask))
  else if (List.range 8).any fun n =>
      let k := (ls.filter fun f => sbOf f == some n).length
      k != 0 && 15 < c.sb.getD n 0 + k then some (.stall 9 false)
  else none

/-- R174, R201: a slot's pipe is occupied. -/
def pipeHold (x : UnitSt) (cycle : Nat) (xs : List (Nat × Instr)) : Option Hold :=
  if xs.any fun y => (2 ≤ y.1 && y.1 ≤ 4 && decide (cycle < x.vBusy.getD (y.1 - 2) 0))
      || (y.1 == 5 && decide (cycle < x.fBusy)) then some (.stall 3 false)
  else none

/-- R221: the entries that a store needs, by the bytes that it writes. -/
def storeParts (s : State) (i : Instr) : Nat :=
  let count (va n : Nat) : Nat := (pieces va n).length
  match i with
  | .stb _ => 1
  | .sth _ => 1
  | .stw _ => 1
  | .sta _ => 1
  | .dst _ => 1
  | .vst f => count (s.effAddr f (vecUnit f.ty)) (packedSize f.ty (RunVec.len (s.rdV f.reg.toNat)))
  | .vstr f => count (s.effAddr f 8) (8 + 8 * (s.rdV f.reg.toNat).length)
  | .vstb f => count (s.effAddr f 8) (8 + (bmvBody f.ty (RunVec.elems (s.rdV f.reg.toNat))).length)
  | _ => 0

/-- R221: the bundle's stores find too few free entries. -/
def storeHold (s : State) (c : Ctx) (xs : List (Nat × Instr)) : Option Hold :=
  let n := (xs.map fun x => storeParts s x.2).sum
  if n != 0 && !c.stored && 16 < (c.storeBuf ++ c.storeQ).length + n then some (.stall 5 false) else none

/-- R222: the scratchpad word that a scalar load reads, if it is one of the own scratchpad. -/
def padWord (s : State) (i : Instr) : Option Nat :=
  let own (f : LFields) (n : Nat) : Option Nat :=
    let va := s.effAddr f n
    if ownWindow s.unit va then some (va % 2 ^ 20 / 8) else none
  match i with
  | .ldb f => own f 1
  | .ldbs f => own f 1
  | .ldh f => own f 2
  | .ldhs f => own f 2
  | .ldw f => own f 4
  | .lda f => own f 8
  | _ => none

/-- R222: the two L slots load from one bank and from different words. -/
def bankHold (s : State) (c : Ctx) (xs : List (Nat × Instr)) : Option Hold :=
  let waited := match c.wait with
    | some w => w.why == .bank
    | none => false
  match xs.filterMap fun x => padWord s x.2 with
  | [a, b] => if a % 16 == b % 16 && a != b && !waited then some (.stall 4 true) else none
  | _ => none

/-- R256: an M operation that enters the queue. -/
def entersQueue (i : Instr) : Bool :=
  match i with
  | .mpush _ => true
  | .macc _ => true
  | .mshift _ => true
  | .mclr _ => true
  | .mend _ => true
  | .mdrain _ => true
  | _ => false

/-- R193: the accumulator that a VACC without `.peek` or a VACCW takes. -/
def rowAccess (i : Instr) : Option Nat :=
  match i with
  | .vacc f => if f.m.getLsbD 2 then none else some (accNo f.va)
  | .vaccw f => some (accNo f.vd)
  | _ => none

/-- R193, R256: the array keeps the bundle. -/
def arrayHold (s : State) (xs : List (Nat × Instr)) : Option Hold :=
  match (xs.filterMap fun x => rowAccess x.2).find? fun n => s.accBlocked n with
  | some n => some (.block 4 (.accumulator n))
  | none => if s.mFull && xs.any fun x => entersQueue x.2 then some (.stall 6 false) else none

/-- R129, R211: the slot uses a random word. -/
def usesRandom (i : Instr) : Bool :=
  match i with
  | .fcvt f => f.imm.extractLsb' 8 3 == 5
  | .tcvt f => f.ctl.extractLsb' 0 3 == 5
  | .pmovConvert f => portOff f.port % 0x40 / 8 == 5
  | .fexp f => f.rnd == 5
  | .fexp2 f => f.rnd == 5
  | .flog2 f => f.rnd == 5
  | .frcp f => f.rnd == 5
  | .frsq f => f.rnd == 5
  | .fsqrt f => f.rnd == 5
  | .ftanh f => f.rnd == 5
  | .fsigm f => f.rnd == 5
  | .fsin f => f.rnd == 5
  | .fcos f => f.rnd == 5
  | .fconv f => f.rnd == 5
  | .fqnt f => f.rnd == 5
  | .fdqt f => f.rnd == 5
  | .frnd f => f.rnd == 5
  | _ => false

/-- R60: the first of the checks of issue that applies to the slots not done; `static` is the encoding's
own reason. The state's acting context is the one that issues, with its operands as they are read now. -/
def State.issueHold (s : State) (static : Option Illegal) (xs : List (Nat × Instr)) : Option Hold :=
  let c := s.ctx
  let h := s.hdrOf s.cur
  match leastIllegal (static.toList ++ s.liveIllegal xs) with
  | some e => some (.trap e.2 e.1 0x01)
  | none =>
    match xs.find? fun x => namesGated (isCcc s.unit) h c x.2 with
    | some x => some (.trap x.1 0 0x12)
    | none =>
      match xs.find? fun x => !(emptyReads c.bank true (wideReads c x.2)).isEmpty with
      | some x => some (.trap x.1 0 0x11)
      | none => registerHold c xs <|> scoreboardHold c xs <|> pipeHold (s.unitAt s.unit) s.cycle xs
          <|> storeHold s c xs <|> bankHold s c xs <|> arrayHold s xs
          <|> if xs.any (fun x => usesRandom x.2) && c.rq.isEmpty then some (.stall 7 false) else none

/-! ## The precheck (R173, R200) -/

/-- R173, R199, R200: the entries that a slot reads: FQNT's active ones; the elements, for an F slot with
SR. -/
def precheckReads (c : Ctx) (x : Nat × Instr) : Nat :=
  let vs := ((wideReads c x.2).filter fun r => r.file == .v && !r.nameOnly).map fun r => c.bank.v.getD r.num []
  match x.2 with
  | .fqnt f =>
    let all := vs.flatten
    if f.q == 0 then all.length
    else (activeEntries ((c.bank.q.getD f.q.toNat (Pred.full 128)).active.toNat) all).length
  | i => if x.1 == 5 && usesRandom i then (vs.map RunVec.len).sum else (vs.map List.length).sum

/-- R173, R192: VACC without `.peek`, whose precheck verifies the row. -/
def verifies (i : Instr) : Bool :=
  match i with
  | .vacc f => !f.m.getLsbD 2
  | _ => false

/-- R173: K, longer for a VACC that verifies by what the tape says (log entry 2). -/
def State.precheckLength (s : State) (xs : List (Nat × Instr)) : Nat × State :=
  let k := (xs.filter fun x => 2 ≤ x.1 && x.1 ≤ 5).foldl
    (fun m x => max m ((precheckReads s.ctx x + 63) / 64)) 1
  if xs.any fun x => verifies x.2 then
    let (n, s) := s.choice
    (max k (n + 1), s)
  else (k, s)

/-! ## Running the slots (R26, R81, R218, R401) -/

/-- R401: the instruction is refused to this kind of context. -/
def profileBad (ccc : Bool) (i : Instr) : Bool :=
  match i with
  | .vld _ => ccc
  | .vldr _ => ccc
  | .vldb _ => ccc
  | .vst _ => ccc
  | .vstr _ => ccc
  | .vstb _ => ccc
  | .batonWait _ => ccc
  | .batonGive _ => ccc
  | .batonStat _ => ccc
  | .klaunchX _ => !ccc
  | .klaunchK _ => !ccc
  | .klaunchR _ => !ccc
  | .evwait _ => !ccc
  | _ => false

/-- The opcode of an L or E slot instruction. -/
def opcodeOf (i : Instr) : Nat :=
  match encode i with
  | some (.l w) => (w.extractLsb' 41 7).toNat
  | some (.e w) => (w.extractLsb' 41 7).toNat
  | _ => 0

/-- R474: the stall cause of a wait at a slot. -/
def Wait.stallCause (w : Wait) : Nat :=
  match w.why with
  | .engine _ _ => 6
  | .queueRoom _ _ => 6
  | .streamEntry => 6
  | .token _ => 6
  | .storeRoom _ => 5
  | _ => w.cause

/-- R474: the block counter of a wait. -/
def Wait.blockCause (w : Wait) : Nat :=
  match w.why with
  | .admission _ => 1
  | .storesApplied => 1
  | .storeRoom _ => 1
  | .dieRoom _ _ _ => 1
  | .node _ => 1
  | .tiles _ => 1
  | .released _ => 1
  | .flushed _ => 1
  | _ => min w.cause 4

/-- What a run of slots has come to. -/
inductive Ran where
  /-- Every slot has committed. -/
  | whole (s : State)
  /-- A slot waits, or the bundle goes no further. -/
  | short (s : State)
  | fault (f : Fault)
  | refused (r : Refusal)
  deriving Repr

/-- R218: L0 waits: L1 asks for its access too. -/
def State.besideL0 (s : State) (key slot : Nat) (rest : List (Nat × Instr)) : State :=
  match rest with
  | (n, i) :: _ => if slot == 7 && n == 8 && !(s.ctxAt key).done.getLsbD 8 then s.askBeside i else s
  | [] => s

/-- R26: runs the slots that are not done, in commit order, each by `run`. -/
def runSlots (run : Instr → State → Out) (key : Nat) : List (Nat × Instr) → State → Ran
  | [], s => .whole s
  | x :: rest, s =>
    if (s.ctxAt key).done.getLsbD x.1 then runSlots run key rest s
    else
      let s := { s with cur := key, slot := x.1, flow := .done }
      if profileBad (isCcc s.unit) x.2 then
        .short (s.trap 0x84 (BitVec.ofNat 32 (opcodeOf x.2 + x.1 * 256)))
      else match run x.2 s with
        | .next t =>
          match t.flow with
          | .done => runSlots run key rest (t.updCtx key fun c => { c with done := setBit c.done x.1 true, wait := none })
          | .wait => .short (t.besideL0 key x.1 rest)
          | .trapped => .short t
        | .fault f => .fault f
        | .refused r => .refused r

/-- R81, R218, R474: the context after a run of its slots: complete, blocked, or stalled. -/
def State.afterSlots (key : Nat) : Ran → Out
  | .whole s => .next (s.finishBundle key)
  | .short s =>
    .next (match s.flow, (s.ctxAt key).wait with
      | .wait, some w => if w.blocked then s.leaveIssuing key .blocked else s.stalled key w.stallCause 1
      | _, _ => s)
  | .fault f => .fault f
  | .refused r => .refused r

/-- The slots of the bundle that a context stands at. -/
def State.bundleSlots (s : State) (key : Nat) : List (Nat × Instr) :=
  let c := s.ctxAt key
  match s.codeBytes key c.pc with
  | none => []
  | some bs =>
    match decodeBundle (isCcc (unitOf key)) c.dly bs c.done with
    | .bundle b => b.slots
    | .truncated => []
    | .illegal _ _ => []
    | .idle _ _ => []

/-- Goes on with the bundle that a context has issued. -/
def State.goSlots (run : Instr → State → Out) (s : State) (key : Nat) : Out :=
  State.afterSlots key (runSlots run key (s.bundleSlots key) s)

/-- R173: at the end of the precheck the later slots run. -/
def State.precheckOver (run : Instr → State → Out) (s : State) (key : Nat) : Out :=
  let c := s.ctxAt key
  match c.preEnd with
  | none => .next s
  | some e =>
    if s.cycle < e || !c.opened || c.st != .issuing then .next s
    else (s.setCtx key { c with preEnd := none }).goSlots run key

/-! ## Fetch and issue -/

/-- R80, R474: an attempt to issue that ends in a trap counts in the sprint and in the counters. -/
def State.trapIssue (s : State) (key slot sub cause : Nat) (mask : BitVec 10) (n : Nat) : State :=
  let c := s.ctxAt key
  let s := s.setCtx key { c.countLaps mask n with sprint := c.sprint + n }
  s.trapCtx key slot sub cause 0 c.done

/-- A bundle does not issue in this cycle. -/
def State.held (s : State) (key : Nat) (mask : BitVec 10) : Hold → State
  | .trap slot sub cause => s.trapIssue key slot sub cause mask 1
  | .stall cause bank =>
    let w : Wait := { slot := 15, since := s.cycle, blocked := false, cause := 3, why := .bank }
    (s.updCtx key fun c => if bank then { c with wait := some w } else c).stalled key cause 1
  | .block cause why =>
    let w : Wait := { slot := 15, since := s.cycle, blocked := true, cause, why }
    (s.updCtx key fun c => { c with wait := some w }).leaveIssuing key .blocked

/-- R45: the result of a slot of the acting context has no fixed latency. -/
def State.variableSlot (s : State) (x : Nat × Instr) : Bool :=
  match x.2 with
  | .div _ => true
  | .divu _ => true
  | .rem _ => true
  | .remu _ => true
  | .rdsys _ => true
  | .laprd _ => true
  | .cpyByte _ => false
  | .cpyTile _ => false
  | .cpyg _ => false
  | .cpys _ => false
  | .cpstor _ => false
  | i => 2 ≤ x.1 && (padWord s i).isNone

/-- R49: the registers that the issue of a bundle of the acting context empties, with their slots. -/
def State.emptiedBy (s : State) (xs : List (Nat × Instr)) : List (Nat × RegFile × Nat) :=
  xs.flatMap fun x => if s.variableSlot x then
      (wideWrites s.ctx x.2).filterMap fun w =>
        if w.1 != .q && w.1 != .d && s.ctx.bank.full w.1 w.2 then some (x.1, w) else none
    else []

/-- R98: the L slots of a bundle that set a scoreboard slot, and the slot that each sets. -/
def setsOf (xs : List (Nat × Instr)) : List (Nat × Nat) :=
  xs.filterMap fun x => ((lFields x.2).bind sbOf).map fun n => (x.1, n)

/-- R26, R49, R80, R98, R211, R474: the bundle issues: its operands are read, the destinations `es` of its
variable-latency slots are emptied, its scoreboard slots are set, and its random word is popped. -/
def Ctx.opens (c : Ctx) (b : Bundle) (xs : List (Nat × Instr)) (es : List (Nat × RegFile × Nat)) (k cycle : Nat) : Ctx :=
  let c := c.countLaps (b.hdr.extractLsb' 0 10) 1
  let pops := xs.any fun x => usesRandom x.2
  { c with rd := c.bank, sbSet := setsOf xs
           sb := (setsOf xs).foldl (fun v x => v.setIfInBounds x.2 (v.getD x.2 0 + 1)) c.sb
           bank := es.foldl (fun b x => b.setFull x.2.1 x.2.2 false) c.bank, emptied := es, opened := true, issueAt := cycle, seq := c.seq + 1, sprint := c.sprint + 1
           lastIssue := cycle, fall := c.pc + BitVec.ofNat 64 b.len, ignoreB := false, wait := none
           srWord := if pops then c.rq.headD 0 else c.srWord, rq := if pops then c.rq.drop 1 else c.rq
           preK := k, preEnd := if 1 < k then some (cycle + k - 1) else none }

/-- R173, R200: a legal bundle issues; with a precheck of more than one cycle only S0 and S1 run now. -/
def State.issueBundle (run : Instr → State → Out) (s : State) (key : Nat) (b : Bundle) : Out :=
  let c := s.ctxAt key
  let xs := b.slots.filter fun x => !c.done.getLsbD x.1
  let s := { s.setCtx key { c with rd := c.bank } with cur := key }
  match s.issueHold none xs with
  | some h => .next (s.held key (b.hdr.extractLsb' 0 10) h)
  | none =>
    let (k, s) := s.precheckLength xs
    let es := s.emptiedBy xs
    let s := s.updCtx key fun c => c.opens b xs es k s.cycle
    if k ≤ 1 then s.goSlots run key
    else match runSlots run key (b.slots.filter fun x => x.1 < 2) s with
      | .whole s => .next s
      | r => State.afterSlots key r

/-- R58, R60, R76: what the context fetches, and what comes of it. -/
def State.fetchIssue (run : Instr → State → Out) (s : State) (key : Nat) : Out :=
  let c := s.ctxAt key
  match s.codeBytes key c.pc with
  | none => .next (s.fatal key 15 0x02)
  | some bs =>
    match decodeBundle (isCcc (unitOf key)) c.dly bs c.done with
    | .truncated => .next (s.fatal key 15 0x03)
    | .illegal sub slot =>
      let h := BitVec.ofNat 64 (leNat (bs.take 8))
      if hdrIdle h then .next (s.trapIssue key slot sub 0x01 0 ((h.extractLsb' 18 20).toNat + 1))
      else
        let xs := (decodedSlots ((slotWords h 10 0 (bs.drop 8)).getD [])).filter fun x => !c.done.getLsbD x.1
        let now := { s.setCtx key { c with rd := c.bank } with cur := key }
        let e := (leastIllegal ((sub, slot) :: now.liveIllegal xs)).getD (sub, slot)
        .next (s.trapIssue key e.2 e.1 0x01 (h.extractLsb' 0 10) 1)
    | .idle _ n =>
      match execIdle n { s.updCtx key fun c => { c with ignoreB := false } with cur := key } with
      | .next t => .next (t.idleCycle key)
      | r => r
    | .bundle b => s.issueBundle run key b

/-- R472: a bundle with B stops the context before its checks. -/
def State.breaks (s : State) (key : Nat) : Bool :=
  let c := s.ctxAt key
  !c.ignoreB && c.done == 0 && (match s.codeBytes key c.pc with
    | some bs => !bs.isEmpty && 8 ≤ bs.length && hdrB (s.headerAt key c.pc)
    | none => false)

/-- R29: the context stands before an idle bundle, of which it issues nothing. -/
def State.atIdle (s : State) (key : Nat) : Bool :=
  match s.codeBytes key (s.ctxAt key).pc with
  | some bs => 8 ≤ bs.length && hdrIdle (s.headerAt key (s.ctxAt key).pc)
  | none => false

/-- R102, R113: an acquire that is due comes before the next bundle. -/
def State.acquired (s : State) (key : Nat) : State := if (s.ctxAt key).acquireDue then s.acquireModule key else s

/-- R55, R60, R102, R302, R472: the context stands before a bundle. A drowsy bank is woken by a bundle that
issues. -/
def State.beforeBundle (run : Instr → State → Out) (s : State) (key : Nat) : Out :=
  let s := s.acquired key
  let c := s.ctxAt key
  if c.acquireDue then .next (s.stalled key 4 1)
  else if s.breaks key then .next ((s.updCtx key fun c => { c with halt := true }).stopCtx key 15 0x96)
  else if !c.faults.isEmpty && !c.trap.inh && c.done == 0 then .next (s.deliverFault key)
  else if s.isDrowsy key && !s.atIdle key then
    .next ((s.updCtx key fun c => { c with drowsy := false, lastIssue := s.cycle, nextIssue := s.cycle + 2 }).stalled
      key 8 2)
  else s.fetchIssue run key

/-- R26 to R30, R60, R79, R467: what the ISSUING context of a unit does in this cycle. -/
def State.issueUnit (run : Instr → State → Out) (s : State) (u : Nat) : Out :=
  match (s.unitAt u).cur with
  | none => .next s
  | some k =>
    let key := 8 * u + k
    let c := s.ctxAt key
    let fatal := match c.wait with
      | some w => w.why == .fatal
      | none => false
    if fatal || c.st != .issuing || c.stopAt.isSome || !s.unitRuns u then .next s
    else if s.cycle < (s.unitAt u).mayIssue then .next (s.stalled key 10 1)
    else if c.stopDue && (c.idle.isSome || !c.opened) then .next (s.stopCtx key 15 0x97)
    else if c.idle.isSome then .next (s.idleCycle key)
    else if s.cycle < c.nextIssue then .next s
    else if c.opened then
      match c.preEnd with
      | some _ => .next (s.stalled key 2 1)
      | none => s.goSlots run key
    else s.beforeBundle run key

end Sys2Proof.Machine
end

