-- ==== Sys2Proof/Machine/Tokens.lean ====
section
/-! DEFINITION. Host memory as the module masters it, token rings and SYSCALL (R433, R447 to R451). -/

namespace Sys2Proof.Machine

/-! ## Requests to host memory (R433) -/

/-- R433: a write that firmware makes; a refused one is discarded and counted. -/
def State.hostPut (s : State) (bus : Nat) (bs : List Byte) : State :=
  if hostAllowed s.hostWins bus bs.length true then { s with mem := memWrite s.mem (busKey bus) bs } else s.violate

/-- R433: bytes that firmware reads; none when the request is refused. -/
def State.hostGet (s : State) (bus n : Nat) : Option (List Byte) :=
  if hostAllowed s.hostWins bus n false then some (memRead s.mem (busKey bus) n) else none

/-- R433: a request to host memory lies inside a window. -/
def State.hostOk (s : State) (bus n : Nat) (write : Bool) : Bool :=
  0 < n && hostAllowed s.hostWins bus n write

/-! ## Token rings (R447, R450) -/

/-- A token ring of a session. -/
def State.tokenRing (s : State) (session n : Nat) : TokenRing := (s.sessions.get {} session).rings.getD n {}

/-- Changes a session. -/
def State.updSession (s : State) (n : Nat) (f : Session → Session) : State :=
  { s with sessions := s.sessions.put n (f (s.sessions.get {} n)) }

/-- Replaces a token ring. -/
def State.setTokenRing (s : State) (session n : Nat) (r : TokenRing) : State :=
  s.updSession session fun x => { x with rings := x.rings.setIfInBounds n r }

/-- R447: Free(ring). -/
def TokenRing.free (r : TokenRing) : Nat := 2 ^ r.log2 - (r.producer - r.tcons)

/-- R447: an entry's bytes. -/
def TokenRing.entry (r : TokenRing) (value stream : Word) : List Byte :=
  leBytes 8 (value.toNat + stream.toNat % 65536 * 2 ^ 32 + (1 - r.producer / 2 ^ r.log2 % 2) * 2 ^ 63)

/-- R450: a Send. -/
def State.tokenSend (s : State) (session n : Nat) : State :=
  let r := s.tokenRing session n
  (s.setTokenRing session n { r with pending := 0 }).interrupt r.vector

/-- R450: Flush. -/
def State.tokenFlush (s : State) (session n : Nat) : State :=
  if 0 < (s.tokenRing session n).pending then s.tokenSend session n else s

/-- R449, R450, R451: an entry is allocated and written. -/
def State.tokenPut (s : State) (session n : Nat) (value stream : Word) : State :=
  let r := s.tokenRing session n
  let s := s.hostPut (r.bus + 8 * (r.producer % 2 ^ r.log2)) (r.entry value stream)
  let p := r.pending + 1
  let s := s.setTokenRing session n { r with
    producer := r.producer + 1, pending := p, first := if p == 1 then s.mtc.toNat else r.first }
  if r.count ≤ p then s.tokenSend session n else s

/-- R450: a ring's time threshold has passed. -/
def State.tokenDue (s : State) (session n : Nat) : Bool :=
  let r := s.tokenRing session n
  r.time != 0 && 0 < r.pending && r.first + r.time ≤ s.mtc.toNat

/-- R450. -/
def execTokenRingTimeout (session ring : Nat) (s : State) : Out :=
  .next (if s.tokenDue session ring then s.tokenSend session ring else s)

/-- R447: a TCONS write that does not lie between the previous value and the producer index is ignored;
the register shows the low 32 bits. -/
def execTconsWrite (session ring : Nat) (v : Word) (s : State) : Out :=
  let r := s.tokenRing session ring
  let d := (v - BitVec.ofNat 32 r.tcons).toNat
  .next (if session < 8 && ring < 16 && d ≤ r.producer - r.tcons then
      s.setTokenRing session ring { r with tcons := r.tcons + d }
    else s)

/-! ## SYSCALL (R448, R449) -/

/-- The session of the acting context. -/
def State.mySession (s : State) : Nat := s.sessionOf s.unit

/-- R449: the ring that a SYSCALL names is not enabled. -/
def State.sysbad (s : State) (ring : BitVec 4) : Bool := !(s.tokenRing s.mySession ring.toNat).en

/-- R449: EMIT. -/
def State.emit (s : State) (f : EmitF) : State :=
  let n := f.ring.toNat
  if s.sysbad f.ring then s.trap 0x93 1
  else match s.release 5 with
    | (s, false) => s.stallFor 4 (.released true)
    | (s, true) =>
      let r := s.tokenRing s.mySession n
      if r.free == 0 then
        if f.nb == 1 then s.scalarLater f.sd 1 else s.stallFor 4 (.token n)
      else if !hostAllowed s.hostWins (r.bus + 8 * (r.producer % 2 ^ r.log2)) 8 true then
        s.violate.fatalHere 0x95
      else (s.tokenPut s.mySession n (s.spec f.value 0) (s.spec f.stream 0)).scalarLater f.sd 0
/-- R449. -/
def execSyscallEmit (f : EmitF) (s : State) : Out := .next (s.emit f)

/-- R449, R450: FLUSH. -/
def execSyscallFlush (f : FlushF) (s : State) : Out :=
  .next (if s.sysbad f.ring then s.trap 0x93 1 else (s.tokenFlush s.mySession f.ring.toNat).ends .done)

/-- R449: FREE. -/
def execSyscallFree (f : FreeF) (s : State) : Out :=
  .next (if s.sysbad f.ring then s.trap 0x93 1
    else s.scalarLater f.sd (BitVec.ofNat 32 (s.tokenRing s.mySession f.ring.toNat).free))

end Sys2Proof.Machine
end

