-- ==== Sys2Proof/Machine/Paging.lean ====
section
/-! DEFINITION. Page tables and the memory-management processors: mapping and unmapping, page faults and
the page service (R238, R442, R452 to R454). -/

namespace Sys2Proof.Machine

/-! ## Clearing (R442, R452, R455) -/

/-- Zeroes `n` bytes from a flat key on. -/
def State.zero (s : State) (k n : Nat) : State := { s with mem := memClear s.mem k (k + n) }

/-- R442, R452: a zeroed device frame: its bytes, tags and errors are gone. -/
def State.freshFrame (s : State) (session va size : Nat) : State :=
  let k := devKey session va
  let out (x : Nat) : Bool := !(k ≤ 128 * x && 128 * x < k + size)
  let s := s.zero k size
  { s with tags := s.tags.filter fun t => out t.1, ecc := s.ecc.filter out }

/-! ## Capacity (R442, R454) -/

/-- Two ranges share a byte. -/
def rangesMeet (a n b m : Nat) : Bool := decide (a < b + m) && decide (b < a + n)

/-- R454: the first aligned place of a range for `size` bytes (log entry 60). -/
def HbmRange.gap (r : HbmRange) (size align : Nat) : Option Nat :=
  leastBy id ((0 :: r.blocks.map fun b => (b.1 + b.2 + align - 1) / align * align).filter fun o =>
    o + size ≤ 2 ^ 30 && !r.blocks.any fun b => rangesMeet o size b.1 b.2)

/-- R454: the first range of a die that may hold `size` more bytes of a world, and the place in it. -/
def hbmPlace (hbm : SMap HbmRange) (die size align : Nat) (secure : Bool) : Option (Nat × Nat) :=
  ((List.range 192).map (192 * die + ·)).findSome? fun n =>
    let r := hbm.get {} n
    if r.blocks.isEmpty || r.secure == secure then (r.gap size align).map fun o => (n, o) else none

/-- R85, R454: reserves capacity for a device page or a launch: range and offset. -/
def hbmTake (hbm : SMap HbmRange) (die size align : Nat) (secure : Bool) : Option ((Nat × Nat) × SMap HbmRange) :=
  (hbmPlace hbm die size align secure).map fun x =>
    (x, hbm.put x.1 { secure, blocks := (x.2, size) :: (hbm.get {} x.1).blocks })

/-- R454: the capacity of a block returns; an empty range is unowned. -/
def hbmGive (hbm : SMap HbmRange) (x : Nat × Nat) : SMap HbmRange :=
  let bs := (hbm.get {} x.1).blocks.filter fun b => b.1 != x.2
  if bs.isEmpty then hbm.del x.1 else hbm.put x.1 { hbm.get {} x.1 with blocks := bs }

/-- R9: the physical offset within its die of a place in a range. -/
def hbmOffset (x : Nat × Nat) : Nat := x.1 % 192 * 2 ^ 30 + x.2

/-! ## MAP and UNMAP (R442) -/

/-- R442: the page size of an attribute word. -/
def attrSize (attr : Word) : Nat :=
  match (attr.extractLsb' 6 2).toNat with
  | 0 => 2 ^ 16
  | 1 => 2 ^ 21
  | _ => 2 ^ 30

/-- R442: the policy of an attribute word. -/
def attrPolicy (attr : Word) : Policy :=
  match (attr.extractLsb' 0 2).toNat with
  | 0 => .wb
  | 1 => .stream
  | _ => .uc

/-- The region of an address that MAP may place pages in: 0 for device memory, 8 for host memory. -/
def mapRegion (va : Nat) : Option Nat :=
  if va / 2 ^ 52 ≤ 3 then some 0 else if va / 2 ^ 52 == 8 then some 8 else none

/-- R442: the status with which MAP refuses a request, but for NORES: 1 BADCMD, 6 RANGE, 7 ATTR. -/
def State.mapRefused (s : State) (session : Nat) (p : MapP) : Option Nat :=
  let size := attrSize p.attr
  let va := p.va.toNat
  let n := p.bytes.toNat
  let host := p.attr.getLsbD 4
  let x := s.sessions.get {} session
  let ps := s.pages.get [] session
  let ap := p.aperture.toNat
  if p.attr.extractLsb' 8 24 != 0 || p.attr.extractLsb' 6 2 == 3 || p.attr.extractLsb' 0 2 == 3
      || n == 0 || va % size != 0 || n % size != 0 then some 1
  else if (mapRegion va).isNone || mapRegion va != mapRegion (va + n - 1)
      || ps.any (fun q => rangesMeet va n q.va q.size)
      || (p.backing != 0 && !hostAllowed s.hostWins p.backing.toNat n (!p.attr.getLsbD 3))
      || (host && (2 ^ 36 < ap + n || ps.any fun q => match q.aperture with
          | some a => rangesMeet ap n a q.size
          | none => false)) then some 6
  else if (p.attr.getLsbD 2 && (host || mapRegion va == some 8)) || (host && mapRegion va == some 8)
      || (host && x.secure) then some 7
  else none

/-- R442: the pages of a MAP from the `i`-th on, with the reservations that they make; none when the
capacity is short. -/
def mapPages (secure : Bool) (p : MapP) : (fuel i : Nat) → SMap HbmRange → Option (List Page × SMap HbmRange)
  | 0, _, hbm => some ([], hbm)
  | fuel + 1, i, hbm =>
    let size := attrSize p.attr
    let va := p.va.toNat + i * size
    let host := mapRegion va == some 8
    let page (x : Nat × Nat) : Page :=
      { va, size, policy := attrPolicy p.attr, isLazy := p.attr.getLsbD 2, secure
        writable := !p.attr.getLsbD 3, host, range := x.1, phys := hbmOffset x
        present := if host then p.backing != 0 else !p.attr.getLsbD 5
        bus := if host then p.backing.toNat + i * size else 0
        aperture := if p.attr.getLsbD 4 then some (p.aperture.toNat + i * size) else none }
    if host then (mapPages secure p fuel (i + 1) hbm).map fun (ps, h) => (page (0, 0) :: ps, h)
    else match hbmTake hbm (va / 2 ^ 52) size size secure with
      | none => none
      | some (x, hbm) => (mapPages secure p fuel (i + 1) hbm).map fun (ps, h) => (page x :: ps, h)

/-- R442: MAP; its status. -/
def State.mapRange (s : State) (session : Nat) (p : MapP) : State × Nat :=
  match s.mapRefused session p with
  | some st => (s, st)
  | none =>
    let size := attrSize p.attr
    match mapPages (s.sessions.get {} session).secure p (p.bytes.toNat / size) 0 s.hbm with
    | none => (s, 3)
    | some (ps, hbm) =>
      let s := { s with hbm, pages := s.pages.put session (s.pages.get [] session ++ ps) }
      let s := s.tlbForget session (p.va.toNat / 2 ^ 16 * 2 ^ 16) (p.va.toNat + p.bytes.toNat)
      ((if mapRegion p.va.toNat == some 0 then s.freshFrame session p.va.toNat p.bytes.toNat else s), 0)

/-- R442: pages leave the tables, with their frames. -/
def State.dropPages (s : State) (session : Nat) (gone : List Page) : State :=
  let s := gone.foldl (fun s q =>
    let s := s.tlbForget session q.va (q.va + q.size)
    if q.host then s
    else { s.freshFrame session q.va q.size with hbm := hbmGive s.hbm (q.range, q.phys % 2 ^ 30) }) s
  let ps := (s.pages.get [] session).filter fun q => !gone.contains q
  { s with pages := if ps.isEmpty then s.pages.del session else s.pages.put session ps
           faults := s.faults.filter fun f => f.session != session || !gone.any fun q =>
             q.va ≤ f.va && f.va < q.va + q.size }

/-- R442: UNMAP of a range that whole pages fill; its status. -/
def State.unmapRange (s : State) (session : Nat) (p : UnmapP) : State × Nat :=
  let va := p.va.toNat
  let n := p.bytes.toNat
  let gone := (s.pages.get [] session).filter fun q => rangesMeet va n q.va q.size
  if n == 0 then (s, 1)
  else if (gone.any fun q => q.va < va || va + n < q.va + q.size) || (gone.map Page.size).sum != n then (s, 6)
  else (s.dropPages session gone, 0)

/-! ## Page faults (R238, R452, R453) -/

/-- R238: an address waits for the page that a fault names. -/
def State.awaits (s : State) (f : PageFault) (va : Addr) : Bool :=
  match s.pageOf f.session va with
  | some q => q.va == f.va
  | none => va.toNat == f.va

/-- R84: the parked tasks of a session that wait for a fault's page may be restored. -/
def State.wakeParked (s : State) (f : PageFault) (noMap : Bool) : State :=
  { s with units := s.units.map fun (u, x) =>
      if s.sessionOf u != f.session then (u, x)
      else (u, { x with parked := x.parked.map fun p =>
        if !p.ready && s.awaits f p.page then { p with ready := true, noMap } else p }) }

/-- R83, R238: an access that no mapping was found for raises NOMAP; that of a task that parks, once the task is
restored. -/
def Access.unmapped (a : Access) : Access :=
  match a.st with
  | .page va .park => { a with st := .page va .parkNoMap }
  | .page va .undecided => { a with st := .fault 0x34 0 va }
  | .page va .inPlace => { a with st := .fault 0x34 0 va }
  | _ => a

/-- R238: what waits in place for a fault's page raises NOMAP. -/
def State.nomapCtx (s : State) (f : PageFault) (c : Ctx) : Ctx :=
  { c with accs := c.accs.map fun a => match a.st with
    | .page va _ => if s.awaits f va then a.unmapped else a
    | _ => a }

/-- R238, R453: the accesses that wait for a fault's page raise NOMAP. -/
def State.nomap (s : State) (f : PageFault) : State :=
  let s := s.wakeParked f true
  let size := match s.pageOf f.session (ad f.va) with
    | some q => q.size
    | none => 1
  let s := { s with
    ctxs := s.ctxs.map fun (k, c) => if s.sessionOf (unitOf k) == f.session then (k, s.nomapCtx f c) else (k, c)
    refused := s.refused ++ f.engines, faults := s.faults.filter (· != f) }
  s.inboxNomap f.session f.va size

/-- R238: a page is present, its TLB entry is invalid, and a fault that named it is over. -/
def State.pageHere (s : State) (f : PageFault) (bus : Option Nat) : State :=
  let s := s.updPage f.session (ad f.va) fun q => { q with present := true, bus := bus.getD q.bus }
  let s := (s.pageOf f.session (ad f.va)).elim s fun q => s.tlbForget f.session q.va (q.va + q.size)
  let s := s.wakeParked f false
  { s with faults := s.faults.filter (· != f) }

/-- R453: the request for a host page enters the session's page-service ring. -/
def State.askHost (s : State) (f : PageFault) : State :=
  let x := s.sessions.get {} f.session
  if 2 ^ x.psLog2 ≤ x.psEntries.length then s
  else
    let p := x.psProducer
    let bs := leBytes 8 (f.va % 2 ^ 56 + (1 - p / 2 ^ x.psLog2 % 2) * 2 ^ 63) ++ leBytes 8 x.psNumber
    let s := s.hostPut (x.psBus + 16 * (p % 2 ^ x.psLog2)) bs
    let s := s.updSession f.session fun x => { x with
      psProducer := p + 1, psNumber := x.psNumber + 1, psEntries := x.psEntries ++ [(x.psNumber, false)] }
    let s := { s with faults := s.faults.map fun g => if g == f then { g with number := some x.psNumber } else g }
    s.interrupt x.psVector

/-- R452: the fault that a die's processor serves next: the first that has not gone to the host. -/
def State.nextFault (s : State) (die : Nat) : Option PageFault :=
  s.faults.find? fun f => f.number.isNone && ownerDie (ad f.va) == die

/-- R238, R452, R453: a die's processor serves its next fault. -/
def State.serveFault (s : State) (f : PageFault) : State :=
  match s.pageOf f.session (ad f.va) with
  | none => s.nomap f
  | some q =>
    if q.present then s.pageHere f none
    else if q.host then s.askHost f
    else (s.freshFrame f.session q.va q.size).pageHere f none

/-- R238, R452, R453: the fault on an address is served, if its die's processor has come to it. -/
def execPageResolve (session : Nat) (va : Addr) (s : State) : Out :=
  .next (match s.nextFault (ownerDie va) with
    | some f => if f.session == session && f.va == va.toNat then s.serveFault f else s
    | none => s)

/-- R453: answered entries at the head of the page-service ring are passed. -/
def passAnswered : List (Nat × Bool) → List (Nat × Bool)
  | [] => []
  | (n, d) :: rest => if d then passAnswered rest else (n, d) :: rest

/-- R453: HOSTPAGE; its status. -/
def State.hostAnswer (s : State) (session : Nat) (p : HostPageP) : State × Nat :=
  match s.faults.find? fun f => f.session == session && f.number.isSome && s.awaits f p.va with
  | none => (s, 6)
  | some f =>
    let size := match s.pageOf session p.va with
      | some q => q.size
      | none => 1
    let write := (s.pageOf session p.va).any (·.writable)
    if p.bus != 0 && !hostAllowed s.hostWins p.bus.toNat size write then (s, 6)
    else
      let s := s.updSession session fun x => { x with
        psEntries := passAnswered (x.psEntries.map fun e => if f.number == some e.1 then (e.1, true) else e) }
      (if p.bus == 0 then s.nomap f else s.pageHere f (some p.bus.toNat), 0)

end Sys2Proof.Machine
end

