-- ==== Sys2Proof/Machine/Slots.lean ====
section
/-! DEFINITION. What a slot of a bundle executes: the meaning of each operation that a slot can hold,
and the end of a precheck, after which the later slots run (R20 to R24, R173). -/

namespace Sys2Proof.Machine

/-- The operation in a slot acts for the context and the slot that the state names. -/
def runSlot (i : Instr) (s : State) : Out :=
  match i with
  | .add f => execAdd f s
  | .sub f => execSub f s
  | .mul f => execMul f s
  | .mulh f => execMulh f s
  | .mulhu f => execMulhu f s
  | .div f => execDiv f s
  | .divu f => execDivu f s
  | .rem f => execRem f s
  | .remu f => execRemu f s
  | .and f => execAnd f s
  | .or f => execOr f s
  | .xor f => execXor f s
  | .andn f => execAndn f s
  | .shl f => execShl f s
  | .shr f => execShr f s
  | .sra f => execSra f s
  | .rot f => execRot f s
  | .min f => execMin f s
  | .max f => execMax f s
  | .minu f => execMinu f s
  | .maxu f => execMaxu f s
  | .clz f => execClz f s
  | .popc f => execPopc f s
  | .cmpeq f => execCmpeq f s
  | .cmpne f => execCmpne f s
  | .cmplt f => execCmplt f s
  | .cmpltu f => execCmpltu f s
  | .cmple f => execCmple f s
  | .cmpleu f => execCmpleu f s
  | .sel f => execSel f s
  | .mov f => execMov f s
  | .padd f => execPadd f s
  | .psub f => execPsub f s
  | .padds f => execPadds f s
  | .psubs f => execPsubs f s
  | .paddsn f => execPaddsn f s
  | .psubsn f => execPsubsn f s
  | .pmul f => execPmul f s
  | .pmulh f => execPmulh f s
  | .pmin f => execPmin f s
  | .pmax f => execPmax f s
  | .pabsd f => execPabsd f s
  | .pdot f => execPdot f s
  | .pavg f => execPavg f s
  | .ppack f => execPpack f s
  | .pwiden f => execPwiden f s
  | .pshuf f => execPshuf f s
  | .limm f => execLimm f s
  | .limmh f => execLimmh f s
  | .aadd f => execAadd f s
  | .asub f => execAsub f s
  | .amov f => execAmov f s
  | .ajoin f => execAjoin f s
  | .asplit f => execAsplit f s
  | .aimm f => execAimm f s
  | .fadd f => execFadd f s
  | .fsub f => execFsub f s
  | .fmul f => execFmul f s
  | .fmin f => execFmin f s
  | .fmax f => execFmax f s
  | .fcmplt f => execFcmplt f s
  | .fcmpeq f => execFcmpeq f s
  | .fcvt f => execFcvt f s
  | .br f => execBr f s
  | .brz f => execBrz f s
  | .brnz f => execBrnz f s
  | .call f => execCall f s
  | .ret f => execRet f s
  | .loop f => execLoop f s
  | .trap f => execTrap f s
  | .tret f => execTret f s
  | .rdsys f => execRdsys f s
  | .wrsys f => execWrsys f s
  | .taddrWrite f => execTaddrWrite f s
  | .rtgtWrite f => execRtgtWrite f s
  | .rdtime f => execRdtime f s
  | .fetest f => execFetest f s
  | .setempty f => execSetempty f s
  | .laprd f => execLaprd f s
  | .vadd f => execVadd f s
  | .vsub f => execVsub f s
  | .vmul f => execVmul f s
  | .vfma f => execVfma f s
  | .vmin f => execVmin f s
  | .vmax f => execVmax f s
  | .vabs f => execVabs f s
  | .vneg f => execVneg f s
  | .vand f => execVand f s
  | .vor f => execVor f s
  | .vxor f => execVxor f s
  | .vshl f => execVshl f s
  | .vshr f => execVshr f s
  | .vsra f => execVsra f s
  | .vcmpeq f => execVcmpeq f s
  | .vcmplt f => execVcmplt f s
  | .vcmple f => execVcmple f s
  | .vsel f => execVsel f s
  | .vrsum f => execVrsum f s
  | .vrmax f => execVrmax f s
  | .vrmin f => execVrmin f s
  | .vrcnt f => execVrcnt f s
  | .vcoal f => execVcoal f s
  | .vruns f => execVruns f s
  | .vsplat f => execVsplat f s
  | .viota f => execViota f s
  | .vslide f => execVslide f s
  | .vscan f => execVscan f s
  | .vmov f => execVmov f s
  | .vext f => execVext f s
  | .vins f => execVins f s
  | .vlen f => execVlen f s
  | .vtrim f => execVtrim f s
  | .vacc f => execVacc f s
  | .vaccw f => execVaccw f s
  | .qset f => execQset f s
  | .qfromv f => execQfromv f s
  | .qmin f => execQmin f s
  | .qget f => execQget f s
  | .fexp f => execFexp f s
  | .fexp2 f => execFexp2 f s
  | .flog2 f => execFlog2 f s
  | .frcp f => execFrcp f s
  | .frsq f => execFrsq f s
  | .fsqrt f => execFsqrt f s
  | .ftanh f => execFtanh f s
  | .fsigm f => execFsigm f s
  | .fsin f => execFsin f s
  | .fcos f => execFcos f s
  | .fconv f => execFconv f s
  | .fqnt f => execFqnt f s
  | .fdqt f => execFdqt f s
  | .fcbe f => execFcbe f s
  | .fcbd f => execFcbd f s
  | .frnd f => execFrnd f s
  | .mpush f => execMpush f s
  | .macc f => execMacc f s
  | .mshift f => execMshift f s
  | .mdrain f => execMdrain f s
  | .mclr f => execMclr f s
  | .mchain f => execMchain f s
  | .mend f => execMend f s
  | .ldb f => execLdb f s
  | .ldbs f => execLdbs f s
  | .ldh f => execLdh f s
  | .ldhs f => execLdhs f s
  | .ldw f => execLdw f s
  | .lda f => execLda f s
  | .stb f => execStb f s
  | .sth f => execSth f s
  | .stw f => execStw f s
  | .sta f => execSta f s
  | .vld f => execVld f s
  | .vldr f => execVldr f s
  | .vldb f => execVldb f s
  | .vst f => execVst f s
  | .vstr f => execVstr f s
  | .vstb f => execVstb f s
  | .amoadd f => execAmoadd f s
  | .amomin f => execAmomin f s
  | .amomax f => execAmomax f s
  | .amoswp f => execAmoswp f s
  | .amocas f => execAmocas f s
  | .amoand f => execAmoand f s
  | .amoor f => execAmoor f s
  | .amofadd f => execAmofadd f s
  | .flush f => execFlush f s
  | .inval f => execInval f s
  | .pref f => execPref f s
  | .tagq f => execTagq f s
  | .ldpeek f => execLdpeek f s
  | .dld f => execDld f s
  | .dst f => execDst f s
  | .dset f => execDset f s
  | .dsetA f => execDsetA f s
  | .dget f => execDget f s
  | .fence f => execFence f s
  | .waittl f => execWaittl f s
  | .tlread f => execTlread f s
  | .tmul f => execTmul f s
  | .tmac f => execTmac f s
  | .tmap f => execTmap f s
  | .tzip f => execTzip f s
  | .tred f => execTred f s
  | .txpose f => execTxpose f s
  | .tcvt f => execTcvt f s
  | .tcopy f => execTcopy f s
  | .forceHandle f => execForceHandle f s
  | .forceRegion f => execForceRegion f s
  | .tstore f => execTstore f s
  | .tdrop f => execTdrop f s
  | .tstatNode f => execTstatNode f s
  | .tstatTable f => execTstatTable f s
  | .tstatDefer f => execTstatDefer f s
  | .cpyByte f => execCpyByte f s
  | .cpyTile f => execCpyTile f s
  | .cpyg f => execCpyg f s
  | .cpys f => execCpys f s
  | .cpstor f => execCpstor f s
  | .sleepto f => execSleepto f s
  | .pmovTranspose f => execPmovTranspose f s
  | .pmovConvert f => execPmovConvert f s
  | .pmovEncode f => execPmovEncode f s
  | .pmovDecode f => execPmovDecode f s
  | .pmovConfig f => execPmovConfig f s
  | .prd f => execPrd f s
  | .walk f => execWalk f s
  | .batonWait f => execBatonWait f s
  | .batonGive f => execBatonGive f s
  | .batonStat f => execBatonStat f s
  | .nsend f => execNsend f s
  | .nmcast f => execNmcast f s
  | .relay f => execRelay f s
  | .rlstat f => execRlstat f s
  | .rlstatWhy f => execRlstatWhy f s
  | .harrive f => execHarrive f s
  | .hwait f => execHwait f s
  | .harw f => execHarw f s
  | .tqpush f => execTqpush f s
  | .tqcancel f => execTqcancel f s
  | .jobwaitWait f => execJobwaitWait f s
  | .jobwaitRd f => execJobwaitRd f s
  | .evpost f => execEvpost f s
  | .evwait f => execEvwait f s
  | .klaunchX f => execKlaunchX f s
  | .klaunchK f => execKlaunchK f s
  | .klaunchR f => execKlaunchR f s
  | .syscallEmit f => execSyscallEmit f s
  | .syscallFlush f => execSyscallFlush f s
  | .syscallFree f => execSyscallFree f s
  | .srgen f => execSrgen f s
  | _ => .next s

/-- R173: the precheck of a context's bundle ends, and its later slots run. -/
def execPrecheckEnd (key : Nat) (s : State) : Out := s.precheckOver runSlot key

end Sys2Proof.Machine
end

