-- ==== Sys2Proof/Machine/Rings.lean ====
section
/-! DEFINITION. Command rings: completions, the conditions a command starts under, and the commands that
end at once (R434 to R439, R447, R453, R458 to R460, R462, R463). -/

namespace Sys2Proof.Machine

/-! ## Completions (R436, R437) -/

/-- A command ring. -/
def State.ring (s : State) (n : Nat) : CmdRing := s.rings.get {} n

/-- Replaces a command ring. -/
def State.setRing (s : State) (n : Nat) (r : CmdRing) : State := { s with rings := s.rings.put n r }

/-- R437: the completion ring has a free entry. -/
def CmdRing.room (r : CmdRing) : Bool := (r.ptail - r.phead).toNat < 2 ^ r.psize.toNat

/-- R436: the bytes of a completion entry, the `p`-th of a ring of 2^k. -/
def Completion.bytes (c : Completion) (p k : Nat) : List Byte :=
  leBytes 8 (c.tag.toNat + c.status * 2 ^ 16 + c.node % 2 ^ 16 * 2 ^ 32 + (1 - p / 2 ^ k % 2) * 2 ^ 63)
    ++ leBytes 8 c.result.toNat

/-- R436: an entry is written, and the ring's vector signalled. -/
def State.postEntry (s : State) (n : Nat) (c : Completion) : State :=
  let r := s.ring n
  let p := r.ptail.toNat
  let k := r.psize.toNat
  let s := s.hostPut (r.pbase.toNat + 16 * (p % 2 ^ k)) (c.bytes p k)
  (s.setRing n { r with ptail := r.ptail + 1 }).interrupt r.vector.toNat

/-- R437: completions are posted while the completion ring has room. -/
def State.flushPosts (s : State) (n : Nat) : List Completion → State
  | [] => s
  | c :: rest =>
    let r := s.ring n
    if r.room then State.flushPosts ((s.setRing n { r with posts := rest }).postEntry n c) n rest else s

/-- R437: a reset whose last completion is posted is complete. -/
def State.ringIdle (s : State) (n : Nat) : State :=
  let r := s.ring n
  if r.rst && r.job == .idle && r.posts.isEmpty then s.setRing n { r with rst := false, chead := 0, ctail := 0 }
  else s

/-- R437: an entry joins those that a ring posts. -/
def State.post (s : State) (n : Nat) (c : Completion) : State :=
  let r := s.ring n
  let s := s.setRing n { r with posts := r.posts ++ [c] }
  s.flushPosts n (s.ring n).posts

/-- R436, R437: the command that a ring runs ends; during a reset of the ring its completion is not
posted. -/
def State.complete (s : State) (n : Nat) (tag : BitVec 16) (status node : Nat) (result : Addr) : State :=
  let r := s.ring n
  let s := s.setRing n { r with job := .idle }
  (if r.rst then s else s.post n { tag, status, node, result }).ringIdle n

/-- R436: a command that is no graph ends. -/
def State.reply (s : State) (h : CmdHead) (status : Nat) (result : Addr := 0) : State :=
  s.complete h.ring h.tag status 0xFFFF result

/-! ## When a command runs (R434, R437, R462) -/

/-- R437: the ring's previous command has posted its completion. -/
def State.ringFree (s : State) (n : Nat) : Bool :=
  (s.ring n).job == .idle && (s.ring n).posts.isEmpty && !(s.ring n).rst

/-- R434: the world of a ring. -/
def secureRing (n : Nat) : Bool := 28 ≤ n

/-- R437, R462: a command that needs neither a session nor a working module. -/
def State.always (s : State) (h : CmdHead) (run : State → State) : Out :=
  .next (if s.ringFree h.ring then run s else s)

/-- R434, R437, R439, R462: a command of a bound ring: `run` gets the session. -/
def State.command (s : State) (h : CmdHead) (secureOnly : Bool) (run : Nat → State) : Out :=
  .next (if !s.ringFree h.ring then s
    else if s.firmware.failed then s.reply h 9
    else if secureOnly && !secureRing h.ring then s.reply h 13
    else match (s.ring h.ring).session with
      | none => s.reply h 2
      | some x => run x)

/-- R437: a command that goes on holds its ring. -/
def State.startJob (s : State) (h : CmdHead) (j : RingJob) : State :=
  s.setRing h.ring { s.ring h.ring with job := j, tag := h.tag }

/-- R442: a launch or graph of a session is queued, running or pre-empted. -/
def State.sessionBusy (s : State) (x : Nat) : Bool :=
  s.launches.any (fun l => l.session == x)
    || s.rings.any fun p => p.2.session == some x && (match p.2.job with
      | .graph _ => true
      | .idle => false
      | .launch _ => false
      | .image _ => false
      | .preempt _ => false
      | .resume _ => false)

/-! ## Fields of commands and nodes (R436, R444) -/

/-- A field of a 64-byte command or node: byte offset, first bit, bits. -/
def cmdField (x off lo n : Nat) : Nat := x / 2 ^ (8 * off + lo) % 2 ^ n

/-- R436: what is left of a command when its fields are taken out: 0 unless a reserved bit is set. -/
def cmdRest (x : Nat) (fs : List (Nat × Nat × Nat)) : Nat :=
  fs.foldl (fun y f => y - cmdField x f.1 f.2.1 f.2.2 * 2 ^ (8 * f.1 + f.2.1)) x

/-- R440: the fields of a launch block. -/
def blockFields : List (Nat × Nat × Nat) :=
  [(8, 0, 64), (16, 0, 64), (24, 0, 16), (28, 0, 32), (32, 0, 32), (36, 0, 32), (40, 0, 32), (44, 0, 32)]

/-- R440: a launch block. -/
def launchBlock (x : Nat) : LaunchP :=
  { image := ad (cmdField x 8 0 64), place := ad (cmdField x 16 0 64), mask := BitVec.ofNat 16 (cmdField x 24 0 16)
    id := BitVec.ofNat 32 (cmdField x 28 0 32), arg0 := BitVec.ofNat 32 (cmdField x 32 0 32)
    arg1 := BitVec.ofNat 32 (cmdField x 36 0 32), arg2 := BitVec.ofNat 32 (cmdField x 40 0 32)
    arg3 := BitVec.ofNat 32 (cmdField x 44 0 32) }

/-! ## OPEN and CLOSE (R434, R439, R458) -/

/-- The `i`-th little-endian number of `n` bytes. -/
def fieldAt (bs : List Byte) (n i : Nat) : Nat := leNat ((bs.drop (n * i)).take n)

/-- R458: the valid ids of a peer-table image, with their ports. -/
def peersOf (bs : List Byte) : SMap Nat :=
  (List.range 1024).filterMap fun i =>
    let w := fieldAt bs 4 i
    if 2 ^ 31 ≤ w then some (i, w % 16) else none

/-- R458: a peer-table image that OPEN refuses: a reserved bit, or the own id valid. -/
def peersBad (bs : List Byte) (own : Nat) : Bool :=
  (List.range 1024).any (fun i => fieldAt bs 4 i / 2 ^ 4 % 2 ^ 27 != 0) || (peersOf bs).any (·.1 == own)

/-- R458: the entries of a receive-window list. -/
def windowsOf (bs : List Byte) : List (Nat × Nat) :=
  (List.range 16).map fun i => (fieldAt bs 8 (2 * i), fieldAt bs 8 (2 * i + 1))

/-- R458: an entry of a receive-window list breaks its layout. -/
def windowBad (w : Nat × Nat) : Bool := w.1 % 2 ^ 16 != 0 || 2 ^ 56 ≤ w.1 || w.2 % 2 ^ 16 != 0

/-- Firmware reads `n` bytes at a bus address, none of them at address 0. -/
def State.readTable (s : State) (bus : Addr) (n : Nat) : Option (List Byte) :=
  if bus == 0 then some [] else s.hostGet bus.toNat n

/-- R434: the lowest free session. -/
def State.freeSession (s : State) : Option Nat := (List.range 8).find? fun n => !(s.sessions.get {} n).opened

/-- R434: OPEN binds a ring. -/
def State.bindRing (s : State) (h : CmdHead) (x : Nat) : State :=
  (s.setRing h.ring { s.ring h.ring with session := some x }).reply h 0 (ad x)

/-- R434: OPEN without JOIN. -/
def State.openNew (s : State) (h : CmdHead) (p : OpenP) : State :=
  if p.psBus != 0 && (p.psLog2.toNat < 4 || 12 < p.psLog2.toNat) then s.reply h 1
  else if p.peerTable != 0 && s.sessions.any (·.2.hasPeers) then s.reply h 14
  else match s.freeSession with
    | none => s.reply h 3
    | some x =>
      if p.psBus != 0 && !s.hostOk p.psBus.toNat (16 * 2 ^ p.psLog2.toNat) true then s.reply h 6
      else match s.readTable p.peerTable 4096, s.readTable p.windows 256 with
        | some peers, some wins =>
          if (p.peerTable != 0 && peersBad peers p.ownId.toNat) || (windowsOf wins).any windowBad then s.reply h 1
          else
            let session : Session := {
              opened := true, secure := secureRing h.ring, ownId := p.ownId.toNat, hasPeers := p.peerTable != 0
              peers := peersOf peers, windows := (windowsOf wins).filter (0 < ·.2)
              psBus := p.psBus.toNat, psLog2 := p.psLog2.toNat, psVector := p.psVector.toNat }
            { s with sessions := s.sessions.put x session }.bindRing h x
        | _, _ => s.violate.reply h 6

/-- R434: OPEN with JOIN. -/
def State.openJoin (s : State) (h : CmdHead) (p : OpenP) : State :=
  let x := s.sessions.get {} p.session.toNat
  if !x.opened || x.secure != secureRing h.ring then s.reply h 2 else s.bindRing h p.session.toNat

/-- R434, R439. -/
def execOpenSession (h : CmdHead) (p : OpenP) (s : State) : Out :=
  s.always h fun s =>
    if s.firmware.failed then s.reply h 9
    else if (s.ring h.ring).session.isSome then s.reply h 12
    else if p.join then s.openJoin h p else s.openNew h p

/-- R434, R439: a session ends: its pages go, and its rings are unbound. -/
def State.dropSession (s : State) (x : Nat) : State :=
  let s := s.dropPages x (s.pages.get [] x)
  { s with sessions := s.sessions.del x
           rings := s.rings.map fun p => if p.2.session == some x then (p.1, { p.2 with session := none }) else p }

/-- R439, R442. -/
def execCloseSession (h : CmdHead) (s : State) : Out :=
  s.command h false fun x => if s.sessionBusy x then s.reply h 12 else (s.dropSession x).reply h 0

/-! ## Pages (R442, R453) -/

/-- R442. -/
def execMapPages (h : CmdHead) (p : MapP) (s : State) : Out :=
  s.command h false fun x =>
    let (s, st) := s.mapRange x p
    s.reply h st
/-- R442. -/
def execUnmapPages (h : CmdHead) (p : UnmapP) (s : State) : Out :=
  s.command h false fun x =>
    if s.sessionBusy x then s.reply h 12
    else
      let (s, st) := s.unmapRange x p
      s.reply h st
/-- R453. -/
def execHostpage (h : CmdHead) (p : HostPageP) (s : State) : Out :=
  s.command h false fun x =>
    let (s, st) := s.hostAnswer x p
    s.reply h st

/-! ## IMAGE (R439) -/

/-- R455: the management processor as it acts for a ring's session. -/
def firmwareParty (ring session : Nat) : Party :=
  { unit := cccNo 0, session, launch := 0, secure := true, req := 2 ^ 40 + ring }

/-- A range of addresses that firmware reaches through a session's pages. -/
def pagedRange (va n : Nat) : Bool :=
  (pieces va n).all fun p => paged (cccNo 0) p.1

/-- R439: the magic, the version and the code size of a header. -/
def imageOk (bs : List Byte) : Bool :=
  let code := fieldAt bs 4 10
  fieldAt bs 4 0 == 0x394B5944 && fieldAt bs 2 2 == 1 && code % 2 == 0 && 2 ≤ code && code ≤ 262144

/-- R439: copies a kernel image once its pages are there, and checks its header. -/
def State.imageStep (s : State) (n session : Nat) (p : ImageP) : State :=
  let h : CmdHead := { ring := n, tag := (s.ring n).tag }
  let va := p.va.toNat
  let size := p.bytes.toNat
  if size != 0 && !s.hostOk p.bus.toNat size false then s.violate.reply h 6
  else if !pagedRange va size then s.reply h 6
  else
    let q := firmwareParty n session
    match s.engineTry q { write := true } {} [(va, size)] with
    | (s, .wait) => s
    | (s, .fault _ _ _) => s.reply h 6
    | (s, .ready) =>
      let s := s.engineWrite q [(va, memRead s.mem (busKey p.bus.toNat) size)]
      let head := s.engineBytes q va 64
      if imageOk head then s.reply h 0 (ad (fieldAt head 8 1)) else s.reply h 4

/-- R439. -/
def execImage (h : CmdHead) (p : ImageP) (s : State) : Out :=
  s.command h false fun x =>
    if p.va.toNat % 64 != 0 then s.reply h 1 else (s.startJob h (.image p)).imageStep h.ring x p

/-! ## LAUNCH and GRAPH (R440, R444) -/

/-- A VA in regions 0x0 to 0x3. -/
def deviceRegion (va : Nat) : Bool := va / 2 ^ 52 ≤ 3

/-- R440: the launch of a block. -/
def launchOf (uid session ring : Nat) (secure : Bool) (tag : BitVec 16) (p : LaunchP) : Launch :=
  { uid, session, ring, tag, id := p.id, mask := p.mask, image := p.image, place := p.place
    args := #v[p.arg0, p.arg1, p.arg2, p.arg3], secure }

/-- R440: the status with which a launch block is refused at once. -/
def launchRefused (p : LaunchP) : Option Nat :=
  if p.image.toNat % 64 != 0 then some 1
  else if p.place.toNat / 2 ^ 48 == 0xF2 then some 1
  else if !deviceRegion p.image.toNat then some 6
  else none

/-- R67, R440: a launch enters its ring's queue. -/
def State.queueLaunch (s : State) (ring session : Nat) (tag : BitVec 16) (p : LaunchP) (graph : Bool) : Nat × State :=
  let (uid, s) := s.fresh
  let l := launchOf uid session ring (s.sessions.get {} session).secure tag p
  (uid, { s with launches := s.launches ++ [{ l with graph }] })

/-- R440. -/
def execLaunch (h : CmdHead) (p : LaunchP) (s : State) : Out :=
  s.command h false fun x =>
    match launchRefused p with
    | some st => s.reply h st
    | none =>
      let (uid, s) := s.queueLaunch h.ring x h.tag p false
      s.startJob h (.launch uid)

/-- R439, R444. -/
def execGraph (h : CmdHead) (p : GraphP) (s : State) : Out :=
  s.command h false fun _ =>
    if p.va.toNat % 64 != 0 || p.limit == 0 then s.reply h 1
    else if !deviceRegion p.va.toNat then s.reply h 6
    else s.startJob h (.graph { va := p.va.toNat, node := p.start.toNat, limit := p.limit.toNat })

/-! ## RING, QPAIR and NSLOT (R323, R439, R447) -/

/-- R447: a launch of a session runs. -/
def State.sessionRuns (s : State) (x : Nat) : Bool := s.launches.any fun l => l.session == x && l.live

/-- R439, R447. -/
def execRingCmd (h : CmdHead) (p : RingP) (s : State) : Out :=
  s.command h false fun x =>
    if p.log2.toNat < 4 || p.bus.toNat % 4096 != 0 || p.count == 0 || 65535 < p.count.toNat then s.reply h 1
    else if s.sessionRuns x then s.reply h 12
    else if p.en && !s.hostOk p.bus.toNat (8 * 2 ^ p.log2.toNat) true then s.reply h 6
    else (s.setTokenRing x p.n.toNat { en := p.en, log2 := p.log2.toNat, bus := p.bus.toNat, count := p.count.toNat
                                       time := p.time.toNat, vector := p.vector.toNat }).reply h 0

/-- R439: the place of a queue pair's SQ in the storage region; its CQ follows (log entry 15). -/
def queueOffset (qp : Nat) : Nat := qp * 2 ^ 24

/-- R325: a queue pair is reset: the halves whose command timed out on it are free. -/
def State.freeLost (s : State) (qp : Nat) : State :=
  { s with clusters := s.clusters.map fun (p : Nat × ClusterSt) =>
      (p.1, { p.2 with halves := p.2.halves.map fun (h : Half) => if h.lost && h.qp == qp then {} else h }) }

/-- R325, R439. -/
def execQpair (h : CmdHead) (p : QPairP) (s : State) : Out :=
  s.command h false fun _ =>
    if p.log2.toNat < 4 || 12 < p.log2.toNat then s.reply h 1
    else if !s.hostOk p.sqBell.toNat 4 true || !s.hostOk p.cqBell.toNat 4 true then s.reply h 6
    else
      let q : QPair := { log2 := p.log2.toNat, sqBell := p.sqBell.toNat, cqBell := p.cqBell.toNat, sq := queueOffset p.qp.toNat }
      ({ s with qpairs := s.qpairs.put p.qp.toNat q }.freeLost p.qp.toNat).reply h 0 (ad (0x8000000000 + queueOffset p.qp.toNat))

/-- R323, R439. -/
def execNslot (h : CmdHead) (p : NSlotP) (s : State) : Out :=
  s.command h false fun x =>
    if 3 < p.lbas.toNat then s.reply h 1
    else
      let n : NSlot := { v := true, nsid := p.nsid, lbas := p.lbas.toNat, maxb := p.maxb.toNat, qp := p.qp.toNat, tq := p.tq.toNat }
      (s.updSession x fun y => { y with nslots := y.nslots.setIfInBounds p.slot.toNat n }).reply h 0

/-! ## ATTEST, QUERY and PATCH (R263, R439, R459, R460) -/

/-- R439: the part number, in 16 bytes. -/
def partNumber : List Byte := ("IL9-4C16-768".toList.map fun c => BitVec.ofNat 8 c.toNat) ++ List.replicate 4 0

/-- Exactly `n` bytes of a list. -/
def exactly (n : Nat) (bs : List Byte) : List Byte := (bs ++ List.replicate n 0).take n

/-- A number as `n` bytes, the most significant first. -/
def beBytes (n x : Nat) : List Byte := (leBytes n x).reverse

/-- R263: a core's array status word. -/
def Arr.statusWord (a : Arr) : Nat :=
  let row (i : Nat) : Nat := a.retired.getD i 0xFF
  row 0 + row 1 * 2 ^ 8 + row 2 * 2 ^ 16 + a.retired.length % 4 * 2 ^ 24 + (if a.degraded then 2 ^ 31 else 0)

/-- The version of the active patch, or 0. -/
def State.patchVersion (s : State) : Nat :=
  match s.firmware.active with
  | some p => p.version.toNat
  | none => 0

/-- R439: the array of core `i` of the module. -/
def State.coreArr (s : State) (i : Nat) : Arr := s.arrAt (unitNo (i / 8) (i % 8))

/-- R439: what QUERY writes. -/
def State.queryItem (s : State) (item : Nat) : Option (List Byte) :=
  match item with
  | 0 => some (partNumber ++ leBytes 8 Config.serial.toNat ++ leBytes 4 Config.romVersion.toNat
      ++ leBytes 4 s.patchVersion ++ leBytes 4 3000 ++ List.replicate 28 0)
  | 1 => some ((List.range 128).flatMap fun i => leBytes 4 (s.coreArr i).statusWord)
  | 2 => some Config.certificate
  | _ => none

/-- R439. -/
def execQuery (h : CmdHead) (p : QueryP) (s : State) : Out :=
  s.always h fun s =>
    match s.queryItem p.item.toNat with
    | none => s.reply h 1
    | some bs =>
      if !bs.isEmpty && !s.hostOk p.bus.toNat bs.length true then s.violate.reply h 6
      else (if bs.isEmpty then s else s.hostPut p.bus.toNat bs).reply h 0 (ad bs.length)

/-- R460: the report without its signature. -/
def State.attestBody (s : State) (h : CmdHead) (nonce : BitVec 256) : List Byte :=
  let session := ((s.ring h.ring).session.getD 0)
  let arrs := (List.range 128).map s.coreArr
  let degraded := (arrs.filter (·.degraded)).length
  let retired := (arrs.map fun a => a.retired.length).sum
  let patch := match s.firmware.active with
    | some p => beBytes 64 p.digest.toNat
    | none => List.replicate 64 0
  ("IL9ATTST".toList.map fun c => BitVec.ofNat 8 c.toNat) ++ leBytes 4 1 ++ leBytes 4 s.patchVersion ++ partNumber
    ++ leBytes 8 Config.serial.toNat ++ beBytes 64 Config.romDigest.toNat ++ patch ++ leBytes 32 nonce.toNat
    ++ leBytes 4 ((if secureRing h.ring then 1 else 0) + session * 2 ^ 8) ++ leBytes 4 (degraded + retired * 2 ^ 8)
    ++ leBytes 8 s.mtc.toNat

/-- R460. -/
def execAttest (h : CmdHead) (p : AttestP) (s : State) : Out :=
  s.always h fun s =>
    let body := s.attestBody h p.nonce
    let bs := body ++ exactly 132 (Config.ecdsaSign body)
    if !s.hostOk p.bus.toNat bs.length true then s.violate.reply h 6
    else (s.hostPut p.bus.toNat bs).reply h 0 348

/-- R459: the version in a patch header: its fields stand in the order the rule lists them, four bytes each
(log entry 23). -/
def patchVersionOf (bs : List Byte) : Word := BitVec.ofNat 32 (fieldAt bs 4 1)

/-- R459: a patch image: the magic, a version that is not too low, the length, the ROM it targets, and the
signature. -/
def patchOk (bs : List Byte) : Bool :=
  64 ≤ bs.length && fieldAt bs 4 0 == 0x48544150 && Config.patchMinimum.toNat ≤ (patchVersionOf bs).toNat
    && bs.length == 64 + fieldAt bs 4 2 + 132 && fieldAt bs 4 3 == Config.romVersion.toNat && Config.patchSigned bs

/-- R459: a verified patch is staged. -/
def execPatch (h : CmdHead) (p : PatchP) (s : State) : Out :=
  s.command h true fun _ =>
    if 2 ^ 20 < p.bytes.toNat then s.reply h 1
    else match s.hostGet p.bus.toNat p.bytes.toNat with
      | none => s.violate.reply h 6
      | some bs =>
        if !patchOk bs then s.reply h 8
        else { s with firmware := { s.firmware with
          staged := some { version := patchVersionOf bs, digest := Config.sha512 bs } } }.reply h 0
            ((patchVersionOf bs).setWidth 64)

/-! ## PORTRESET and POWER (R462, R463) -/

/-- R462: a failed port returns to service. -/
def execPortreset (h : CmdHead) (port : BitVec 4) (s : State) : Out :=
  s.command h true fun _ =>
    { s with portFailed := setBit s.portFailed port.toNat false, portFlits := s.portFlits.del port.toNat }.reply h 0

/-- R463: the target that a request gives. -/
def powerTarget (watts : Nat) : Nat := max 1500 (min watts 3000)

/-- R463. -/
def execPower (h : CmdHead) (watts : Word) (s : State) : Out :=
  s.command h false fun _ =>
    let w := powerTarget watts.toNat
    { s with firmware := { s.firmware with power := w } }.reply h 0 (ad w)

end Sys2Proof.Machine
end

