-- ==== Sys2Proof/Machine/Graph.lean ====
section
/-! DEFINITION. Launch graphs: the nodes that the management processor runs (R444 to R446). -/

namespace Sys2Proof.Machine

/-- What the management processor finds at a graph's node. -/
inductive NodeRead where
  | wait
  | bad
  | node (x : Nat)

/-- Changes the graph that a ring runs. -/
def State.updGraph (s : State) (n : Nat) (f : GraphRun → GraphRun) : State :=
  let r := s.ring n
  match r.job with
  | .graph g => s.setRing n { r with job := .graph (f g) }
  | .idle => s
  | .launch _ => s
  | .image _ => s
  | .preempt _ => s
  | .resume _ => s

/-- R445: the graph of a ring and its session. -/
def State.graphOn (s : State) (n : Nat) : Option (GraphRun × Nat) :=
  match (s.ring n).job, (s.ring n).session with
  | .graph g, some x => some (g, x)
  | _, _ => none

/-- R445, R446: the node at which a graph stands is read as one access at its owner, once what the graph
has posted is written. -/
def State.graphEnter (s : State) (n : Nat) (g : GraphRun) (x : Nat) : State × NodeRead :=
  let r := s.ring n
  if g.launch.isSome || !r.posts.isEmpty then (s, .wait)
  else if !g.bytes.isEmpty then (s, .node (leNat g.bytes))
  else if r.rst || g.count == g.limit then (s, .wait)
  else
    let a := g.va + 64 * g.node
    if !deviceRegion a || (s.pageOf x (ad a)).any (·.isLazy) then (s, .bad)
    else
      let q := firmwareParty n x
      match s.engineTry q {} {} [(a, 64)] with
      | (s, .wait) => (s, .wait)
      | (s, .fault _ _ _) => (s, .bad)
      | (s, .ready) =>
        let bytes := s.engineBytes q a 64
        (s.updGraph n fun g => { g with bytes, count := g.count + 1 }, .node (leNat bytes))

/-- R445: the graph completes. -/
def State.graphDone (s : State) (n : Nat) (g : GraphRun) (status : Nat) (result : Addr) : State :=
  s.complete n (s.ring n).tag status g.node result

/-- R445: the graph goes on to another node. -/
def State.graphGo (s : State) (n dest : Nat) : State :=
  s.updGraph n fun g => { g with node := dest, bytes := [], launch := none }

/-- R444: KIND and NEXT. -/
def nodeKind (x : Nat) : Nat := x % 16
/-- R444. -/
def nodeNext (x : Nat) : Nat := cmdField x 2 0 10

/-- R444: the fields of a node of some kind. -/
def nodeFields (kind : Nat) : List (Nat × Nat × Nat) :=
  [(0, 0, 4), (2, 0, 10)] ++ match kind with
    | 1 => blockFields
    | 2 => [(8, 0, 64), (16, 0, 64), (24, 0, 32), (28, 0, 2)]
    | 3 => [(8, 0, 64), (16, 0, 16)]
    | 4 => [(8, 0, 64), (16, 0, 32), (20, 0, 32), (24, 0, 2), (28, 0, 10)]
    | _ => []

/-- R444, R445: a ring's graph stands at a node of kind `kind`, whose reserved bits are zero: `run` acts
on it. -/
def State.onNode (s : State) (n kind : Nat) (run : State → GraphRun → Nat → Nat → State) : Out :=
  match s.graphOn n with
  | none => .next s
  | some (g, x) =>
    match s.graphEnter n g x with
    | (t, .wait) => .next t
    | (_, .bad) => .next s
    | (t, .node w) =>
      if nodeKind w != kind then .next s
      else if cmdRest w (nodeFields kind) != 0 then .next (t.graphDone n g 1 0)
      else .next (run t g x w)

/-- R440, R445: a launch node queues its launch. -/
def execGraphLaunchNode (ring : Nat) (s : State) : Out :=
  s.onNode ring 1 fun s g x w =>
    match launchRefused (launchBlock w) with
    | some st => s.graphDone ring g st 0
    | none =>
      let (uid, s) := s.queueLaunch ring x (s.ring ring).tag (launchBlock w) true
      s.updGraph ring fun g => { g with launch := some uid }

/-- R444, R445: the bytes of a copy node move, when both sides are ready. -/
def State.graphCopy (s : State) (n : Nat) (g : GraphRun) (x dst src len next : Nat) (sh dh : Bool) : State :=
  let q := firmwareParty n x
  let busBad := (sh && !s.hostOk src len false) || (dh && !s.hostOk dst len true)
  let devBad := (!sh && !pagedRange src len) || (!dh && !pagedRange dst len)
  if busBad then s.violate.graphDone n g 6 0
  else if devBad then s.graphDone n g 6 0
  else match (if sh then (s, EngineAns.ready) else s.engineTry q {} {} [(src, len)]) with
    | (s, .wait) => s
    | (s, .fault _ _ _) => s.graphDone n g 6 0
    | (s, .ready) =>
      match (if dh then (s, EngineAns.ready) else s.engineTry q { write := true } {} [(dst, len)]) with
      | (s, .wait) => s
      | (s, .fault _ _ _) => s.graphDone n g 6 0
      | (s, .ready) =>
        let bs := if sh then memRead s.mem (busKey src) len else s.engineBytes q src len
        (if dh then s.hostPut dst bs else s.engineWrite q [(dst, bs)]).graphGo n next

/-- R444, R445. -/
def execGraphCopyNode (ring : Nat) (s : State) : Out :=
  s.onNode ring 2 fun s g x w =>
    let len := cmdField w 24 0 32
    let sh := cmdField w 28 0 1 == 1
    let dh := cmdField w 28 1 1 == 1
    if len == 0 || 2 ^ 30 < len || (sh && dh) then s.graphDone ring g 1 0
    else s.graphCopy ring g x (cmdField w 8 0 64) (cmdField w 16 0 64) len (nodeNext w) sh dh

/-- R445, R451: token rings are flushed, then the entry is posted; a ring that is being reset posts
none. -/
def execGraphNotifyNode (ring : Nat) (s : State) : Out :=
  s.onNode ring 3 fun s g x w =>
    let s := ((List.range 16).filter fun i => cmdField w 16 i 1 == 1).foldl (fun s i => s.tokenFlush x i) s
    let s := s.graphGo ring (nodeNext w)
    if (s.ring ring).rst then s
    else s.post ring { tag := (s.ring ring).tag, status := 0, node := g.node, result := ad (cmdField w 8 0 64) }

/-- R444, R445: the test of a conditional node. -/
def nodeTest (op w mask cmp : Nat) : Bool :=
  let v := w &&& mask
  match op with
  | 0 => v == cmp
  | 1 => v != cmp
  | 2 => v < cmp
  | _ => cmp ≤ v

/-- R444 to R446. -/
def execGraphConditionalNode (ring : Nat) (s : State) : Out :=
  s.onNode ring 4 fun s g x w =>
    let a := cmdField w 8 0 64
    let q := firmwareParty ring x
    if a % 4 != 0 then s.graphDone ring g 1 0
    else if !pagedRange a 4 then s.graphDone ring g 6 0
    else match s.engineTry q {} {} [(a, 4)] with
      | (s, .wait) => s
      | (s, .fault _ _ _) => s.graphDone ring g 6 0
      | (s, .ready) =>
        let v := leNat (s.engineBytes q a 4)
        let taken := nodeTest (cmdField w 24 0 2) v (cmdField w 20 0 32) (cmdField w 16 0 32)
        s.graphGo ring (if taken then nodeNext w else cmdField w 28 0 10)

/-- R445: an end node, a node of a reserved kind, or one that cannot be read. -/
def execGraphEndNode (ring : Nat) (s : State) : Out :=
  match s.graphOn ring with
  | none => .next s
  | some (g, x) =>
    match s.graphEnter ring g x with
    | (t, .wait) => .next t
    | (t, .bad) => .next (t.graphDone ring g 6 0)
    | (t, .node w) =>
      .next (if nodeKind w == 0 && cmdRest w (nodeFields 0) == 0 then
          match t.graphOn ring with
          | some (g, _) => t.graphDone ring g 0 (ad g.count)
          | none => t
        else if nodeKind w == 0 || 5 ≤ nodeKind w then t.graphDone ring g 1 0
        else s)

/-- R445: the step limit is reached. -/
def execGraphLimit (ring : Nat) (s : State) : Out :=
  match s.graphOn ring with
  | none => .next s
  | some (g, _) =>
    .next (if g.launch.isNone && g.bytes.isEmpty && (s.ring ring).posts.isEmpty && !(s.ring ring).rst
        && g.count == g.limit then s.graphDone ring g 10 (ad g.count) else s)

/-- R445: the launch of a launch node has retired. -/
def State.graphRetired (s : State) (n status : Nat) (result : Addr) : State :=
  match s.graphOn n with
  | none => s
  | some (g, _) => if status != 0 then s.graphDone n g status result else s.graphGo n (nodeNext (leNat g.bytes))

/-- R437: a graph whose ring is being reset ends after its node. -/
def State.graphStop (s : State) (n : Nat) : State :=
  match s.graphOn n with
  | none => s
  | some (g, _) =>
    if (s.ring n).rst && g.launch.isNone && g.bytes.isEmpty then s.graphDone n g 11 0 else s

/-- R445: one turn of the graph of a ring: the node's own step. -/
def State.graphTurn (s : State) (n : Nat) : Out :=
  match s.graphOn n with
  | none => .next s
  | some (g, x) =>
    if (s.ring n).rst && g.launch.isNone && g.bytes.isEmpty then .next (s.graphStop n)
    else if g.bytes.isEmpty && g.count == g.limit then execGraphLimit n s
    else match s.graphEnter n g x with
      | (t, .wait) => .next t
      | (_, .bad) => execGraphEndNode n s
      | (t, .node w) =>
        match nodeKind w with
        | 1 => execGraphLaunchNode n t
        | 2 => execGraphCopyNode n t
        | 3 => execGraphNotifyNode n t
        | 4 => execGraphConditionalNode n t
        | _ => execGraphEndNode n t

end Sys2Proof.Machine
end

