-- ==== Sys2Proof/Machine/Launch.lean ====
section
/-! DEFINITION. Launches: the kernel header, the start, retirement, the fatal end, pre-emption and
resumption (R66 to R77, R85, R88, R89, R103, R305, R402, R425, R440, R441, R443, R454, R455). -/

namespace Sys2Proof.Machine

/-! ## The kernel header (R70 to R73) -/

/-- R70: magic, version, flags and counts of a header lie outside their legal values. -/
def headerCountsBad (bs : List Byte) : Bool :=
  fieldAt bs 4 0 != 0x394B5944 || fieldAt bs 2 2 != 1 || 16 ≤ fieldAt bs 2 3 || 32 < fieldAt bs 1 16
    || 32 < fieldAt bs 1 17 || 16 < fieldAt bs 1 18 || 4 ≤ fieldAt bs 1 19 || 8 ≤ fieldAt bs 1 20

/-- R70: sizes, offsets and reserved fields of a header lie outside their legal values. -/
def headerSizesBad (bs : List Byte) : Bool :=
  let code := fieldAt bs 4 10
  let sprint := fieldAt bs 4 7
  let handler := fieldAt bs 4 8
  131072 < fieldAt bs 4 6 || (sprint != 0 && sprint < 16) || code % 2 == 1 || code < 2 || 262144 < code
    || (handler != 0xFFFFFFFF && code / 2 ≤ handler) || code / 2 ≤ fieldAt bs 4 9
    || leNat ((bs.drop 0x15).take 3) != 0 || leNat ((bs.drop 0x30).take 16) != 0

/-- R72: a header that fails its launch. -/
def headerBad (bs : List Byte) : Bool := headerCountsBad bs || headerSizesBad bs

/-- R73: a count rounded up to its granule. -/
def roundUp (n granule : Nat) : Nat := (n + granule - 1) / granule * granule

/-- R70, R73: a header from its 64 bytes. -/
def headerOf (bs : List Byte) : Header :=
  { flags := BitVec.ofNat 16 (fieldAt bs 2 3), imageId := ad (fieldAt bs 8 1)
    scalars := roundUp (fieldAt bs 1 16) 8, vectors := roundUp (fieldAt bs 1 17) 4, descs := fieldAt bs 1 18
    vl := 128 * 2 ^ fieldAt bs 1 19, stage := fieldAt bs 1 20, spillBytes := roundUp (fieldAt bs 4 6) 4096
    sprint := fieldAt bs 4 7, handler := BitVec.ofNat 32 (fieldAt bs 4 8)
    control := BitVec.ofNat 32 (fieldAt bs 4 9), codeSize := fieldAt bs 4 10, dataSize := fieldAt bs 4 11 }

/-! ## Parts of the extent -/

/-- R66: the clusters of a mask. -/
def clustersOf (mask : BitVec 16) : List Nat := (List.range 16).filter mask.getLsbD

/-- The units of a launch. -/
def Launch.units (l : Launch) : List Nat := (clustersOf l.mask).flatMap unitsOf

/-- The keys of a launch's contexts. -/
def Launch.keys (l : Launch) : List Nat := l.units.flatMap keysOf

/-- R66: some other launch holds part of an extent. -/
def State.extentHeld (s : State) (l : Launch) : Bool :=
  s.launches.any fun m => m.live && m.uid != l.uid && (m.mask &&& l.mask) != 0

/-! ## Worlds (R454, R455) -/

/-- R455: an L2 slice takes a world; one that becomes non-secure is zeroed. -/
def State.sliceWorld (s : State) (n : Nat) (secure : Bool) : State :=
  let was := s.slices.get false n
  let s := if was && !secure then s.zero (l2Key (n / 160) (n % 160) 0) (2 ^ 20) else s
  { s with slices := if secure then s.slices.put n true else s.slices.del n }

/-- R455: a unit's instruction banks, weights and accumulators, scratchpad and L1 are scrubbed. -/
def State.scrubUnit (s : State) (u : Nat) : State :=
  let s := s.zero (imemKey u 0) (2 ^ 18)
  let s := if isCcc u then s else s.zero (spadKey (clusterOf u) (coreOf u) 0) (2 ^ 20)
  s.updUnit u fun x => { x with
    banks := Vector.replicate 4 {}, l1 := [], arr := { x.arr with
      accs := Vector.replicate 8 {}, active := [], shadow := [], activeTy := 1, shadowTy := 1, wchk := [] } }

/-- R454, R455: a cluster takes a world; one that becomes non-secure is scrubbed. -/
def State.clusterWorld (s : State) (c : Nat) (secure : Bool) : State :=
  let s := if s.worlds.getLsbD c && !secure then
      (unitsOf c).foldl State.scrubUnit (s.zero (sramKey c 0) (2 ^ 24))
    else s
  { s with worlds := setBit s.worlds c secure }

/-! ## Spill regions (R85) -/

/-- R85: the spill regions of a cluster, 16 for each core and 4 for its CCC. -/
def spillCount : Nat := 132

/-- R85: how many slices a cluster's regions of a size fill. -/
def spillSlices (size : Nat) : Nat := if size == 0 then 0 else ceilDiv spillCount (2 ^ 20 / size)

/-- R85: the address of a cluster's `i`-th region, among the slices that it has for them. -/
def spillAddr (slices : List Nat) (size i : Nat) : Nat :=
  let per := 2 ^ 20 / size
  let n := slices.getD (i / per) 0
  0xF3 * 2 ^ 48 + n / 160 * 2 ^ 28 + n % 160 * 2 ^ 20 + i % per * size

/-- R85: a unit's regions among those of its cluster. -/
def unitRegions (u : Nat) : List Nat :=
  if isCcc u then (List.range 4).map (128 + ·) else (List.range 16).map (16 * coreOf u + ·)

/-- R85, R454: a cluster's regions are placed in its slices, zeroed, and given to its units. -/
def State.placeSpills (s : State) (c : Nat) (slices : List Nat) (size : Nat) : State :=
  let s := if size == 0 then s else (List.range spillCount).foldl (fun s i =>
    s.zero (s.flat (cccNo c) 0 (ad (spillAddr slices size i))) size) s
  (unitsOf c).foldl (fun s u => s.updUnit u fun x => { x with
    spills := if size == 0 then [] else (unitRegions u).map fun i => (ad (spillAddr slices size i), false) }) s

/-! ## The storage of a launch (R72, R85, R246, R304, R323, R360, R398) -/

/-- R85, R323: the slices of a die that no launch reserves. -/
def State.freeSlices (s : State) (die : Nat) : List Nat :=
  ((List.range 160).map (160 * die + ·)).filter fun n => !s.launches.any fun l => l.slices.contains n

/-- R85: slices are taken from a list, each as the tape says (log entry 16). -/
def State.pickSlices (s : State) : Nat → List Nat → Option (List Nat × State)
  | 0, _ => some ([], s)
  | _ + 1, [] => none
  | n + 1, x :: xs =>
    let (k, s) := s.choice
    let y := (x :: xs).getD (k % (xs.length + 1)) x
    (State.pickSlices s n ((x :: xs).erase y)).map fun (ys, s) => (y :: ys, s)

/-- R85, R323: the slices of each cluster of an extent: two for its staging area, then those of its regions. -/
def State.slicePlan (s : State) (size : Nat) (taken : List Nat) : List Nat → Option (SMap (List Nat) × State)
  | [] => some ([], s)
  | c :: cs =>
    match s.pickSlices (spillSlices size + 2) ((s.freeSlices (dieOf c)).filter (!taken.contains ·)) with
    | none => none
    | some (ys, s) => (State.slicePlan s size (taken ++ ys) cs).map fun (m, s) => (m.put c ys, s)

/-- R85, R398: capacity of HBM for what each key names: its die and its size. -/
def hbmPlan (secure : Bool) (hbm : SMap HbmRange) : List (Nat × Nat × Nat) → Option (SMap (Nat × Nat) × SMap HbmRange)
  | [] => some ([], hbm)
  | (k, die, size) :: rest =>
    match hbmTake hbm die size (2 ^ 16) secure with
    | none => none
    | some (x, hbm) => (hbmPlan secure hbm rest).map fun (m, hbm) => (m.put k x, hbm)

/-- R398: the stack reduce units of the dies of an extent. -/
def stacksOf (cs : List Nat) : List Nat := ((cs.map dieOf).eraseDups).flatMap fun d => (List.range 4).map (4 * d + ·)

/-- R72, R85: a launch with all that is reserved for it, and its clusters' slices; none where it does not fit. -/
def State.reserve (s : State) (l : Launch) (size : Nat) : Option (Launch × SMap (List Nat) × State) :=
  let cs := clustersOf l.mask
  match hbmPlan l.secure s.hbm (cs.map fun c => (c, dieOf c, clusterStore)) with
  | none => none
  | some (store, hbm) =>
    match hbmPlan l.secure hbm ((stacksOf cs).map fun n => (n, n / 4, 2 ^ 16)) with
    | none => none
    | some (relayStore, hbm) => (s.slicePlan size [] cs).map fun (plan, s) =>
      ({ l with slices := plan.flatMap Prod.snd, store, relayStore,
                staging := plan.map fun p => (p.1, (p.2.getD 0 0, p.2.getD 1 0)) }, plan, { s with hbm })

/-- R85: what was reserved for a launch that is over returns. -/
def State.giveStore (s : State) (l : Launch) : State :=
  { s with hbm := (l.store ++ l.relayStore).foldl (fun h p => hbmGive h p.2) s.hbm }

/-- R67, R85, R440, R445: a launch is over: it leaves, what it held returns, and its command or its graph goes
on. -/
def State.launchOver (s : State) (l : Launch) (status : Nat) (result : Addr) : State :=
  let s := { s.giveStore ((s.launchBy l.uid).getD l) with launches := s.launches.filter (·.uid != l.uid) }
  if l.graph then s.graphRetired l.ring status result
  else s.complete l.ring l.tag status 0xFFFF result

/-! ## Instruction banks (R74, R75) -/

/-- R74: a run of `k` banks from `b` on holds the whole code of an image. -/
def bankHolds (banks : Vector ImemBank 4) (id : Addr) (k b : Nat) : Bool :=
  id != 0 && (List.range k).all fun i =>
    let x := banks.getD (b + i) {}
    x.image == id && x.part == i && x.parts == k

/-- R74: when the most recently launched bank of a run was launched; a free bank never was. -/
def runAge (banks : Vector ImemBank 4) (k b : Nat) : Nat :=
  ((List.range k).map fun i =>
    let x := banks.getD (b + i) {}
    if x.image == 0 then 0 else x.last).foldl max 0

/-- R74: the run that a load takes. A run of free banks has age 0, below any other's. -/
def loadRun (banks : Vector ImemBank 4) (k : Nat) : Nat :=
  (leastBy (runAge banks k) (List.range (5 - k))).getD 0

/-- R74: a unit's banks hold the code of an image. -/
def State.loadCode (s : State) (u : Nat) (id : Addr) (code : List Byte) : State :=
  let k := ceilDiv code.length 65536
  let banks := (s.unitAt u).banks
  let at' := (List.range (5 - k)).find? (bankHolds banks id k)
  let b := at'.getD (loadRun banks k)
  let s := if at'.isSome then s else { s with mem := memWrite s.mem (imemKey u (65536 * b)) code }
  s.updUnit u fun x => { x with
    codeBase := 65536 * b
    banks := Vector.ofFn fun i =>
      if b ≤ i.val && i.val < b + k then
        { image := id, part := i.val - b, parts := k, last := s.cycle + 1
          dirty := at'.isSome && (x.banks.getD i.val {}).dirty }
      else x.banks.getD i.val {} }

/-! ## The start of a launch (R72, R74, R77, R85, R209, R402, R441) -/

/-- R441: where a launch's data goes: spans to write, by the unit that addresses them; none for a
placement outside its region or window. -/
def dataPlaces (l : Launch) (n : Nat) : Option (List (Nat × Nat)) :=
  let va := l.place.toNat
  let off := va % 2 ^ 48
  if deviceRegion va || va / 2 ^ 52 == 8 then some [(cccNo 0, va)]
  else if va / 2 ^ 48 == 0xF0 then
    if off + n ≤ 2 ^ 20 then some ((l.units.filter (!isCcc ·)).map fun u => (u, va)) else none
  else if va / 2 ^ 48 == 0xF1 then
    if off + n ≤ 2 ^ 24 then some ((clustersOf l.mask).map fun c => (cccNo c, va)) else none
  else if va / 2 ^ 48 == 0xF3 then
    if off % 2 ^ 20 + n ≤ 2 ^ 20 then some [(cccNo 0, va)] else none
  else none

/-- What a check or a transfer of the start of a launch comes to. -/
inductive StartStep where
  | wait (s : State)
  | fail (s : State) (status : Nat)
  | ok (s : State)

/-- R440, R441: firmware's access to bytes on non-lazy pages or in a window. -/
def State.firmwareAccess (s : State) (l : Launch) (u : Nat) (write : Bool) (va n : Nat) : StartStep :=
  let q := { firmwareParty l.ring l.session with unit := u }
  if n == 0 then .ok s
  else if (pieces va n).any fun p => paged u p.1 && (s.pageOf l.session (ad p.1)).any (·.isLazy) then .fail s 6
  else match s.engineTry q { write } {} [(va, n)] with
    | (s, .wait) => .wait s
    | (s, .fault _ _ _) => .fail s 6
    | (s, .ready) => .ok s

/-- R441: where the copies of the data go; none is due for placement 0, and `none` is a placement that fails. -/
def dataCopies (l : Launch) (h : Header) : Option (List (Nat × Nat)) :=
  if l.place == 0 || h.dataSize == 0 then some [] else dataPlaces l h.dataSize

/-- R70, R441: where the data of an image begins. -/
def dataStart (l : Launch) (h : Header) : Nat := l.image.toNat + 64 + h.codeSize

/-- R441: every byte that the copy of the data reads or writes can be reached. -/
def State.dataReady (s : State) (l : Launch) (h : Header) : StartStep :=
  match dataCopies l h with
  | none => .fail s 6
  | some [] => .ok s
  | some ps => ps.foldl (fun r p => match r with
      | .ok s => s.firmwareAccess l p.1 true p.2 h.dataSize
      | r => r) (s.firmwareAccess l (cccNo 0) false (dataStart l h) h.dataSize)

/-- R441: the data is copied to its places. -/
def State.copyData (s : State) (l : Launch) (h : Header) (bs : List Byte) : State :=
  ((dataCopies l h).getD []).foldl (fun s p =>
    s.engineWrite { firmwareParty l.ring l.session with unit := p.1 } [(p.2, bs)]) s

/-- R242, R262: the array of a core at launch start; retirements and their counts stay. -/
def Arr.launched (a : Arr) : Arr :=
  { Arr.reset with verdicts := a.verdicts, cnt := a.cnt, first := a.first, retired := a.retired
                   applied := a.applied, degraded := a.degraded }

/-- R77, R103, R209, R210, R242, R400: a unit at launch start. -/
def State.startUnit (s : State) (u : Nat) : State :=
  let s := { s with ctxs := s.ctxs.filter fun (p : Nat × Ctx) => unitOf p.1 != u }
  s.updUnit u fun x => { UnitSt.reset u with
    banks := x.banks, codeBase := x.codeBase, arr := x.arr.launched, spills := x.spills, clock := x.clock }

/-- Entries of a map of slots by cluster: those of some clusters, or the others. -/
def slotsOf (per : Nat) (cs : List Nat) (inside : Bool) (m : SMap Nat) : SMap Nat :=
  m.filter fun p => cs.contains (p.1 / per) == inside

/-- R403, R406, R411, R416: a cluster at launch start; what its engines still have under way stays. -/
def ClusterSt.launched (k : ClusterSt) : ClusterSt :=
  { busy := k.busy, stoBusy := k.stoBusy, halves := k.halves }

/-- R273, R344: generations of the extent are 0 at launch start. -/
def State.startClusters (s : State) (cs : List Nat) : State :=
  let s := { s with gens := slotsOf 1024 cs false s.gens, walkGens := slotsOf 32 cs false s.walkGens,
                    storerEnds := slotsOf 32 cs false s.storerEnds }
  cs.foldl (fun s c => s.updCluster c ClusterSt.launched) s

/-- R402: context 0 of a CCC takes the control program. -/
def State.startControl (s : State) (l : Launch) (c : Nat) : State :=
  let (uid, s) := s.fresh
  s.giveTask (8 * cccNo c) { uid, entry := l.hdr.control, args := l.args, cc := true, control := true }

/-- R72, R74, R77, R85, R323, R441, R455: the launch starts, with what is reserved for it. Its blocks are scrubbed
before the data is placed in them. -/
def State.startLaunch (s : State) (l : Launch) (h : Header) (code : List Byte) (plan : SMap (List Nat)) : State :=
  let cs := clustersOf l.mask
  let data := s.engineBytes (firmwareParty l.ring l.session) (dataStart l h) h.dataSize
  let s := cs.foldl (fun s c => s.clusterWorld c l.secure) s
  let s := l.slices.foldl (fun s n => s.sliceWorld n l.secure) s
  let s := plan.foldl (fun s p => s.placeSpills p.1 (p.2.drop 2) h.spillBytes) s
  let s := s.copyData l h data
  let s := l.units.foldl (fun s u => (s.loadCode u h.imageId code).startUnit u) s
  let s := s.startClusters cs
  let s := s.updLaunch l.uid fun _ => { l with st := .running, hdr := h, code }
  cs.foldl (fun s c => s.startControl { l with hdr := h } c) s

/-- R66, R72: the header and the code are read and checked, then the launch waits for its extent. -/
def State.tryStart (s : State) (l : Launch) : State :=
  let q := firmwareParty l.ring l.session
  let va := l.image.toNat
  let ended' : StartStep → (State → State) → State := fun r f => match r with
    | .wait s => s
    | .fail s status => s.launchOver l status 0
    | .ok s => f s
  if s.firmware.failed then s.launchOver l 9 0
  else ended' (s.firmwareAccess l (cccNo 0) false va 64) fun s =>
    let head := s.engineBytes q va 64
    let h := headerOf head
    if headerBad head || l.mask == 0 then s.launchOver l 4 0
    else ended' (s.firmwareAccess l (cccNo 0) false va (64 + h.codeSize)) fun s =>
      if s.extentHeld l then s
      else ended' (s.dataReady l h) fun s =>
        match s.reserve l h.spillBytes with
        | none => s.launchOver l 3 0
        | some (l, plan, s) => s.startLaunch l h (s.engineBytes q (va + 64) h.codeSize) plan

/-- R66, R72, R440: a queued launch starts, or fails. -/
def execLaunchStart (i : Nat) (s : State) : Out :=
  .next (match s.launchBy i with
    | none => s
    | some l => if l.st == .queued then s.tryStart l else s)

/-! ## Retirement (R68, R103, R305, R360) -/

/-- An evaluation of a node of a launch. -/
def State.evalOf (s : State) (uid : Nat) (e : Eval) : Bool := (s.nodeOf e.node).any (·.launch == uid)

/-- R68: nothing of the launch runs any more but its unforced nodes. -/
def State.launchIdle (s : State) (l : Launch) : Bool :=
  l.keys.all (fun k => (s.ctxAt k).vacant)
    && l.units.all (fun u => (s.unitAt u).parked.isEmpty)
    && (clustersOf l.mask).all (fun c =>
      (s.clusterAt c).queues.all (fun q => q.2.entries.isEmpty)
        && (s.clusterAt c).streamCtl.all fun e => match e.st with
          | .waiting _ _ _ _ => false
          | .pushing _ _ _ _ => false
          | .free => true
          | .pending _ => true
          | .resident => true
          | .failed => true)
    && s.engs.all (fun r => r.launch != l.uid)

/-- R305: what becomes of the launch's nodes: true once none is left. -/
def State.settle (s : State) (l : Launch) : State × Bool :=
  let ns := s.nodes.filter (·.launch == l.uid)
  if ns.isEmpty then (s, true)
  else if s.evals.any (s.evalOf l.uid) && !l.settling then (s, false)
  else if l.hdr.flags.getLsbD 0 then
    let s := s.updLaunch l.uid fun l => { l with settling := true }
    let s := (clustersOf l.mask).foldl (fun s c => (ns.filter (·.cluster == c)).foldl (fun s n =>
      s.demandTiles n.handle n.suspended none none (some { kind := 5, key := n.key, slot := n.slot, addr := n.addr })) s) s
    (s, false)
  else
    (ns.foldl (fun s n =>
      let (s, ws) := s.poisonNode n.handle
      s.releaseAll ws) s, false)

/-- R360: walks of a launch leave their slots. -/
def State.dropWalks (s : State) (uid : Nat) : State := { s with walks := s.walks.filter (·.launch != uid) }

/-- R68, R75, R85: the units of a launch that is over. -/
def State.leaveUnit (s : State) (u : Nat) : State :=
  let s := { s with ctxs := s.ctxs.map fun (p : Nat × Ctx) => if unitOf p.1 == u then (p.1, p.2.freed) else p }
  s.updUnit u fun x => { x with
    cur := none, parked := [], spills := [], fills := [], l1 := [] }

/-- R471: a bank that the debug port has written loses its tag. -/
def State.dropDirty (s : State) (u : Nat) : State :=
  s.updUnit u fun x => { x with banks := x.banks.map fun (b : ImemBank) => if b.dirty then {} else b }

/-- R68, R103, R471: the L1s are written back, and the launch leaves. -/
def State.retire (s : State) (l : Launch) (status : Nat) (result : Addr) : State :=
  let s := s.writeBackAll l.units
  if !s.allClean l.units then s
  else
    let s := l.units.foldl (fun s u => (s.leaveUnit u).dropDirty u) (s.dropWalks l.uid)
    { s with dbg := { s.dbg with halted := s.dbg.halted.filter (·.1 != l.uid) } }.launchOver l status result

/-- R68, R305: a launch whose conditions all hold retires; one that a fatal fault has ended retires with
its status. -/
def execLaunchRetire (i : Nat) (s : State) : Out :=
  .next (match s.launchBy i with
    | none => s
    | some l =>
      match l.ending with
      | some e => s.retire l e.status e.result
      | none =>
        if l.st != .running || !s.launchIdle l || s.fatals.any (·.launch == i) then s
        else
          let (s, settled) := s.settle l
          if settled then s.retire l 0 0 else s)

/-! ## The fatal end of a launch (R88, R89) -/

/-- R440: RESULT of a launch that ended with a fatal fault. -/
def fatalResult (f : FatalReport) : Addr :=
  ad (f.cause + clusterOf (unitOf f.key) * 2 ^ 8 + coreOf (unitOf f.key) * 2 ^ 12 + ctxOf f.key * 2 ^ 16 + f.slot * 2 ^ 20
    + (if f.cause == 0x53 then f.inner * 2 ^ 24 else 0) + f.addr.toNat * 2 ^ 32)

/-- R88 step 2: the operations that a launch's engines have under way are abandoned. -/
def State.abandon (s : State) (l : Launch) : State :=
  let mine := (s.engs.filter (·.launch == l.uid)).map (·.id)
  let s := (s.relays.filter fun x => x.launch == l.uid && x.st == .active).foldl (fun s x =>
    s.haltRelay x 0 ((x.flights.head?.map Flight.n).getD x.next)) s
  let s := { s with
    engs := s.engs.filter (·.launch != l.uid)
    parts := s.parts.filter fun x => !mine.contains x.req
    sent := s.sent.filter fun x => !mine.contains x.req
    relaySent := s.relaySent.filter fun x => !mine.contains x.relay
    deferred := s.deferred.filter (!mine.contains ·), refused := s.refused.filter (!mine.contains ·)
    evals := s.evals.filter fun e => !s.evalOf l.uid e }
  let s := s.dropWalks l.uid
  (clustersOf l.mask).foldl (fun s c => s.updCluster c fun k => { k with
    halves := k.halves.map fun (h : Half) => match h.req with
      | none => h
      | some r => if !mine.contains r then h else if h.staged then {} else { h with req := none, lost := true } }) s

/-- R88 step 3: the launch's nodes are discarded, and their destinations POISON. -/
def State.discardNodes (s : State) (uid : Nat) : State :=
  let back (n : Node) : Node :=
    if n.launch != uid then n
    else { n with tiles := n.tiles.map fun t => if t == .evaluating then .suspended else t }
  let s := { s with nodes := s.nodes.map back }
  let s := (s.nodes.filter (·.launch == uid)).foldl (fun s n => (s.poisonNode n.handle).1) s
  { s with nodes := s.nodes.filter (·.launch != uid) }

/-- R88 steps 4 and 5: queues, kernels and contexts of a launch are cleared. -/
def State.clearTasks (s : State) (l : Launch) : State :=
  let s := (clustersOf l.mask).foldl (fun s c => s.updCluster c fun k => { k with
    queues := [], evWaiters := [], streamCtl := Vector.replicate 32 {} }) s
  (l.units.foldl (fun s u =>
    let s := { s with ctxs := s.ctxs.map fun (p : Nat × Ctx) => if unitOf p.1 == u then (p.1, p.2.freed) else p }
    s.updUnit u fun x => { x with cur := none, parked := [], arr := x.arr.launched }) s).debugDone

/-- R88: a fatal fault ends its launch, which then retires. A launch that does not run has its contexts
and tasks in save areas, which go with it. -/
def State.endFatal (s : State) (l : Launch) (f : FatalReport) : State :=
  let s := { s with fatals := s.fatals.filter (·.launch != l.uid) }
  let s := (s.abandon l).discardNodes l.uid
  if l.st == .preempted then s.launchOver l 5 (fatalResult f)
  else
    let ending : Ending := { status := 5, result := fatalResult f }
    (s.clearTasks l).updLaunch l.uid fun l => { l with st := .retiring, ending := some ending }

/-- R89: the report that names a launch's end: the least in (cluster, core, context) order. -/
def State.firstFatal (s : State) (uid : Nat) : Option FatalReport :=
  leastBy (·.key) (s.fatals.filter (·.launch == uid))

/-- R88, R89: a fatal fault of a launch has reached the management processor. -/
def execFatalFault (i : Nat) (s : State) : Out :=
  .next (match s.launchBy i, s.firstFatal i with
    | some l, some f =>
      if l.ending.isSome || l.st == .queued then { s with fatals := s.fatals.filter (·.launch != i) }
      else s.endFatal l f
    | none, some _ => { s with fatals := s.fatals.filter (·.launch != i) }
    | _, none => s)

/-! ## Pre-emption (R425) -/

/-- R78, R425 steps 1 to 3: a context that is not FREE is STOPPED at its bundle boundary: fixed-latency results are
latched, and what is not committed is taken back; a wait that has become a block stays. -/
def State.frozen (s : State) (key : Nat) (c : Ctx) : Ctx :=
  if c.st == .free then c
  else
    let held := if c.st == .stopped then c.held else if c.st == .issuing then .ready else c.st
    { (s.framed key).freeze s.cycle with
      st := .stopped, held, stopDue := false, stopAt := none, wait := if held == .blocked then c.wait else none }

/-- R264, R425: the contexts of a launch freeze. -/
def State.freezeLaunch (s : State) (l : Launch) : State :=
  let ks := l.keys
  let s := { s with
    ctxs := s.ctxs.map fun (p : Nat × Ctx) => if ks.contains p.1 then (p.1, s.frozen p.1 p.2) else p
    tags := s.tags.map fun (t : Nat × TagRec) => (t.1, { t.2 with waiters := t.2.waiters.filter fun w => w.engine != 0 || !ks.contains w.key }) }
  (l.units.foldl (fun s u => s.updUnit u fun x => { x with cur := none, arr := x.arr.frozen }) s).debugDone

/-- R114, R210, R425: a context may be saved: one that is bound becomes READY first, with its 64 words. Requests of
its relays that are held stay (R398; log entry 63). -/
def Ctx.saveable (c : Ctx) : Bool :=
  if c.st == .free then c.task.isNone else { c with reqs := c.reqs.filter (·.cls != 4) }.quiet

/-- R114, R304, R360, R398, R425: nothing of the launch is under way. -/
def State.launchStill (s : State) (l : Launch) : Bool :=
  l.keys.all (fun k => (s.ctxAt k).saveable)
    && l.units.all (fun u => (s.arrAt u).running.isEmpty && (s.arrAt u).deciding.isNone && (s.arrAt u).evaluator.isNone)
    && !s.evals.any (s.evalOf l.uid)
    && s.engs.all (fun r => r.launch != l.uid || r.cls == 4)
    && (s.relays.all fun x => x.launch != l.uid || x.flights.isEmpty)
    && s.fatals.all (·.launch != l.uid)

/-- R57, R425 step 4: every context of a launch that is not FREE is written to its own frame; what stays of each. -/
def State.saveCtxs (s : State) (l : Launch) : State × SMap Ctx :=
  l.keys.foldl (fun (acc : State × SMap Ctx) k =>
    let c := acc.1.ctxAt k
    if c.st == .free then acc
    else
      let (s, r) := acc.1.saveFrame l (unitOf k) (ctxOf k) c
      (s, acc.2.put k r)) (s, [])

/-- R264, R425: what a launch keeps while it is pre-empted, beside its contexts. -/
def State.savedWith (s : State) (l : Launch) (ctxs : SMap Ctx) : Saved :=
  let cs := clustersOf l.mask
  { ctxs
    arrs := l.units.map fun u => (u, { s.arrAt u with evalWaiting := [] })
    parked := l.units.map fun u => (u, (s.unitAt u).parked)
    spills := l.units.map fun u => (u, (s.unitAt u).spills)
    clusters := cs.map fun c => (c, s.clusterAt c)
    gens := slotsOf 1024 cs true s.gens
    walkGens := slotsOf 32 cs true s.walkGens, storerEnds := slotsOf 32 cs true s.storerEnds }

/-- R114, R425: once nothing is under way and the L1s are clean, the launch is saved and reported
pre-empted. -/
def State.preemptStep (s : State) (n : Nat) (l : Launch) : State :=
  let s := s.freezeLaunch l
  if !s.launchStill l then s
  else
    let s := s.writeBackAll l.units
    if !s.allClean l.units then s
    else
      let (s, ctxs) := s.saveCtxs l
      let saved := s.savedWith l ctxs
      let s := l.units.foldl (fun s u =>
        let s := s.leaveUnit u
        s.updUnit u fun x => { x with arr := x.arr.launched }) s
      let s := (clustersOf l.mask).foldl (fun s c => s.updCluster c ClusterSt.launched) s
      let s := s.updLaunch l.uid fun l => { l with st := .preempted, saved := some saved }
      s.complete n (s.ring n).tag 0 0xFFFF 0

/-- R425: a PREEMPT goes on; it ends with NOTRUN if its launch has ended. -/
def State.preemptTurn (s : State) (n uid : Nat) : State :=
  match s.launchBy uid with
  | none => s.complete n (s.ring n).tag 12 0xFFFF 0
  | some l => if l.st == .preempting then s.preemptStep n l else s.complete n (s.ring n).tag 12 0xFFFF 0

/-! ## Resumption (R304, R425, R443) -/

/-- R304: a launch's spilled nodes return to their slots; those of others that stand there are spilled. -/
def State.unspill (s : State) (uid : Nat) : State :=
  let homes := (s.nodes.filter fun n => n.launch == uid && n.mark != 0).map fun n => (n.cluster, n.index)
  let s := (s.launches.filter fun l => l.uid != uid).foldl (fun s l =>
    s.spillOf l fun n => homes.contains (n.cluster, n.index)) s
  s.moveNodes (fun n => n.launch == uid && n.mark != 0) fun n =>
    { n with st := if n.st == .spilled then .pending else n.st, mark := 0 }

/-- R84, R453: the pages of restored parked tasks are looked for again. -/
def State.askParked (s : State) (u session : Nat) : State :=
  let here (p : Parked) : Bool := (s.pageOf session p.page).any (·.present)
  let s := (s.unitAt u).parked.foldl (fun s p => if p.ready || here p then s else s.reportPage session p.page.toNat 0) s
  s.updUnit u fun x => { x with parked := x.parked.map fun p => if here p then { p with ready := true } else p }

/-- A map with the entries of another. -/
def putAll (m : SMap Nat) : SMap Nat → SMap Nat
  | [] => m
  | (k, v) :: rest => putAll (m.put k v) rest

/-- R57, R78, R425: a context returns from its frame; one that the debugger has stopped stays STOPPED. A frame that
may not be restored is a fatal fault of its launch. -/
def State.returnCtx (s : State) (l : Launch) (p : Nat × Ctx) : State :=
  match s.loadFrame l (unitOf p.1) (ctxOf p.1) p.2 with
  | none => s.fatalAt l.uid p.1 15 0x90 (unitsAddr p.2.pc) 0 0
  | some c => s.setCtx p.1 { c.thaw (s.cycle + 1) with
      st := if c.halt || c.stageh then .stopped else c.held, laps := (s.ctxAt p.1).laps, nextIssue := s.cycle + 1 }

/-- R99, R114, R425: a launch takes its extent again. -/
def State.resumeLaunch (s : State) (l : Launch) (v : Saved) : State :=
  let cs := clustersOf l.mask
  let s := cs.foldl (fun s c => s.clusterWorld c l.secure) s
  let s := { s with gens := putAll (slotsOf 1024 cs false s.gens) v.gens
                    walkGens := putAll (slotsOf 32 cs false s.walkGens) v.walkGens,
                    storerEnds := putAll (slotsOf 32 cs false s.storerEnds) v.storerEnds }
  let s := s.unspill l.uid
  let s := l.units.foldl (fun s u =>
    let s := s.loadCode u l.hdr.imageId l.code
    let retired := s.arrAt u
    let s := s.updUnit u fun x => { x with
      cur := none, mayIssue := s.cycle + 1, l1 := [], fills := []
      parked := v.parked.get [] u, spills := v.spills.get [] u
      arr := { v.arrs.get Arr.reset u with
        verdicts := retired.verdicts, cnt := retired.cnt, first := retired.first, retired := retired.retired
        applied := retired.applied, degraded := retired.degraded } }
    s.askParked u l.session) s
  let s := cs.foldl (fun s c => s.updCluster c fun k => { v.clusters.get {} c with
    busy := k.busy, stoBusy := k.stoBusy, halves := k.halves }) s
  let s := v.ctxs.foldl (fun s p => s.returnCtx l p) s
  s.updLaunch l.uid fun l => { l with st := .running, saved := none }

/-- R398: the slot of a relay that is held for a launch is taken by another. -/
def State.relaySlotsHeld (s : State) (uid : Nat) : Bool :=
  s.relays.any fun x => x.launch == uid && x.st == .active
    && s.relays.any fun y => y.id != x.id && y.stack == x.stack && y.slot == x.slot && s.relayBusy y

/-- R398, R443: a RESUME waits for the extent, and for the slots of the relays that are held; it ends when resumption has begun. -/
def State.resumeTurn (s : State) (n uid : Nat) : State :=
  match s.launchBy uid with
  | none => s.complete n (s.ring n).tag 12 0xFFFF 0
  | some l =>
    match l.st, l.saved with
    | .preempted, some v =>
      if s.extentHeld l || s.relaySlotsHeld uid then s else (s.resumeLaunch l v).complete n (s.ring n).tag 0 0xFFFF 0
    | _, _ => s.complete n (s.ring n).tag 12 0xFFFF 0

/-! ## PREEMPT and RESUME (R443) -/

/-- R443: the oldest unretired launch of a session with an id. -/
def State.launchNamed (s : State) (x : Nat) (id : Word) : Option Launch :=
  s.launches.find? fun l => l.session == x && l.id == id

/-- R425, R443. -/
def execPreempt (h : CmdHead) (id : Word) (s : State) : Out :=
  s.command h false fun x =>
    match s.launchNamed x id with
    | none => s.reply h 12
    | some l =>
      if l.st != .running then s.reply h 12
      else ((s.updLaunch l.uid fun l => { l with st := .preempting }).freezeLaunch l).startJob h (.preempt l.uid)

/-- R443. -/
def execUmostythResume (h : CmdHead) (id : Word) (s : State) : Out :=
  s.command h false fun x =>
    match s.launchNamed x id with
    | none => s.reply h 12
    | some l => if l.st != .preempted then s.reply h 12 else s.startJob h (.resume l.uid)

end Sys2Proof.Machine
end

