-- ==== Sys2Proof/Machine/Doorbell.lean ====
section
/-! DEFINITION. How command rings run: fetching a command, going on with one, the doorbell, PHEAD and the
reset of a ring (R435 to R437, R439). -/

namespace Sys2Proof.Machine

/-! ## Reading a command (R436, R439) -/

/-- R439: the fields of a command's parameters, by opcode; none for a reserved opcode. -/
def commandFields (op : Nat) : Option (List (Nat × Nat × Nat)) :=
  match op with
  | 0x01 => some [(8, 0, 64), (16, 0, 64), (24, 0, 10), (28, 0, 4), (32, 0, 64), (40, 0, 4), (40, 8, 6)]
  | 0x02 => some []
  | 0x03 => some [(8, 0, 64), (16, 0, 64), (24, 0, 64), (32, 0, 32), (40, 0, 64)]
  | 0x04 => some [(8, 0, 64), (16, 0, 64)]
  | 0x05 => some [(8, 0, 64), (16, 0, 64)]
  | 0x06 => some [(8, 0, 64), (16, 0, 64), (24, 0, 64)]
  | 0x07 => some blockFields
  | 0x08 => some [(8, 0, 64), (16, 0, 10), (20, 0, 32)]
  | 0x09 => some [(8, 0, 4), (12, 0, 4), (16, 0, 64), (24, 0, 32), (28, 0, 32), (32, 0, 6), (32, 8, 1)]
  | 0x0A => some [(8, 0, 6), (12, 0, 4), (16, 0, 64), (24, 0, 64)]
  | 0x0B => some [(8, 0, 4), (12, 0, 32), (16, 0, 4), (20, 0, 16), (24, 0, 6), (28, 0, 32)]
  | 0x0C => some [(8, 0, 32)]
  | 0x0D => some [(8, 0, 32)]
  | 0x0E => some [(8, 0, 256), (40, 0, 64)]
  | 0x0F => some [(8, 0, 4), (16, 0, 64)]
  | 0x10 => some [(8, 0, 64), (16, 0, 64)]
  | 0x11 => some [(8, 0, 4)]
  | 0x12 => some [(8, 0, 32)]
  | _ => none

/-- R436: a command's reserved bits are zero, and its opcode is one of R439. -/
def commandOk (x : Nat) : Bool :=
  match commandFields (cmdField x 0 0 8) with
  | none => false
  | some fs => cmdRest x ([(0, 0, 8), (2, 0, 16)] ++ fs) == 0

/-- R439: runs a command of 64 bytes. -/
def State.runCommand (s : State) (h : CmdHead) (x : Nat) : Out :=
  let n64 (off : Nat) : Addr := ad (cmdField x off 0 64)
  let n32 (off : Nat) : Word := BitVec.ofNat 32 (cmdField x off 0 32)
  let bits (off lo w : Nat) : BitVec w := BitVec.ofNat w (cmdField x off lo w)
  match cmdField x 0 0 8 with
  | 0x01 => execOpenSession h
      { peerTable := n64 8, windows := n64 16, ownId := bits 24 0 10, session := bits 28 0 3
        join := cmdField x 28 3 1 == 1, psBus := n64 32, psLog2 := bits 40 0 4, psVector := bits 40 8 6 } s
  | 0x02 => execCloseSession h s
  | 0x03 => execMapPages h { va := n64 8, bytes := n64 16, backing := n64 24, attr := n32 32, aperture := n64 40 } s
  | 0x04 => execUnmapPages h { va := n64 8, bytes := n64 16 } s
  | 0x05 => execHostpage h { va := n64 8, bus := n64 16 } s
  | 0x06 => execImage h { va := n64 8, bus := n64 16, bytes := n64 24 } s
  | 0x07 => execLaunch h (launchBlock x) s
  | 0x08 => execGraph h { va := n64 8, start := bits 16 0 10, limit := n32 20 } s
  | 0x09 => execRingCmd h
      { n := bits 8 0 4, log2 := bits 12 0 4, bus := n64 16, count := n32 24, time := n32 28, vector := bits 32 0 6
        en := cmdField x 32 8 1 == 1 } s
  | 0x0A => execQpair h { qp := bits 8 0 6, log2 := bits 12 0 4, sqBell := n64 16, cqBell := n64 24 } s
  | 0x0B => execNslot h
      { slot := bits 8 0 4, nsid := n32 12, lbas := bits 16 0 4, maxb := bits 20 0 16, qp := bits 24 0 6, tq := n32 28 } s
  | 0x0C => execPreempt h (n32 8) s
  | 0x0D => execUmostythResume h (n32 8) s
  | 0x0E => execAttest h { nonce := BitVec.ofNat 256 (cmdField x 8 0 256), bus := n64 40 } s
  | 0x0F => execQuery h { item := bits 8 0 4, bus := n64 16 } s
  | 0x10 => execPatch h { bus := n64 8, bytes := n64 16 } s
  | 0x11 => execPortreset h (bits 8 0 4) s
  | 0x12 => execPower h (n32 8) s
  | _ => .next (s.reply h 1)

/-- R435: the bus address of the command at an index. -/
def CmdRing.slotAt (r : CmdRing) (i : Word) : Nat := r.cbase.toNat + 64 * (i.toNat % 2 ^ r.csize.toNat)

/-- R435 to R437: the next command is fetched and started. A malformed one ends with BADCMD, unless the
module is failed. -/
def State.fetchCommand (s : State) (n : Nat) : Out :=
  let r := s.ring n
  let bs := s.hostGet (r.slotAt r.chead) 64
  let s := s.setRing n { r with chead := r.chead + 1 }
  match bs with
  | none => .next (s.violate.reply { ring := n, tag := 0 } 1)
  | some bs =>
    let x := leNat bs
    let h : CmdHead := { ring := n, tag := BitVec.ofNat 16 (cmdField x 2 0 16) }
    let op := cmdField x 0 0 8
    if s.firmware.failed && op != 0x0E && op != 0x0F then .next (s.reply h 9)
    else if commandOk x then s.runCommand h x else .next (s.reply h 1)

/-! ## A ring's turn (R437) -/

/-- R437: a ring's posts are written, its command goes on, or its next command starts. -/
def State.ringTurn (s : State) (n : Nat) : Out :=
  let s := (s.flushPosts n (s.ring n).posts).ringIdle n
  let r := s.ring n
  match r.job with
  | .idle =>
    if r.en && !r.rst && r.posts.isEmpty && r.chead != r.ctail && s.firmware.ready then s.fetchCommand n else .next s
  | .launch _ => .next s
  | .image p =>
    match r.session with
    | some x => .next (s.imageStep n x p)
    | none => .next (s.complete n r.tag 2 0xFFFF 0)
  | .graph _ => s.graphTurn n
  | .preempt uid => .next (s.preemptTurn n uid)
  | .resume uid => .next (s.resumeTurn n uid)

/-- R435: a write to CTAIL is the doorbell; during a reset of the ring it is ignored. -/
def execCommandDoorbell (ring : Nat) (tail : Word) (s : State) : Out :=
  let r := s.ring ring
  if r.rst then .next s else (s.setRing ring { r with ctail := tail }).ringTurn ring

/-- R435, R437: the host has consumed completion entries. -/
def execPheadWrite (ring : Nat) (v : Word) (s : State) : Out :=
  let s := s.setRing ring { s.ring ring with phead := v }
  .next ((s.flushPosts ring (s.ring ring).posts).ringIdle ring)

/-- R437: the completions of the commands between CHEAD and CTAIL, ABORTED, in ring order. -/
def State.aborted (s : State) (r : CmdRing) : (fuel : Nat) → Word → State × List Completion
  | 0, _ => (s, [])
  | fuel + 1, i =>
    if i == r.ctail then (s, [])
    else match s.hostGet (r.slotAt i) 64 with
      | none =>
        let (s, cs) := State.aborted s.violate r fuel (i + 1)
        (s, { tag := 0, status := 11 } :: cs)
      | some bs =>
        let (s, cs) := State.aborted s r fuel (i + 1)
        (s, { tag := BitVec.ofNat 16 (cmdField (leNat bs) 2 0 16), status := 11 } :: cs)

/-- R437: RST. -/
def execRingReset (ring : Nat) (s : State) : Out :=
  let r := s.ring ring
  if r.rst then .next s
  else
    let (s, cs) := s.aborted r (2 ^ r.csize.toNat) r.chead
    let s := s.setRing ring { r with rst := true, chead := r.ctail, posts := r.posts ++ cs }
    let s := (s.flushPosts ring (s.ring ring).posts).graphStop ring
    .next (s.ringIdle ring)

end Sys2Proof.Machine
end

