-- ==== Sys2Proof/Machine/System.lean ====
section
/-! DEFINITION. The module as a whole: die-to-die boundaries, the limiter and the clock, failure, and resets
(R11 to R13, R17, R262, R319, R461 to R463). -/

namespace Sys2Proof.Machine

/-! ## Failure (R11, R462) -/

/-- R88, R462: every running or pre-empted launch ends with MODFAIL. No unit raised it, so its coordinate
is zero (log entry 17). -/
def State.endLaunches (s : State) : State :=
  { s with fatals := s.fatals ++ (s.launches.filter fun l => l.st != .queued && l.ending.isNone).map fun l =>
      { launch := l.uid, cause := 0x94, key := 0, slot := 0, addr := 0 } }

/-- R462: the module fails. -/
def State.fails (s : State) (f : Firmware → Firmware) : State :=
  { s with firmware := f { s.firmware with failed := true } }.endLaunches

/-- R11: a copy of a boundary's present flit fails its CRC; the ninth fails the boundary. -/
def execFlitCrcFail (boundary : Nat) (s : State) : Out :=
  let n := s.boundaryFlits.get 0 boundary + 1
  .next (if 4 ≤ boundary then s
    else if n < 9 then { s with boundaryFlits := s.boundaryFlits.put boundary n }
    else { s with boundaryFlits := s.boundaryFlits.del boundary }.fails fun f =>
      { f with bfail := setBit f.bfail boundary true })

/-- R462: a junction temperature of 110 °C. -/
def execThermalTrip (s : State) : Out := .next (s.fails fun f => { f with ttrip := true })

/-! ## The clock (R12, R17, R319, R463) -/

/-- R12: the nominal core clock, and the rate of MTC (R13). -/
def nominalHz : Nat := 2700000000

/-- R319: a lowering of the core clock is announced 4,096 ticks ahead. -/
def State.announce (s : State) (hz : Nat) : State :=
  if s.announced.isNone && 0 < hz && hz < s.clock then { s with announced := some (hz, s.mtc.toNat + 4096) } else s

/-- R319. -/
def execClockLoweringAnnounce (hz : Nat) (s : State) : Out := .next (s.announce hz)
/-- R463: a junction temperature of 100 °C makes the limiter lower the clock, as R319 says. -/
def execThermalThrottle (hz : Nat) (s : State) : Out := .next (s.announce hz)
/-- R319, R320: the announced lowering takes effect; it may break the promises of requests that had issued
before it was announced. -/
def execClockLoweringApply (s : State) : Out :=
  .next (match s.announced with
    | none => s
    | some (hz, t) =>
      if t ≤ s.mtc.toNat then
        { s with clock := min s.clock hz, announced := none
                 engs := s.engs.map fun r => { r with slow := r.slow || !r.warned, warned := false } }
      else s)
/-- R319: the clock rises, unannounced, up to its nominal value. -/
def execClockRaise (hz : Nat) (s : State) : Out :=
  .next (if s.clock < hz && hz ≤ nominalHz then { s with clock := hz } else s)

/-! ## Resets (R262, R461) -/

/-- R262: a physical row is retired, or with no spare left the core is degraded. -/
def Arr.retireRow (a : Arr) (p : Nat) : Arr :=
  if a.retired.contains p then a
  else if a.retired.length < 3 then { a with retired := a.retired ++ [p] }
  else { a with degraded := true }

/-- R262: the built-in array test of a core. -/
def Arr.selfTest (a : Arr) (core : Nat) : Arr :=
  let a := { Arr.reset with retired := a.retired, degraded := a.degraded }
  (((List.range 132).filter (Config.arrayTestBad core)).foldl Arr.retireRow a).applyRetired

/-- R262: a unit after the bring-up: what the management processor's record says of its array stays. -/
def State.testedUnit (s : State) (u : Nat) : UnitSt :=
  { UnitSt.reset u with arr := (s.arrAt u).selfTest (8 * clusterOf u + coreOf u) }

/-- The numbers of the cores. -/
def coreUnits : List Nat := (List.range 16).flatMap fun c => (List.range 8).map (unitNo c)

/-- R459, R461: firmware after bring-up: the staged patch is applied. -/
def Firmware.broughtUp (f : Firmware) : Firmware := { staged := f.staged, active := f.staged }

/-- Cells of the host's memory. -/
def hostCells (m : List Host.Cell) : List Host.Cell := m.filter fun c => busKey 0 ≤ c.1 && c.1 < busKey (2 ^ 64)

/-- R461: the module is reset and brings itself up; host memory, the record of the array health and a
staged patch stay. -/
def State.moduleReset (s : State) : State :=
  { State.reset with
    inputs := s.inputs, choices := s.choices, freeCount := s.freeCount, nextUid := s.nextUid
    signals := s.signals, mem := hostCells s.mem, firmware := s.firmware.broughtUp
    units := coreUnits.map fun u => (u, s.testedUnit u) }

/-- R461: a write to RESET. -/
def execModuleReset (s : State) : Out := .next s.moduleReset
/-- R461: a PCIe Function Level Reset. -/
def execFunctionLevelReset (s : State) : Out := .next s.moduleReset
/-- R461: a conventional reset, which also retrains the host link. -/
def execConventionalReset (s : State) : Out := .next s.moduleReset

end Sys2Proof.Machine
end

