-- ==== Sys2Proof/Machine/Debug.lean ====
section
/-! DEFINITION. The debug port: its operations on contexts, registers, stages and instruction memory, and
the trace's samples (R465 to R473, R476 to R479). -/

namespace Sys2Proof.Machine

/-! ## Targets (R465, R466) -/

/-- R465: the running or pre-empted launch of the debugged session whose extent holds a cluster; the one
that runs there comes first. -/
def State.debugLaunch (s : State) (cluster : Nat) : Option Launch :=
  if !s.dbg.en then none
  else
    let mine (l : Launch) : Bool := l.session == s.dbg.dsess.toNat && l.mask.getLsbD cluster
    match s.launches.find? fun l => mine l && l.live with
    | some l => some l
    | none => s.launches.find? fun l => mine l && l.st == .preempted

/-- R465: writes the status of an operation. -/
def State.debugStat (s : State) (n : BitVec 4) : State := { s with dbg := { s.dbg with dstat := n } }

/-- R465: writes a result, with the status DONE. -/
def State.debugOut (s : State) (x : Addr) : State := { s with dbg := { s.dbg with ddata := x, dstat := 0 } }

/-- R465: an operation on a launch, with the cluster it names: NOLAUNCH and SECURE. -/
def State.debugOn (s : State) (cluster : Nat) (run : Launch → State) : Out :=
  .next (if s.dbg.dstat == 15 then s
    else match s.debugLaunch cluster with
      | none => s.debugStat 5
      | some l =>
        if s.worlds.getLsbD cluster && !(s.sessions.get {} s.dbg.dsess.toNat).secure then s.debugStat 6
        else run l)

/-- The unit that an operation names. -/
def dbgUnit (f : DbgF) : Nat := unitNo f.cluster.toNat f.core.toNat
/-- The context that an operation names. -/
def dbgKey (f : DbgF) : Nat := 8 * dbgUnit f + f.context.toNat
/-- R466: the fields that name a context are in range. -/
def dbgFields (f : DbgF) : Bool := f.core.toNat ≤ 8 && f.context.toNat < ctxCount (dbgUnit f)

/-- R465: a context of a launch, from its frame when the launch is pre-empted. -/
def State.debugCtx (s : State) (l : Launch) (key : Nat) : Ctx :=
  if l.saved.isSome then s.savedCtx l key else s.ctxAt key

/-- R465: replaces a context of a launch. -/
def State.setDebugCtx (s : State) (l : Launch) (key : Nat) (c : Ctx) : State :=
  if l.saved.isSome then s.setSaved l key c else s.setCtx key c

/-- R78: a context is STOPPED: by the debugger, or because its launch is pre-empted. -/
def State.debugStopped (s : State) (l : Launch) (key : Nat) : Bool :=
  (s.debugCtx l key).st == .stopped

/-- R465, R466: an operation on a context: BADTGT for a field out of range. -/
def State.debugAt (s : State) (f : DbgF) (run : Launch → Nat → State) : Out :=
  s.debugOn f.cluster.toNat fun l => if dbgFields f then run l (dbgKey f) else s.debugStat 4

/-! ## Halting and resuming (R466, R467, R469, R473) -/

/-- R467: a context of a launch is to stop. -/
def State.debugStop (s : State) (l : Launch) (key : Nat) (mark : Ctx → Ctx) : State :=
  let c := mark (s.debugCtx l key)
  match c.st with
    | .free => s
    | .stopped => s.setDebugCtx l key c
    | .issuing => s.setCtx key { c with stopDue := true }
    | .ready => (s.setCtx key c).stopCtx key 15 0x97
    | .blocked => (s.setCtx key c).stopCtx key 15 0x97
    | .draining => (s.setCtx key c).stopCtx key 15 0x97

/-- R467: HALT. The operation on a context that does not stop at once is complete once it has stopped. -/
def execHalt (f : DbgF) (s : State) : Out :=
  s.debugAt f fun l key =>
    let c := s.debugCtx l key
    if c.st == .free then s.debugStat 4
    else
      let waits := l.saved.isNone && c.st != .stopped && (c.st == .issuing || c.vectorsFly)
      (s.debugStat (if waits then 15 else 0)).debugStop l key fun c => { c with halt := true }

/-- R78, R469: a context that the debugger no longer stops goes on in the state held before the stop, ISSUING as
READY; while its launch is pre-empted (`runs` is false) it stays STOPPED. -/
def Ctx.goes (c : Ctx) (runs : Bool) (cycle : Nat) : Ctx :=
  if c.halt || c.stageh then c
  else { c with st := if !runs then c.st else if c.held == .issuing then .ready else c.held
                trapHeld := false, nextIssue := cycle + 1 }

/-- R78: the launch is neither pre-empted nor being pre-empted. -/
def Launch.runs (l : Launch) : Bool := l.st == .running || l.st == .retiring

/-- R466: a context that the debugger stopped resumes, or with `step` for one bundle. -/
def State.debugResume (s : State) (l : Launch) (key : Nat) (step : Bool) : State :=
  let c := s.debugCtx l key
  if !c.halt then s
  else
    let c := { c with halt := false, ignoreB := s.dbg.ddata.getLsbD 0, stepping := step && !c.stageh }
    s.setDebugCtx l key (c.goes l.runs s.cycle)

/-- R466: RESUME. -/
def execDebugResume (f : DbgF) (s : State) : Out :=
  s.debugAt f fun l key => (if s.debugStopped l key then s.debugResume l key false else s).debugStat 0
/-- R466: STEP. -/
def execStepCtx (f : DbgF) (s : State) : Out :=
  s.debugAt f fun l key =>
    if s.debugStopped l key then (s.debugResume l key true).debugStat 0 else s.debugStat 2

/-- R473: a core context of a launch holds a task of a stage. -/
def State.inStage (s : State) (l : Launch) (stage key : Nat) : Bool :=
  !isCcc (unitOf key) && (match (s.debugCtx l key).task with
    | some t => t.stage.toNat == stage
    | none => false)

/-- R473: the stage that an operation names, when the launch has it. -/
def stageOf (l : Launch) (f : DbgF) : Option Nat :=
  if f.context.toNat ≤ l.hdr.stage then some f.context.toNat else none

/-- R473: HALTSTAGE. -/
def execHaltstage (f : DbgF) (s : State) : Out :=
  s.debugOn f.cluster.toNat fun l =>
    match stageOf l f with
    | none => s.debugStat 4
    | some n =>
      let ks := l.keys.filter (s.inStage l n)
      let dbg := { s.dbg with halted := if s.dbg.halted.contains (l.uid, n) then s.dbg.halted else s.dbg.halted ++ [(l.uid, n)] }
      let s := { s with dbg }
      let s := ks.foldl (fun s k => match s.launchBy l.uid with
        | some l => s.debugStop l k fun c => { c with stageh := true }
        | none => s) s
      s.debugStat (if l.saved.isNone && ks.any (fun k => (s.ctxAt k).stopDue) then 15 else 0)

/-- R473: a context of a stage whose halt ends. -/
def Ctx.stageGoes (c : Ctx) (runs : Bool) (cycle : Nat) : Ctx :=
  if !c.stageh then c
  else if c.st == .stopped then { c with stageh := false }.goes runs cycle
  else { c with stageh := false, stopDue := c.stopDue && c.halt }

/-- R473: a parked task is of a stage. -/
def Parked.ofStage (n : Nat) (p : Parked) : Bool := p.ctx.task.any (·.stage.toNat == n)
/-- R473: a task whose stage's halt ends is no longer marked. -/
def Ctx.unmarked (c : Ctx) : Ctx := { c with stageh := false }

/-- R473: parked tasks of a stage are no longer marked, in their frames. -/
def State.unmarkParked (s : State) (l : Launch) (n : Nat) : State :=
  match l.saved with
  | none => l.units.foldl (fun s u => s.updParked l u (Parked.ofStage n) Ctx.unmarked) s
  | some v =>
    let (s, ps) := v.parked.foldl (fun (acc : State × SMap (List Parked)) p =>
      let (s, qs) := acc.1.mapParked l p.1 (Parked.ofStage n) Ctx.unmarked p.2
      (s, acc.2.put p.1 qs)) (s, [])
    s.updLaunch l.uid fun l => { l with saved := l.saved.map fun v => { v with parked := ps } }

/-- R473: RUNSTAGE. -/
def execRunstage (f : DbgF) (s : State) : Out :=
  s.debugOn f.cluster.toNat fun l =>
    match stageOf l f with
    | none => s.debugStat 4
    | some n =>
      let s := { s with dbg := { s.dbg with halted := s.dbg.halted.filter (· != (l.uid, n)) } }
      let ks := l.keys.filter (s.inStage l n)
      let s := ks.foldl (fun s k => match s.launchBy l.uid with
        | some l => s.setDebugCtx l k ((s.debugCtx l k).stageGoes l.runs s.cycle)
        | none => s) s
      (s.unmarkParked ((s.launchBy l.uid).getD l) n).debugStat 0

/-! ## Registers (R468, R469, R470) -/

/-- What a register access of the debug port comes to. -/
inductive DebugReg where
  | value (x : Addr)
  | gated
  | bad

/-- A 32-bit value in DDATA. -/
def regWord (w : Word) : DebugReg := .value (w.setWidth 64)

/-- R468: an entry of a run vector. -/
def runEntry (r : RunVec) (i : Nat) : DebugReg :=
  if 128 ≤ i then .bad
  else match r[i]? with
    | some (w, n) => .value (ad (w.toNat + n % 2 ^ 11 * 2 ^ 32))
    | none => .value 0

/-- R468: a lap counter. -/
def lapReg (l : Laps) (num : Nat) : DebugReg :=
  let cls := num / 2 ^ 10
  let bucket := num / 2 ^ 4 % 2 ^ 4
  let n := num % 2 ^ 4
  let ok := num / 2 ^ 8 % 2 ^ 2 == 0 && (match cls with
    | 0 => bucket ≤ 8 && n ≤ 9
    | 1 => bucket ≤ 8 && n ≤ 9
    | 2 => bucket == 0 && n ≤ 10
    | _ => bucket == 0 && n ≤ 4)
  if ok then regWord (l.read cls bucket n) else .bad

/-- R468: a register is gated for a launch; a CCC's never are. -/
def dbgGated (l : Launch) (key : Nat) (file : RegFile) (n : Nat) : Bool := !isCcc (unitOf key) && l.hdr.gated file n

/-- R468: a system register that a context of a unit has and that may be read. -/
def dbgSysReadable (key num : Nat) : Bool := sysReadable num && (num < 0x100 || isCcc (unitOf key))

/-- R468: the value of a system register of a context, from its frame when the launch is pre-empted. -/
def State.debugSys (s : State) (l : Launch) (key num : Nat) : Word :=
  let s := match l.saved with
    | none => s
    | some v =>
      let c := clusterOf (unitOf key)
      { s.setCtx key (s.savedCtx l key) with clusters := s.clusters.put c (v.clusters.get {} c) }
  match num with
  | 0x21 => BitVec.ofNat 32 l.hdr.sprint
  | 0x30 => l.hdr.flags.setWidth 32
  | n => s.sysRead key n

/-- R468: what RDREG reads. -/
def State.debugRead (s : State) (l : Launch) (key file num : Nat) : DebugReg :=
  let c := s.debugCtx l key
  let ccc := isCcc (unitOf key)
  match file with
  | 0 => if 32 ≤ num then .bad else if dbgGated l key .s num then .gated else regWord (c.bank.s.getD num 0)
  | 1 => if 16 ≤ num then .bad else regWord (c.bank.t.getD num 0)
  | 2 => if 16 ≤ num then .bad else .value (c.bank.a.getD num 0)
  | 3 =>
    if ccc then .bad
    else if dbgGated l key .v (num / 2 ^ 7) then .gated
    else runEntry (c.bank.v.getD (num / 2 ^ 7) []) (num % 2 ^ 7)
  | 4 => if ccc || 8 ≤ num then .bad else regWord (c.bank.q.getD num (Pred.full l.hdr.vl)).word
  | 5 =>
    if 2 ^ 8 ≤ num then .bad
    else if dbgGated l key .d (num / 2 ^ 4) then .gated
    else regWord (dWord (dSeen (c.bank.d.getD (num / 2 ^ 4) 0)) (num % 2 ^ 4))
  | 6 => if dbgSysReadable key num then regWord (s.debugSys l key num) else .bad
  | 7 => lapReg (s.ctxAt key).laps num
  | 8 =>
    if 32 ≤ num then .bad
    else regWord (c.controlWord (if l.saved.isNone then s.pendingTarget key else c.target.getD 0) num)
  | _ => .bad

/-- R55, R468: an access to a register of a drowsy bank wakes it and takes 2 more cycles; a saved context
has no bank. The 1,024 cycles then begin again (DESIGN CHOICE, notes/assumptions/50.md). -/
def State.debugWake (s : State) (l : Launch) (key file : Nat) : State :=
  if l.saved.isNone && file ≤ 5 && s.isDrowsy key && s.dbg.dstat != 15 then
    let s := s.updCtx key fun c => { c with drowsy := false, lastIssue := s.cycle }
    { s with dbg := { s.dbg with dstat := 15, late := some (s.cycle + 2, s.dbg.dstat) } }
  else s

/-- R55, R465: the access that a drowsy bank made late completes. -/
def State.debugTurn (s : State) : State :=
  match s.dbg.late with
  | none => s
  | some (t, n) => if t ≤ s.cycle then { s with dbg := { s.dbg with dstat := n, late := none } } else s

/-- R468: RDREG. -/
def execRdreg (f : DbgF) (s : State) : Out :=
  s.debugAt f fun l key =>
    match s.debugRead l key f.file.toNat f.num.toNat with
    | .bad => s.debugStat 4
    | r =>
      if !s.debugStopped l key then s.debugStat 2
      else match r with
        | .value x => (s.debugOut x).debugWake l key f.file.toNat
        | .gated => ((s.debugOut 0).debugStat 3).debugWake l key f.file.toNat
        | .bad => s.debugStat 4

/-- R467: a register of a context has a pending write. -/
def Ctx.writePending (c : Ctx) (file : RegFile) (n : Nat) : Bool :=
  let hits (p : Pending) : Bool := p.vals.any fun v => v.dest == some (file, n)
  c.pend.any hits || (c.latches.any fun l => hits l.pend) || (file == .s && n != 0 && c.atomics.any (·.dest == n))

/-- R469: a write of TADDR: in the handler, as by a program; a context stopped at its handler's entry goes
straight to the named bundle. -/
def Ctx.writeTaddr (c : Ctx) (w : Word) : Ctx :=
  if c.trapHeld then
    { c with pc := bytesAddr w, done := 0, dly := false, target := none, after := {}, yieldDue := false
             trap := { c.trap.setAddr w with inh := false } }
  else if c.trap.inh then { c with trap := c.trap.setAddr w }
  else c

/-- What a debug write comes to. -/
inductive DebugWrite where
  | ctx (file : RegFile) (num : Nat) (f : Ctx → Ctx)
  | sys (num : Nat)
  | gated
  | bad

/-- R468: what WRREG writes. -/
def debugWrite (l : Launch) (key file num : Nat) (x : Addr) : DebugWrite :=
  let w : Word := x.setWidth 32
  let ccc := isCcc (unitOf key)
  match file with
  | 0 =>
    if 32 ≤ num then .bad else if dbgGated l key .s num then .gated
    else .ctx .s num fun c => { c with bank := c.bank.land (.s num w) }
  | 2 => if 16 ≤ num then .bad else .ctx .a num fun c => { c with bank := c.bank.land (.a num x) }
  | 4 =>
    if ccc || 8 ≤ num || num == 0 then .bad
    else .ctx .q num fun c => { c with bank := c.bank.land (.q num (Pred.ofWord w)) }
  | 5 =>
    if 2 ^ 8 ≤ num then .bad else if dbgGated l key .d (num / 2 ^ 4) then .gated
    else .ctx .d (num / 2 ^ 4) fun c => { c with
      bank := c.bank.land (.d (num / 2 ^ 4) (dSetWord (c.bank.d.getD (num / 2 ^ 4) 0) (num % 2 ^ 4) w)) }
  | 6 =>
    if num == 0x11 then .ctx .s 0 fun c => c.writeTaddr w
    else if sysWritable num && (num < 0x100 || ccc) && !wrsysBad num w then .sys num
    else .bad
  | 8 => if num == 0 then .ctx .s 0 fun c => c.writeTaddr w else .bad
  | _ => .bad

/-- R161, R403, R468: a system register of a context is written, in its frame when the launch is
pre-empted. -/
def State.debugSysWrite (s : State) (l : Launch) (key num : Nat) (w : Word) : State :=
  match l.saved with
  | none => s.sysWrite key num w
  | some v =>
    let c := clusterOf (unitOf key)
    let t := { s.setCtx key (s.savedCtx l key) with clusters := s.clusters.put c (v.clusters.get {} c) }.sysWrite key num w
    let s := s.updLaunch l.uid fun l => { l with saved := some { v with clusters := v.clusters.put c (t.clusterAt c) } }
    s.setSaved ((s.launchBy l.uid).getD l) key (t.ctxAt key)

/-- R467, R468: WRREG. -/
def execWrreg (f : DbgF) (s : State) : Out :=
  s.debugAt f fun l key =>
    match debugWrite l key f.file.toNat f.num.toNat s.dbg.ddata with
    | .bad => s.debugStat 4
    | r =>
      if !s.debugStopped l key then s.debugStat 2
      else match r with
        | .ctx file n g =>
          if (s.debugCtx l key).writePending file n then s.debugStat 1
          else ((s.setDebugCtx l key (g (s.debugCtx l key))).debugStat 0).debugWake l key f.file.toNat
        | .sys n => (s.debugSysWrite l key n (s.dbg.ddata.setWidth 32)).debugStat 0
        | .gated => (s.debugStat 3).debugWake l key f.file.toNat
        | .bad => s.debugStat 4

/-! ## Breaks and counters (R466, R471) -/

/-- R471: a header with its B bit set or cleared: its second byte, of which B is bit 4. -/
def breakByte (b : Byte) (on : Bool) : Byte := setBit b 4 on

/-- R471: the bit is written in a unit's instruction memory, and its bank is marked. For a pre-empted
launch whose place another launch has taken, in the code that its resumption loads. -/
def State.writeBreak (s : State) (l : Launch) (u : Nat) (on : Bool) : State :=
  let off := 2 * (s.dbg.ddata.setWidth 32 : Word).toNat + 1
  let k := (s.unitAt u).codeBase + off
  let code := match l.code[off]? with
    | some b => l.code.set off (breakByte b on)
    | none => l.code
  let s := if l.saved.isSome then s.updLaunch l.uid fun l => { l with code } else s
  if l.saved.isSome && (s.launchOn (clusterOf u)).isSome then s
  else if 2 ^ 18 ≤ k then s
  else
    let s := { s with mem := memWrite s.mem (imemKey u k) [breakByte (memGet s.mem (imemKey u k)) on] }
    s.updUnit u fun x => { x with
      banks := x.banks.setIfInBounds (k / 65536) { x.banks.getD (k / 65536) {} with dirty := true } }

/-- R466: the fields that name a unit are in range. -/
def State.debugUnit (s : State) (f : DbgF) (run : Launch → State) : Out :=
  s.debugOn f.cluster.toNat fun l => if f.core.toNat ≤ 8 then run l else s.debugStat 4

/-- R471: SETBRK. -/
def execSetbrk (f : DbgF) (s : State) : Out := s.debugUnit f fun l => (s.writeBreak l (dbgUnit f) true).debugStat 0
/-- R471: CLRBRK. -/
def execClrbrk (f : DbgF) (s : State) : Out := s.debugUnit f fun l => (s.writeBreak l (dbgUnit f) false).debugStat 0

/-- R474: LAPCLR. -/
def execLapclr (f : DbgF) (s : State) : Out :=
  s.debugAt f fun _ key => (s.updCtx key fun c => { c with laps := Laps.zero }).debugStat 0

/-! ## Samples (R479) -/

/-- R479: the lowest slot of the bundle at which a context stands that is not done, or 15. -/
def State.sampleSlot (s : State) (key : Nat) : Nat :=
  let c := s.ctxAt key
  if !c.opened && c.done == 0 then 15
  else ((List.range 10).find? fun i => (s.headerAt key c.pc).getLsbD i && !c.done.getLsbD i).getD 15

/-- R479: the state that a sample shows; DRAINING, which has no code, as BLOCKED (log entry 18). -/
def sampleState : CtxState → Nat
  | .issuing => 0
  | .ready => 1
  | .blocked => 2
  | .stopped => 3
  | .draining => 2
  | .free => 0

/-- R479: a sample record of a context. -/
def State.sampleOf (s : State) (key : Nat) : State :=
  let c := s.ctxAt key
  if c.st == .free || !s.traces key 2 then s
  else s.traceRecord (s.traceHead 1 16 ++ s.coordWord key (s.sampleSlot key) (sampleState c.st)
    ++ leBytes 4 (unitsAddr c.pc).toNat)

/-- R13: the ticks that MTC took in the last cycle. -/
def State.lastTicks (s : State) : Nat := (nominalHz - s.mtcFrac + s.clock - 1) / s.clock

/-- R479: MTC has come to a multiple of the sample period. -/
def State.sampleDue (s : State) : Bool :=
  s.dbg.en && s.dbg.tctl.getLsbD 0 && s.dbg.tctl.getLsbD 2
    && s.mtc.toNat % 2 ^ (s.dbg.tctl.extractLsb' 8 5).toNat < s.lastTicks

/-- R476, R479: every context of the session's launches writes a sample. -/
def execTraceSample (s : State) : Out :=
  .next (if !s.sampleDue then s
    else ((s.launches.filter fun l => l.live && l.session == s.dbg.dsess.toNat).flatMap Launch.keys).foldl
      State.sampleOf s)

end Sys2Proof.Machine
end

