-- ==== Sys2Proof/Machine/Registers.lean ====
section
/-! DEFINITION. What the host reads and writes: BAR0, BAR4, the two vendor-specific capabilities, and BAR2
(R104, R112, R300, R431 to R433, R435, R442, R465). -/

namespace Sys2Proof.Machine

/-! ## Register space: BAR0 (0), BAR4 (1), the host windows (2) and the debug port (3) -/

/-- R432: STATUS. -/
def State.statusReg (s : State) : Addr :=
  let f := s.firmware
  let bit (b : Bool) (n : Nat) : Nat := if b then 2 ^ n else 0
  ad (bit f.ready 0 + bit f.failed 1 + bit (s.clock < nominalHz) 2 + bit f.active.isSome 3 + f.bfail.toNat * 2 ^ 4
    + bit f.ttrip 8)

/-- Half of a 64-bit register. -/
def wordHalf (x : Addr) (high : Bool) : Word := if high then (x >>> 32).setWidth 32 else x.setWidth 32
/-- A 64-bit register with half of it replaced. -/
def withHalf (x : Addr) (high : Bool) (w : Word) : Addr :=
  if high then w ++ (x.setWidth 32 : Word) else (x >>> 32).setWidth 32 ++ w

/-- R435: CTL. -/
def CmdRing.ctl (r : CmdRing) : Word :=
  BitVec.ofNat 32 ((if r.en then 1 else 0) + r.vector.toNat * 2 + (if r.rst then 2 ^ 31 else 0))

/-- R435: a word of a ring's registers. -/
def CmdRing.read (r : CmdRing) (off : Nat) : Word :=
  match off with
  | 0x00 => wordHalf r.cbase false
  | 0x04 => wordHalf r.cbase true
  | 0x08 => r.csize.setWidth 32
  | 0x0C => r.ctail
  | 0x10 => r.chead
  | 0x18 => wordHalf r.pbase false
  | 0x1C => wordHalf r.pbase true
  | 0x20 => r.psize.setWidth 32
  | 0x24 => r.phead
  | 0x28 => r.ptail
  | 0x2C => r.ctl
  | _ => 0

/-- R431, PCIe: a word of an MSI-X entry. -/
def MsixEntry.read (e : MsixEntry) (i : Nat) : Word :=
  match i with
  | 0 => wordHalf e.addr false
  | 1 => wordHalf e.addr true
  | 2 => e.data
  | _ => if e.masked then 1 else 0

/-- The ring whose registers hold an offset of BAR0 or BAR4, and the place in them. -/
def ringAt (space : BitVec 2) (off : Nat) : Option (Nat × Nat) :=
  if 0x1000 ≤ off && off < 0x1000 + 64 * (if space == 0 then 28 else 4) then
    some ((off - 0x1000) / 64 + (if space == 0 then 0 else 28), off % 64)
  else none

/-- R447: the token ring whose TCONS stands at an offset of BAR0: session and ring. -/
def tconsAt (off : Nat) : Option (Nat × Nat) :=
  if 0x3000 ≤ off && off < 0x3800 && off % 16 == 0 then some ((off - 0x3000) / 256, off % 256 / 16) else none

/-- R431: a word of BAR0 or BAR4; unlisted offsets read 0. -/
def State.barRead (s : State) (space : BitVec 2) (off : Nat) : Word :=
  match ringAt space off with
  | some (n, o) => (s.ring n).read o
  | none =>
    if space != 0 then 0
    else if off == 0 then wordHalf s.statusReg false
    else if off == 4 then wordHalf s.statusReg true
    else if 0x10000 ≤ off && off < 0x10400 then (s.msix.get {} ((off - 0x10000) / 16)).read (off % 16 / 4)
    else if off == 0x10800 then wordHalf s.msixPend false
    else if off == 0x10804 then wordHalf s.msixPend true
    else match tconsAt off with
      | some (x, n) => BitVec.ofNat 32 (s.tokenRing x n).tcons
      | none => 0

/-- R433: a word of the host windows' capability. -/
def State.windowRead (s : State) (off : Nat) : Word :=
  if off == 0xD0 then s.viol
  else if 0x10 ≤ off && off < 0xD0 then
    let w := s.hostWins.getD ((off - 0x10) / 24) {}
    match (off - 0x10) % 24 with
    | 0x00 => wordHalf w.base false
    | 0x04 => wordHalf w.base true
    | 0x08 => wordHalf w.limit false
    | 0x0C => wordHalf w.limit true
    | 0x10 => BitVec.ofNat 32 ((if w.en then 1 else 0) + if w.rdonly then 2 else 0)
    | _ => 0
  else 0

/-- R465: a word of the debug port. -/
def State.debugRegRead (s : State) (off : Nat) : Word :=
  let d := s.dbg
  match off with
  | 0x18 => wordHalf d.ddata false
  | 0x1C => wordHalf d.ddata true
  | 0x20 => d.dstat.setWidth 32
  | 0x24 => BitVec.ofNat 32 (d.dsess.toNat + if d.en then 2 ^ 8 else 0)
  | 0x28 => wordHalf d.tbase false
  | 0x2C => wordHalf d.tbase true
  | 0x30 => d.tsize
  | 0x34 => d.tctl
  | 0x38 => BitVec.ofNat 32 d.toff
  | 0x3C => BitVec.ofNat 32 d.twraps
  | 0x40 => d.tdrop
  | _ => 0

/-- A word of the host's registers. -/
def State.regRead (s : State) (space : BitVec 2) (off : Nat) : Word :=
  match space.toNat with
  | 2 => s.windowRead off
  | 3 => s.debugRegRead off
  | _ => s.barRead space off

/-- R435: CBASE and the other places of a ring, while EN is 0; the low 12 bits of a base are zero. -/
def CmdRing.write (r : CmdRing) (off : Nat) (w : Word) : CmdRing :=
  let low := w &&& 0xFFFFF000
  match off with
  | 0x00 => if r.en then r else { r with cbase := withHalf r.cbase false low }
  | 0x04 => if r.en then r else { r with cbase := withHalf r.cbase true w }
  | 0x08 => if r.en then r else { r with csize := w.setWidth 4 }
  | 0x18 => if r.en then r else { r with pbase := withHalf r.pbase false low }
  | 0x1C => if r.en then r else { r with pbase := withHalf r.pbase true w }
  | 0x20 => if r.en then r else { r with psize := w.setWidth 4 }
  | 0x2C => { r with en := w.getLsbD 0, vector := w.extractLsb' 1 6 }
  | _ => r

/-- R435: a write to a ring's registers: CTAIL, PHEAD and RST have their own effects. -/
def State.ringWrite (s : State) (n off : Nat) (w : Word) : Out :=
  match off with
  | 0x0C => execCommandDoorbell n w s
  | 0x24 => execPheadWrite n w s
  | 0x2C =>
    let s := s.setRing n ((s.ring n).write off w)
    if w.getLsbD 31 then execRingReset n s else .next s
  | o => .next (s.setRing n ((s.ring n).write o w))

/-- R431, PCIe: a write to the MSI-X table; an unmasked vector that is pending is sent. -/
def State.msixWrite (s : State) (n i : Nat) (w : Word) : State :=
  let e := s.msix.get {} n
  let e := match i with
    | 0 => { e with addr := withHalf e.addr false w }
    | 1 => { e with addr := withHalf e.addr true w }
    | 2 => { e with data := w }
    | _ => { e with masked := w.getLsbD 0 }
  let s := { s with msix := s.msix.put n e }
  if !e.masked && s.msixPend.getLsbD n then { s with msixPend := setBit s.msixPend n false }.interrupt n else s

/-- R431: a word written to BAR0 or BAR4; unlisted offsets ignore it. -/
def State.barWrite (s : State) (space : BitVec 2) (off : Nat) (w : Word) : Out :=
  match ringAt space off with
  | some (n, o) => s.ringWrite n o w
  | none =>
    if space != 0 then .next s
    else if off == 8 then (if w == 0x52455345 then execModuleReset s else .next s)
    else if 0x10000 ≤ off && off < 0x10400 then .next (s.msixWrite ((off - 0x10000) / 16) (off % 16 / 4) w)
    else match tconsAt off with
      | some (x, n) => execTconsWrite x n w s
      | none => .next s

/-- R433: a host window with a word written. -/
def HostWindow.write (x : HostWindow) (off : Nat) (w : Word) : HostWindow :=
  match off with
  | 0x00 => { x with base := withHalf x.base false (w &&& 0xFFFFF000) }
  | 0x04 => { x with base := withHalf x.base true w }
  | 0x08 => { x with limit := withHalf x.limit false w }
  | 0x0C => { x with limit := withHalf x.limit true w }
  | 0x10 => { x with en := w.getLsbD 0, rdonly := w.getLsbD 1 }
  | _ => x

/-- R433: a configuration write to the host windows' capability; VIOL loses the bits written as 1. -/
def State.windowWrite (s : State) (off : Nat) (w : Word) : State :=
  if off == 0xD0 then { s with viol := s.viol &&& ~~~w }
  else if 0x10 ≤ off && off < 0xD0 then
    let i := (off - 0x10) / 24
    { s with hostWins := s.hostWins.setIfInBounds i ((s.hostWins.getD i {}).write ((off - 0x10) % 24) w) }
  else s

/-- R465, R478: a configuration write to the debug port's registers other than DCMD. -/
def DebugPort.write (d : DebugPort) (off : Nat) (w : Word) : DebugPort :=
  let on := d.tctl.getLsbD 0
  match off with
  | 0x18 => { d with ddata := withHalf d.ddata false w }
  | 0x1C => { d with ddata := withHalf d.ddata true w }
  | 0x24 => { d with dsess := w.setWidth 3, en := w.getLsbD 8 }
  | 0x28 => if on then d else { d with tbase := withHalf d.tbase false (w &&& 0xFFFFF000) }
  | 0x2C => if on then d else { d with tbase := withHalf d.tbase true w }
  | 0x30 => if on then d else { d with tsize := w }
  | 0x34 =>
    let v := w &&& 0x00009F3F
    { d with tctl := if on then (v &&& 0xFFFFFFFD) ||| (d.tctl &&& 2) else v, full := false }
  | _ => d

/-- R465: a write to DCMD starts an operation, unless one is in progress. -/
def State.debugCommand (s : State) (w : Word) : Out :=
  let f : DbgF := { file := w.extractLsb' 4 4, num := w.extractLsb' 8 12, cluster := w.extractLsb' 20 4
                    core := w.extractLsb' 24 4, context := w.extractLsb' 28 3 }
  if s.dbg.dstat == 15 then .next s
  else if w.getLsbD 31 then .next (s.debugStat 4)
  else match (w.extractLsb' 0 4).toNat with
    | 1 => execHalt f s
    | 2 => execDebugResume f s
    | 3 => execStepCtx f s
    | 4 => execRdreg f s
    | 5 => execWrreg f s
    | 6 => execHaltstage f s
    | 7 => execRunstage f s
    | 8 => execSetbrk f s
    | 9 => execClrbrk f s
    | 10 => execLapclr f s
    | _ => s.debugOn f.cluster.toNat fun _ => s.debugStat 4

/-- A word written to the host's registers. -/
def State.regWrite (s : State) (space : BitVec 2) (off : Nat) (w : Word) : Out :=
  match space.toNat with
  | 2 => .next (s.windowWrite off w)
  | 3 => if off == 0x10 then s.debugCommand w else .next { s with dbg := s.dbg.write off w }
  | _ => s.barWrite space off w

/-- What the bytes of a word that a write does not touch count as: 0 where a written 1 clears. -/
def State.regBase (s : State) (space : BitVec 2) (off : Nat) : Word :=
  if space == 2 && off == 0xD0 then 0 else s.regRead space off

/-- A write's part in the word at `off`: the word with its bytes replaced; none where it has none. -/
def wordPart (old : Word) (off start : Nat) (bs : List Byte) : Option Word :=
  let has (i : Nat) : Bool := start ≤ off + i && off + i < start + bs.length
  if (List.range 4).any has then
    some (BitVec.ofNat 32 (leNat ((List.range 4).map fun i =>
      if has i then bs.getD (off + i - start) 0 else (old >>> (8 * i)).setWidth 8)))
  else none

/-- A write to the host's registers, word by word. -/
def State.regWords (space : BitVec 2) (start : Nat) (bs : List Byte) : List Nat → State → Out
  | [], s => .next s
  | off :: rest, s =>
    match wordPart (s.regBase space off) off start bs with
    | none => State.regWords space start bs rest s
    | some w =>
      match s.regWrite space off w with
      | .next t => State.regWords space start bs rest t
      | r => r

/-- R431, R433, R435, R465: bytes written to the host's registers. -/
def execRegisterWrite (space : BitVec 2) (offset : Nat) (bytes : List Byte) (s : State) : Out :=
  State.regWords space offset bytes
    ((List.range (bytes.length / 4 + 2)).map fun i => offset / 4 * 4 + 4 * i) s

/-! ## BAR2 (R104, R112, R300, R431, R439, R442) -/

/-- R442: the page of a session that its aperture shows at an offset, with the VA there. -/
def State.aperturePage (s : State) (x off : Nat) : Option (Page × Nat) :=
  (s.pages.get [] x).findSome? fun p => match p.aperture with
    | some a => if a ≤ off && off < a + p.size then some (p, p.va + (off - a)) else none
    | none => none

/-- How a host write to device memory ends. -/
inductive HostWent where
  | wait (s : State)
  | done (s : State)

/-- R104, R238, R300: the host's write of bytes of one sector: held by a guard, or until the page is
present; a read-only page discards it. -/
def State.hostPiece (s : State) (x : Nat) (p : Page) (va : Nat) (bs : List Byte) : HostWent :=
  if !p.present then .wait (s.reportPage x va 0)
  else if !p.writable then .done s
  else match s.guardOf [(devKey x va, bs.length)] none with
    | some n => .wait (s.protectiveForce n.handle)
    | none => .done { s with mem := memWrite s.mem (devKey x va) bs }

/-- The host's write through an aperture, sector by sector; where no page shows, nothing is written. -/
def State.hostStore (s : State) (x : Nat) : (fuel off : Nat) → List Byte → State × List (Nat × List Byte)
  | 0, _, _ => (s, [])
  | fuel + 1, off, bs =>
    if bs.isEmpty then (s, [])
    else match s.aperturePage x off with
      | none => State.hostStore s x fuel (off + 1) (bs.drop 1)
      | some (p, va) =>
        let n := min bs.length (128 - va % 128)
        match s.hostPiece x p va (bs.take n) with
        | .wait s => (s, [(off, bs)])
        | .done s => State.hostStore s x fuel (off + n) (bs.drop n)

/-- PCIe: the host's writes that are held are performed in order, as far as they go. -/
def State.hostDrain (s : State) : List (Nat × Nat × List Byte) → State
  | [] => { s with hostHeld := [] }
  | (x, off, bs) :: rest =>
    match s.hostStore x (bs.length + 1) off bs with
    | (s, []) => State.hostDrain s rest
    | (s, (off, bs) :: _) => { s with hostHeld := (x, off, bs) :: rest }

/-- R112, R431: an access through BAR2: to a session's aperture, or to the storage region. A read changes
nothing, but that it asks for a page; a write waits behind those that are held. -/
def execHostApertureAccess (offset : Nat) (write : Bool) (bytes : List Byte) (s : State) : Out :=
  let x := offset / 2 ^ 36
  let off := offset % 2 ^ 36
  .next (
    if x < 8 then
      if write then s.hostDrain (s.hostHeld ++ [(x, off, bytes)])
      else match s.aperturePage x off with
        | none => s
        | some (p, va) => if p.present then s else s.reportPage x va 0
    else if write && 2 ^ 39 ≤ offset && offset + bytes.length ≤ 2 ^ 39 + 2 ^ 30 then
      { s with mem := memWrite s.mem (storeKey (offset - 2 ^ 39)) bytes }
    else s)

end Sys2Proof.Machine
end

