-- ==== Sys2Proof/Machine/Cycle.lean ====
section
/-! DEFINITION. A cycle of the module: what each unit and engine does in it, in what order, and the
passing of the cycle (R12, R13, R26, R27, R79, R89, R307, R474; log entry 1). -/

namespace Sys2Proof.Machine

/-! ## One turn -/

/-- The outcome of a second turn after a first. -/
def Out.andThen (r : Out) (f : State → Out) : Out :=
  match r with
  | .next s => f s
  | .fault x => .fault x
  | .refused x => .refused x

/-- What has no promised time happens in this cycle, or not yet: as the tape says (log entry 2). -/
def State.perhaps (s : State) (f : State → Out) : Out :=
  let (c, s) := s.choice
  if c == 0 then f s else .next s

/-- R45 to R53: the first of a context's results that are due lands. -/
def State.landDue (s : State) (key : Nat) : Out :=
  let ps := (s.ctxAt key).pend
  match firstPend (fun p => Nat.ble (p.due) s.cycle && p.late.isNone) ps with
  | none => .next s
  | some p =>
    if p.fixed then execFixedResultVisible key s
    else execResultLand key ((indexOfFirst (· == p) (ps.filter fun p => !p.fixed)).getD 0) s

/-- R221: an entry of a store buffer is applied: the oldest, or the one that the tape says. -/
def State.storeTurn (s : State) (key : Nat) : Out :=
  let (c, s) := s.choice
  execStoreApply key c s

/-- R230: a fill that a unit's L1 waits for comes. -/
def State.fillTurn (s : State) (u : Nat) : Out :=
  match (s.unitAt u).fills with
  | [] => .next s
  | f :: _ => execL1Fill u f.1 s

/-- R245, R256, R257: an array's operations land, its release, its next operation, its test. -/
def State.arrayTurn (s : State) (u : Nat) : Out :=
  let lands := (s.arrAt u).running.length
  let s1 := (List.range lands).foldl (fun (r : Out) _ => r.andThen (execMOpLand u)) (.next s)
  ((s1.andThen (execArrayRelease u)).andThen (execMOpStart u)).andThen fun s =>
    let s := s.updArr u Arr.beginTest
    if (s.arrAt u).deciding.isSome then s.perhaps (execDrainVerdict u) else .next s

/-- R292, R302: an evaluation goes on. -/
def State.evalTurn (s : State) (id : Nat) : Out :=
  match indexOfFirst (·.id == id) s.evals with
  | none => .next s
  | some i =>
    match (s.evals[i]?).map Eval.st with
    | some .waiting => execTileEvaluation i s
    | some (.computed _ _ _ _ _ _) => execTileEvaluated i s
    | some (.failed _) => execEvaluationFailed i s
    | none => .next s

/-- R325: a cluster's storage sequencer and its lanes. -/
def State.storageTurn (s : State) (c : Nat) : Out :=
  (((((execNvmeTimeout c 0 s).andThen (execNvmeTimeout c 1)).andThen (execStorageSubmit c)).andThen
    (execStorageLaneDecode c 0)).andThen (execStorageLaneDecode c 1))

/-- R327, R328: a cluster's transform units. -/
def State.transformTurn (s : State) (c : Nat) : Out :=
  (List.range 5).foldl (fun (r : Out) u => r.andThen (execTransformOpStart c u)) (.next s)

/-- R352, R353: a walk's engine moves a tile. -/
def State.walkTurn (s : State) (id : Nat) : Out :=
  match s.walks.find? (·.id == id) with
  | none => .next s
  | some w => if w.storer then execStorerTile w.cluster w.engine w.slot s else execLoaderTile w.cluster w.engine w.slot s

/-- R366: a tile that waits in a receiving port is tried again. -/
def State.inboxTurn (s : State) : Out :=
  match s.inbox with
  | [] => .next s
  | p :: _ => execNakanTileReceive p s

/-- R382: a relay goes on. -/
def State.relayGo (s : State) (id : Nat) : Out :=
  match s.relays.find? (·.id == id) with
  | none => .next s
  | some x => execRelayStepStart x.stack x.slot s

/-- R381, R384: a packet that is out is answered too late, or was answered busy. -/
def State.sentTurn (s : State) (i : Nat) : Out := (execRelayBusyRetry i s).andThen (execRelayNoAnswer i)

/-- The stack of the i-th packet or notice kept. -/
def State.heldStack (s : State) (i : Nat) : Nat :=
  match s.relayBuf[i]? with
  | some h => h.stack
  | none => match s.relayNotices[i - s.relayBuf.length]? with
    | some n => n.stack
    | none => 0

/-- R109: a request is done. -/
def State.requestTurn (s : State) (id : Nat) : Out :=
  match indexOfFirst (·.id == id) s.engs with
  | none => .next s
  | some i => execRequestDone i s

/-- R416: a cluster's stream controller pushes. -/
def State.kernelsTurn (s : State) (c : Nat) : Out :=
  (List.range 32).foldl (fun (r : Out) i => r.andThen (execKernelPushing c i)) (.next s)

/-- R66, R68: a launch starts or retires. -/
def State.launchTurn (s : State) (uid : Nat) : Out :=
  match s.launchBy uid with
  | none => .next s
  | some l => if l.st == .queued then execLaunchStart uid s else execLaunchRetire uid s

/-- R11, R361: a copy of a flit that had failed passes a boundary or a port. -/
def State.flitOver (s : State) (boundary : Bool) (n : Nat) : State :=
  if boundary then { s with boundaryFlits := s.boundaryFlits.del n } else s.flitPassed n

/-- A turn happens. -/
def perform (t : Turn) (s : State) : Out :=
  let s := s.retest
  match t with
  | .latch key => execLatchReplayLand key s
  | .land key => s.landDue key
  | .admission key => s.perhaps (execAccessAdmission key)
  | .again key => execWaiterRetry key s
  | .store key => s.storeTurn key
  | .atomic key => s.perhaps (execAtomicPerform key)
  | .fill u => s.perhaps fun s => s.fillTurn u
  | .array u => s.arrayTurn u
  | .evaluate id => s.perhaps fun s => s.evalTurn id
  | .copies c => execCopyDataPhaseStart c s
  | .storage c => s.storageTurn c
  | .transform c => s.transformTurn c
  | .walk id => s.perhaps fun s => s.walkTurn id
  | .port n => s.perhaps (execNakanSendTile n)
  | .unanswered i => execNakanNoAnswer i s
  | .inbox => s.inboxTurn
  | .relay id => s.perhaps fun s => s.relayGo id
  | .relaySent i => s.sentTurn i
  | .relayQueue n => .next (s.relayCmd n)
  | .relayHeld i => execRelayPacketExpire (s.heldStack i) i s
  | .request id => s.requestTurn id
  | .kernels c => s.kernelsTurn c
  | .page x va => s.perhaps (execPageResolve x (ad va))
  | .translate d => s.perhaps fun s => .next (s.walkEnds d)
  | .flit boundary n => s.perhaps fun s => .next (s.flitOver boundary n)
  | .token x n => execTokenRingTimeout x n s
  | .host => .next (s.hostDrain s.hostHeld)
  | .ring n => s.ringTurn n
  | .fatal uid => execFatalFault uid s
  | .launch uid => s.launchTurn uid
  | .clock => execClockLoweringApply s
  | .sample => execTraceSample s
  | .clear key => execBlockClears key s
  | .sleep key => execSleeptoDeadline key s
  | .stop key => .next (s.stopTurn key)
  | .codebook key => .next (s.codebookTurn key)
  | .debug => .next s.debugTurn
  | .drain key => execContextDrained key s
  | .blocks key => execStallBecomesBlock key s
  | .drowsy key => execDrowsy key s
  | .dispatch c => execTaskBind c s
  | .restore u => execParkedTaskRestore u s
  | .random u => execRandomWordDelivery u s
  | .schedule u => execScheduleContext u s
  | .tired key => execSprintLimit key s
  | .issue u => s.issueUnit runSlot u
  | .precheck key => execPrecheckEnd key s

/-! ## What happens in a cycle -/

/-- Turns of a context on its registers and its accesses. -/
def State.ctxTurns (s : State) (key : Nat) (c : Ctx) : List Turn :=
  let due := (c.pend.filter fun p => Nat.ble (p.due) s.cycle && p.late.isNone).map fun _ => Turn.land key
  let latch := (c.latches.filter fun l => l.after == 0 && Nat.ble (l.pend.due) s.cycle).map fun _ => Turn.latch key
  let asks := c.accs.any fun a => match a.st with
    | .asking _ => true
    | .held _ => true
    | .page _ _ => true
    | .queued => false
    | .retry _ => false
    | .admitted => false
    | .fault _ _ _ => false
  let again := c.accs.any fun a => match a.st with
    | .retry t => Nat.ble (t) s.cycle
    | .asking _ => false
    | .held _ => false
    | .page _ _ => false
    | .queued => false
    | .admitted => false
    | .fault _ _ _ => false
  latch ++ due ++ (if again then [.again key] else []) ++ (if asks then [.admission key] else [])
    ++ (if c.storeBuf.isEmpty then [] else [.store key])
    ++ (if c.pend.any (·.late.isSome) then [.codebook key] else []) ++ (if c.atomics.isEmpty then [] else [.atomic key])

/-- Turns of a context on its state. -/
def State.stateTurns (s : State) (key : Nat) (c : Ctx) : List Turn :=
  let sleeps := match c.wait with
    | some w => match w.why with
      | .deadline _ => true
      | _ => false
    | none => false
  let stalls := match c.wait with
    | some w => !w.blocked && w.cause == 4 && Nat.ble (w.since + 64) s.cycle
    | none => false
  (if c.st == .blocked then [if sleeps then .sleep key else .clear key] else [])
    ++ (if c.st == .draining then [.drain key] else [])
    ++ (if c.stopAt.isSome then [.stop key] else [])
    ++ (if c.st == .issuing && stalls then [.blocks key] else [])
    ++ (if c.st != .free && !c.drowsy && c.lastIssue + 1024 ≤ s.cycle then [.drowsy key] else [])

/-- Turns of a unit on its memory and its array. -/
def unitTurns (u : Nat) (x : UnitSt) : List Turn :=
  let a := x.arr
  (if x.fills.isEmpty then [] else [.fill u])
    ++ (if a.queue.isEmpty && a.running.isEmpty && a.deciding.isNone && a.waiting.isEmpty && a.evalWaiting.isEmpty
        then [] else [.array u])

/-- Turns of a cluster's engines. -/
def State.clusterTurns (s : State) (c : Nat) (k : ClusterSt) : List Turn :=
  let mine := s.engs.filter (·.cluster == c)
  (if mine.any (·.work.copies) then [.copies c] else [])
    ++ (if mine.any (·.cls == 5) || k.halves.any (·.req.isSome) then [.storage c] else [])
    ++ (if mine.any fun r => match r.work with
        | .xform _ _ => true
        | _ => false then [.transform c] else [])
    ++ (if k.streamCtl.any fun e => match e.st with
        | .pushing _ _ _ _ => true
        | _ => false then [.kernels c] else [])

/-- Positions of a list from its last to its first. -/
def downFrom (n : Nat) : List Nat := (List.range n).reverse

/-- Turns of the engines. -/
def State.engineTurns (s : State) : List Turn :=
  s.units.flatMap (fun p => unitTurns p.1 p.2)
    ++ s.evals.map (fun e => .evaluate e.id)
    ++ (List.range 16).flatMap (fun c => s.clusterTurns c (s.clusterAt c))
    ++ (s.walks.filter s.walkRuns).map (fun w => .walk w.id)
    ++ ((s.parts.map (·.port)) ++ ((s.sent.filter fun x => x.resend || s.portFailed.getLsbD x.port).map (·.port))).eraseDups.map .port
    ++ (downFrom s.sent.length).map .unanswered
    ++ s.inbox.map (fun _ => .inbox)
    ++ s.relayQ.map (fun x => .relayQueue x.1)
    ++ (s.relays.filter s.relayLives).map (fun x => .relay x.id)
    ++ (downFrom s.relaySent.length).map .relaySent
    ++ (downFrom (s.relayBuf.length + s.relayNotices.length)).map .relayHeld
    ++ s.engs.map (fun r => .request r.id)

/-- Turns of the management processor, the memory-management processors and the host's side. -/
def State.firmwareTurns (s : State) : List Turn :=
  (List.range 4).filterMap (fun d => (s.nextFault d).map fun f => .page f.session f.va)
    ++ s.sessions.flatMap (fun x => ((List.range 16).filter (s.tokenDue x.1)).map (.token x.1))
    ++ s.walkers.map (fun x => .translate x.1)
    ++ s.portFlits.map (fun x => .flit false x.1) ++ s.boundaryFlits.map (fun x => .flit true x.1)
    ++ (if s.hostHeld.isEmpty then [] else [.host])
    ++ s.rings.map (fun x => .ring x.1)
    ++ (s.fatals.map (·.launch)).eraseDups.map .fatal
    ++ s.launches.map (fun l => .launch l.uid)
    ++ (if s.announced.isSome then [.clock] else [])
    ++ (if s.dbg.late.isSome then [.debug] else [])
    ++ (if s.sampleDue then [.sample] else [])

/-- A unit of a launch with a context that is not FREE. -/
def State.unitLives (s : State) (u : Nat) : Bool := s.ctxs.any fun p => unitOf p.1 == u && p.2.st != .free

/-- Turns that bind, choose and issue. -/
def State.issueTurns (s : State) : List Turn :=
  let live := s.launches.filter Launch.live
  let us := live.flatMap Launch.units
  let busy := us.filter s.unitLives
  (live.flatMap fun l => clustersOf l.mask).filterMap (fun c =>
      if (s.clusterAt c).queues.any (fun q => !q.2.entries.isEmpty) then some (.dispatch c) else none)
    ++ (us.filter fun u => (s.unitAt u).parked.any (·.ready)).map .restore
    ++ (us.filter fun u => (s.wantsWord u).isSome).map .random
    ++ busy.map .schedule
    ++ (s.ctxs.filter fun p => p.2.st == .issuing && s.sprintDue p.1).map (fun p => .tired p.1)
    ++ us.flatMap fun u => (if busy.contains u then [.issue u] else [])
      ++ ((s.ctxs.filter fun p => unitOf p.1 == u && p.2.preEnd.any (Nat.ble · s.cycle)).map fun p => .precheck p.1)

/-- What happens in this cycle, in order. -/
def State.turns (s : State) : List Turn :=
  s.ctxs.flatMap (fun p => s.ctxTurns p.1 p.2) ++ s.engineTurns ++ s.firmwareTurns
    ++ s.ctxs.flatMap (fun p => s.stateTurns p.1 p.2) ++ s.issueTurns

/-! ## The passing of a cycle -/

/-- R474: a cycle that a context spends BLOCKED. -/
def Ctx.blockLap (c : Ctx) : Ctx :=
  match c.st, c.wait with
  | .blocked, some w =>
    let n := w.blockCause
    { c with laps := { c.laps with block := c.laps.block.setIfInBounds n (c.laps.block.getD n 0 + 1) } }
  | _, _ => c

/-- An engine that may hold a read in the memory side. -/
def State.readerLives (s : State) (who : Nat) : Bool :=
  s.engs.any (·.id == who) || s.walks.any (·.id == who) || s.evals.any (·.id == who)

/-- R12, R13: a cycle passes: MTC ticks at its fixed rate, and the reads that the memory side has done for engines
end once they are used. -/
def State.tick (s : State) : State :=
  let f := s.mtcFrac + nominalHz
  let s := { s with
    cycle := s.cycle + 1, mtc := s.mtc + ad (f / s.clock), mtcFrac := f % s.clock
    ctxs := s.ctxs.map fun (p : Nat × Ctx) => (p.1, p.2.blockLap)
    engineReads := s.engineReads.filter fun r => !r.spent && s.readerLives r.who }
  { s with agenda := s.turns }

end Sys2Proof.Machine
end

