-- ==== Sys2Proof/Machine/Dispatch.lean ====
section
/-! DEFINITION. The dispatch: one arm for each constructor of Instr, each a direct call of its meaning. -/

namespace Sys2Proof.Machine

/-- The effect of an instruction or an event on the state. -/
def exec (i : Instr) (s : State) : Host.Outcome State Fault Refusal :=
  match i with
  | .add f => Sys2Proof.Machine.execAdd f s
  | .sub f => Sys2Proof.Machine.execSub f s
  | .mul f => Sys2Proof.Machine.execMul f s
  | .mulh f => Sys2Proof.Machine.execMulh f s
  | .mulhu f => Sys2Proof.Machine.execMulhu f s
  | .div f => Sys2Proof.Machine.execDiv f s
  | .divu f => Sys2Proof.Machine.execDivu f s
  | .rem f => Sys2Proof.Machine.execRem f s
  | .remu f => Sys2Proof.Machine.execRemu f s
  | .and f => Sys2Proof.Machine.execAnd f s
  | .or f => Sys2Proof.Machine.execOr f s
  | .xor f => Sys2Proof.Machine.execXor f s
  | .andn f => Sys2Proof.Machine.execAndn f s
  | .shl f => Sys2Proof.Machine.execShl f s
  | .shr f => Sys2Proof.Machine.execShr f s
  | .sra f => Sys2Proof.Machine.execSra f s
  | .rot f => Sys2Proof.Machine.execRot f s
  | .min f => Sys2Proof.Machine.execMin f s
  | .max f => Sys2Proof.Machine.execMax f s
  | .minu f => Sys2Proof.Machine.execMinu f s
  | .maxu f => Sys2Proof.Machine.execMaxu f s
  | .clz f => Sys2Proof.Machine.execClz f s
  | .popc f => Sys2Proof.Machine.execPopc f s
  | .cmpeq f => Sys2Proof.Machine.execCmpeq f s
  | .cmpne f => Sys2Proof.Machine.execCmpne f s
  | .cmplt f => Sys2Proof.Machine.execCmplt f s
  | .cmpltu f => Sys2Proof.Machine.execCmpltu f s
  | .cmple f => Sys2Proof.Machine.execCmple f s
  | .cmpleu f => Sys2Proof.Machine.execCmpleu f s
  | .sel f => Sys2Proof.Machine.execSel f s
  | .mov f => Sys2Proof.Machine.execMov f s
  | .padd f => Sys2Proof.Machine.execPadd f s
  | .psub f => Sys2Proof.Machine.execPsub f s
  | .padds f => Sys2Proof.Machine.execPadds f s
  | .psubs f => Sys2Proof.Machine.execPsubs f s
  | .paddsn f => Sys2Proof.Machine.execPaddsn f s
  | .psubsn f => Sys2Proof.Machine.execPsubsn f s
  | .pmul f => Sys2Proof.Machine.execPmul f s
  | .pmulh f => Sys2Proof.Machine.execPmulh f s
  | .pmin f => Sys2Proof.Machine.execPmin f s
  | .pmax f => Sys2Proof.Machine.execPmax f s
  | .pabsd f => Sys2Proof.Machine.execPabsd f s
  | .pdot f => Sys2Proof.Machine.execPdot f s
  | .pavg f => Sys2Proof.Machine.execPavg f s
  | .ppack f => Sys2Proof.Machine.execPpack f s
  | .pwiden f => Sys2Proof.Machine.execPwiden f s
  | .pshuf f => Sys2Proof.Machine.execPshuf f s
  | .limm f => Sys2Proof.Machine.execLimm f s
  | .limmh f => Sys2Proof.Machine.execLimmh f s
  | .aadd f => Sys2Proof.Machine.execAadd f s
  | .asub f => Sys2Proof.Machine.execAsub f s
  | .amov f => Sys2Proof.Machine.execAmov f s
  | .ajoin f => Sys2Proof.Machine.execAjoin f s
  | .asplit f => Sys2Proof.Machine.execAsplit f s
  | .aimm f => Sys2Proof.Machine.execAimm f s
  | .fadd f => Sys2Proof.Machine.execFadd f s
  | .fsub f => Sys2Proof.Machine.execFsub f s
  | .fmul f => Sys2Proof.Machine.execFmul f s
  | .fmin f => Sys2Proof.Machine.execFmin f s
  | .fmax f => Sys2Proof.Machine.execFmax f s
  | .fcmplt f => Sys2Proof.Machine.execFcmplt f s
  | .fcmpeq f => Sys2Proof.Machine.execFcmpeq f s
  | .fcvt f => Sys2Proof.Machine.execFcvt f s
  | .br f => Sys2Proof.Machine.execBr f s
  | .brz f => Sys2Proof.Machine.execBrz f s
  | .brnz f => Sys2Proof.Machine.execBrnz f s
  | .call f => Sys2Proof.Machine.execCall f s
  | .ret f => Sys2Proof.Machine.execRet f s
  | .loop f => Sys2Proof.Machine.execLoop f s
  | .trap f => Sys2Proof.Machine.execTrap f s
  | .tret f => Sys2Proof.Machine.execTret f s
  | .rdsys f => Sys2Proof.Machine.execRdsys f s
  | .wrsys f => Sys2Proof.Machine.execWrsys f s
  | .taddrWrite f => Sys2Proof.Machine.execTaddrWrite f s
  | .rtgtWrite f => Sys2Proof.Machine.execRtgtWrite f s
  | .rdtime f => Sys2Proof.Machine.execRdtime f s
  | .fetest f => Sys2Proof.Machine.execFetest f s
  | .setempty f => Sys2Proof.Machine.execSetempty f s
  | .laprd f => Sys2Proof.Machine.execLaprd f s
  | .vadd f => Sys2Proof.Machine.execVadd f s
  | .vsub f => Sys2Proof.Machine.execVsub f s
  | .vmul f => Sys2Proof.Machine.execVmul f s
  | .vfma f => Sys2Proof.Machine.execVfma f s
  | .vmin f => Sys2Proof.Machine.execVmin f s
  | .vmax f => Sys2Proof.Machine.execVmax f s
  | .vabs f => Sys2Proof.Machine.execVabs f s
  | .vneg f => Sys2Proof.Machine.execVneg f s
  | .vand f => Sys2Proof.Machine.execVand f s
  | .vor f => Sys2Proof.Machine.execVor f s
  | .vxor f => Sys2Proof.Machine.execVxor f s
  | .vshl f => Sys2Proof.Machine.execVshl f s
  | .vshr f => Sys2Proof.Machine.execVshr f s
  | .vsra f => Sys2Proof.Machine.execVsra f s
  | .vcmpeq f => Sys2Proof.Machine.execVcmpeq f s
  | .vcmplt f => Sys2Proof.Machine.execVcmplt f s
  | .vcmple f => Sys2Proof.Machine.execVcmple f s
  | .vsel f => Sys2Proof.Machine.execVsel f s
  | .vrsum f => Sys2Proof.Machine.execVrsum f s
  | .vrmax f => Sys2Proof.Machine.execVrmax f s
  | .vrmin f => Sys2Proof.Machine.execVrmin f s
  | .vrcnt f => Sys2Proof.Machine.execVrcnt f s
  | .vcoal f => Sys2Proof.Machine.execVcoal f s
  | .vruns f => Sys2Proof.Machine.execVruns f s
  | .vsplat f => Sys2Proof.Machine.execVsplat f s
  | .viota f => Sys2Proof.Machine.execViota f s
  | .vslide f => Sys2Proof.Machine.execVslide f s
  | .vscan f => Sys2Proof.Machine.execVscan f s
  | .vmov f => Sys2Proof.Machine.execVmov f s
  | .vext f => Sys2Proof.Machine.execVext f s
  | .vins f => Sys2Proof.Machine.execVins f s
  | .vlen f => Sys2Proof.Machine.execVlen f s
  | .vtrim f => Sys2Proof.Machine.execVtrim f s
  | .vacc f => Sys2Proof.Machine.execVacc f s
  | .vaccw f => Sys2Proof.Machine.execVaccw f s
  | .qset f => Sys2Proof.Machine.execQset f s
  | .qfromv f => Sys2Proof.Machine.execQfromv f s
  | .qmin f => Sys2Proof.Machine.execQmin f s
  | .qget f => Sys2Proof.Machine.execQget f s
  | .fexp f => Sys2Proof.Machine.execFexp f s
  | .fexp2 f => Sys2Proof.Machine.execFexp2 f s
  | .flog2 f => Sys2Proof.Machine.execFlog2 f s
  | .frcp f => Sys2Proof.Machine.execFrcp f s
  | .frsq f => Sys2Proof.Machine.execFrsq f s
  | .fsqrt f => Sys2Proof.Machine.execFsqrt f s
  | .ftanh f => Sys2Proof.Machine.execFtanh f s
  | .fsigm f => Sys2Proof.Machine.execFsigm f s
  | .fsin f => Sys2Proof.Machine.execFsin f s
  | .fcos f => Sys2Proof.Machine.execFcos f s
  | .fconv f => Sys2Proof.Machine.execFconv f s
  | .fqnt f => Sys2Proof.Machine.execFqnt f s
  | .fdqt f => Sys2Proof.Machine.execFdqt f s
  | .fcbe f => Sys2Proof.Machine.execFcbe f s
  | .fcbd f => Sys2Proof.Machine.execFcbd f s
  | .frnd f => Sys2Proof.Machine.execFrnd f s
  | .mpush f => Sys2Proof.Machine.execMpush f s
  | .macc f => Sys2Proof.Machine.execMacc f s
  | .mshift f => Sys2Proof.Machine.execMshift f s
  | .mdrain f => Sys2Proof.Machine.execMdrain f s
  | .mclr f => Sys2Proof.Machine.execMclr f s
  | .mchain f => Sys2Proof.Machine.execMchain f s
  | .mend f => Sys2Proof.Machine.execMend f s
  | .ldb f => Sys2Proof.Machine.execLdb f s
  | .ldbs f => Sys2Proof.Machine.execLdbs f s
  | .ldh f => Sys2Proof.Machine.execLdh f s
  | .ldhs f => Sys2Proof.Machine.execLdhs f s
  | .ldw f => Sys2Proof.Machine.execLdw f s
  | .lda f => Sys2Proof.Machine.execLda f s
  | .stb f => Sys2Proof.Machine.execStb f s
  | .sth f => Sys2Proof.Machine.execSth f s
  | .stw f => Sys2Proof.Machine.execStw f s
  | .sta f => Sys2Proof.Machine.execSta f s
  | .vld f => Sys2Proof.Machine.execVld f s
  | .vldr f => Sys2Proof.Machine.execVldr f s
  | .vldb f => Sys2Proof.Machine.execVldb f s
  | .vst f => Sys2Proof.Machine.execVst f s
  | .vstr f => Sys2Proof.Machine.execVstr f s
  | .vstb f => Sys2Proof.Machine.execVstb f s
  | .amoadd f => Sys2Proof.Machine.execAmoadd f s
  | .amomin f => Sys2Proof.Machine.execAmomin f s
  | .amomax f => Sys2Proof.Machine.execAmomax f s
  | .amoswp f => Sys2Proof.Machine.execAmoswp f s
  | .amocas f => Sys2Proof.Machine.execAmocas f s
  | .amoand f => Sys2Proof.Machine.execAmoand f s
  | .amoor f => Sys2Proof.Machine.execAmoor f s
  | .amofadd f => Sys2Proof.Machine.execAmofadd f s
  | .flush f => Sys2Proof.Machine.execFlush f s
  | .inval f => Sys2Proof.Machine.execInval f s
  | .pref f => Sys2Proof.Machine.execPref f s
  | .tagq f => Sys2Proof.Machine.execTagq f s
  | .ldpeek f => Sys2Proof.Machine.execLdpeek f s
  | .dld f => Sys2Proof.Machine.execDld f s
  | .dst f => Sys2Proof.Machine.execDst f s
  | .dset f => Sys2Proof.Machine.execDset f s
  | .dsetA f => Sys2Proof.Machine.execDsetA f s
  | .dget f => Sys2Proof.Machine.execDget f s
  | .fence f => Sys2Proof.Machine.execFence f s
  | .waittl f => Sys2Proof.Machine.execWaittl f s
  | .tlread f => Sys2Proof.Machine.execTlread f s
  | .tmul f => Sys2Proof.Machine.execTmul f s
  | .tmac f => Sys2Proof.Machine.execTmac f s
  | .tmap f => Sys2Proof.Machine.execTmap f s
  | .tzip f => Sys2Proof.Machine.execTzip f s
  | .tred f => Sys2Proof.Machine.execTred f s
  | .txpose f => Sys2Proof.Machine.execTxpose f s
  | .tcvt f => Sys2Proof.Machine.execTcvt f s
  | .tcopy f => Sys2Proof.Machine.execTcopy f s
  | .forceHandle f => Sys2Proof.Machine.execForceHandle f s
  | .forceRegion f => Sys2Proof.Machine.execForceRegion f s
  | .tstore f => Sys2Proof.Machine.execTstore f s
  | .tdrop f => Sys2Proof.Machine.execTdrop f s
  | .tstatNode f => Sys2Proof.Machine.execTstatNode f s
  | .tstatTable f => Sys2Proof.Machine.execTstatTable f s
  | .tstatDefer f => Sys2Proof.Machine.execTstatDefer f s
  | .cpyByte f => Sys2Proof.Machine.execCpyByte f s
  | .cpyTile f => Sys2Proof.Machine.execCpyTile f s
  | .cpyg f => Sys2Proof.Machine.execCpyg f s
  | .cpys f => Sys2Proof.Machine.execCpys f s
  | .cpstor f => Sys2Proof.Machine.execCpstor f s
  | .sleepto f => Sys2Proof.Machine.execSleepto f s
  | .pmovTranspose f => Sys2Proof.Machine.execPmovTranspose f s
  | .pmovConvert f => Sys2Proof.Machine.execPmovConvert f s
  | .pmovEncode f => Sys2Proof.Machine.execPmovEncode f s
  | .pmovDecode f => Sys2Proof.Machine.execPmovDecode f s
  | .pmovConfig f => Sys2Proof.Machine.execPmovConfig f s
  | .prd f => Sys2Proof.Machine.execPrd f s
  | .walk f => Sys2Proof.Machine.execWalk f s
  | .batonWait f => Sys2Proof.Machine.execBatonWait f s
  | .batonGive f => Sys2Proof.Machine.execBatonGive f s
  | .batonStat f => Sys2Proof.Machine.execBatonStat f s
  | .nsend f => Sys2Proof.Machine.execNsend f s
  | .nmcast f => Sys2Proof.Machine.execNmcast f s
  | .relay f => Sys2Proof.Machine.execRelay f s
  | .rlstat f => Sys2Proof.Machine.execRlstat f s
  | .rlstatWhy f => Sys2Proof.Machine.execRlstatWhy f s
  | .harrive f => Sys2Proof.Machine.execHarrive f s
  | .hwait f => Sys2Proof.Machine.execHwait f s
  | .harw f => Sys2Proof.Machine.execHarw f s
  | .tqpush f => Sys2Proof.Machine.execTqpush f s
  | .tqcancel f => Sys2Proof.Machine.execTqcancel f s
  | .jobwaitWait f => Sys2Proof.Machine.execJobwaitWait f s
  | .jobwaitRd f => Sys2Proof.Machine.execJobwaitRd f s
  | .evpost f => Sys2Proof.Machine.execEvpost f s
  | .evwait f => Sys2Proof.Machine.execEvwait f s
  | .klaunchX f => Sys2Proof.Machine.execKlaunchX f s
  | .klaunchK f => Sys2Proof.Machine.execKlaunchK f s
  | .klaunchR f => Sys2Proof.Machine.execKlaunchR f s
  | .syscallEmit f => Sys2Proof.Machine.execSyscallEmit f s
  | .syscallFlush f => Sys2Proof.Machine.execSyscallFlush f s
  | .syscallFree f => Sys2Proof.Machine.execSyscallFree f s
  | .srgen f => Sys2Proof.Machine.execSrgen f s
  | .openSession h p => Sys2Proof.Machine.execOpenSession h p s
  | .closeSession h => Sys2Proof.Machine.execCloseSession h s
  | .mapPages h p => Sys2Proof.Machine.execMapPages h p s
  | .unmapPages h p => Sys2Proof.Machine.execUnmapPages h p s
  | .hostpage h p => Sys2Proof.Machine.execHostpage h p s
  | .image h p => Sys2Proof.Machine.execImage h p s
  | .launch h p => Sys2Proof.Machine.execLaunch h p s
  | .graph h p => Sys2Proof.Machine.execGraph h p s
  | .ringCmd h p => Sys2Proof.Machine.execRingCmd h p s
  | .qpair h p => Sys2Proof.Machine.execQpair h p s
  | .nslot h p => Sys2Proof.Machine.execNslot h p s
  | .preempt h id => Sys2Proof.Machine.execPreempt h id s
  | .umostythResume h id => Sys2Proof.Machine.execUmostythResume h id s
  | .attest h p => Sys2Proof.Machine.execAttest h p s
  | .query h p => Sys2Proof.Machine.execQuery h p s
  | .patch h p => Sys2Proof.Machine.execPatch h p s
  | .portreset h port => Sys2Proof.Machine.execPortreset h port s
  | .power h watts => Sys2Proof.Machine.execPower h watts s
  | .halt f => Sys2Proof.Machine.execHalt f s
  | .debugResume f => Sys2Proof.Machine.execDebugResume f s
  | .stepCtx f => Sys2Proof.Machine.execStepCtx f s
  | .rdreg f => Sys2Proof.Machine.execRdreg f s
  | .wrreg f => Sys2Proof.Machine.execWrreg f s
  | .haltstage f => Sys2Proof.Machine.execHaltstage f s
  | .runstage f => Sys2Proof.Machine.execRunstage f s
  | .setbrk f => Sys2Proof.Machine.execSetbrk f s
  | .clrbrk f => Sys2Proof.Machine.execClrbrk f s
  | .lapclr f => Sys2Proof.Machine.execLapclr f s
  | .idle n => Sys2Proof.Machine.execIdle n s
  | .idleRunEnd key => Sys2Proof.Machine.execIdleRunEnd key s
  | .precheckEnd key => Sys2Proof.Machine.execPrecheckEnd key s
  | .mOpStart unit => Sys2Proof.Machine.execMOpStart unit s
  | .mOpLand unit => Sys2Proof.Machine.execMOpLand unit s
  | .drainVerdict unit => Sys2Proof.Machine.execDrainVerdict unit s
  | .arrayRelease unit => Sys2Proof.Machine.execArrayRelease unit s
  | .accessAdmission key => Sys2Proof.Machine.execAccessAdmission key s
  | .stallBecomesBlock key => Sys2Proof.Machine.execStallBecomesBlock key s
  | .waiterRetry key => Sys2Proof.Machine.execWaiterRetry key s
  | .l1Fill unit va => Sys2Proof.Machine.execL1Fill unit va s
  | .storeApply key j => Sys2Proof.Machine.execStoreApply key j s
  | .atomicPerform key => Sys2Proof.Machine.execAtomicPerform key s
  | .pageResolve session va => Sys2Proof.Machine.execPageResolve session va s
  | .resultLand key j => Sys2Proof.Machine.execResultLand key j s
  | .fixedResultVisible key => Sys2Proof.Machine.execFixedResultVisible key s
  | .demand session va => Sys2Proof.Machine.execDemand session va s
  | .tileEvaluation j => Sys2Proof.Machine.execTileEvaluation j s
  | .tileEvaluated j => Sys2Proof.Machine.execTileEvaluated j s
  | .evaluationFailed j => Sys2Proof.Machine.execEvaluationFailed j s
  | .deferredFaultDelivery key => Sys2Proof.Machine.execDeferredFaultDelivery key s
  | .sleeptoDeadline key => Sys2Proof.Machine.execSleeptoDeadline key s
  | .copyDataPhaseStart cluster => Sys2Proof.Machine.execCopyDataPhaseStart cluster s
  | .storageSubmit cluster => Sys2Proof.Machine.execStorageSubmit cluster s
  | .nvmeCompletion cluster half status data => Sys2Proof.Machine.execNvmeCompletion cluster half status data s
  | .nvmeTimeout cluster half => Sys2Proof.Machine.execNvmeTimeout cluster half s
  | .storageLaneDecode cluster codec => Sys2Proof.Machine.execStorageLaneDecode cluster codec s
  | .requestDone j => Sys2Proof.Machine.execRequestDone j s
  | .transformOpStart cluster unit => Sys2Proof.Machine.execTransformOpStart cluster unit s
  | .loaderTile cluster engine slot => Sys2Proof.Machine.execLoaderTile cluster engine slot s
  | .storerTile cluster engine slot => Sys2Proof.Machine.execStorerTile cluster engine slot s
  | .nakanSendTile port => Sys2Proof.Machine.execNakanSendTile port s
  | .nakanTileReceive p => Sys2Proof.Machine.execNakanTileReceive p s
  | .nakanAck j => Sys2Proof.Machine.execNakanAck j s
  | .nakanNak j refusal => Sys2Proof.Machine.execNakanNak j refusal s
  | .nakanNoAnswer j => Sys2Proof.Machine.execNakanNoAnswer j s
  | .nakanFlitCrcFail port => Sys2Proof.Machine.execNakanFlitCrcFail port s
  | .relayStepStart stack slot => Sys2Proof.Machine.execRelayStepStart stack slot s
  | .relayPacketReceive stack p => Sys2Proof.Machine.execRelayPacketReceive stack p s
  | .relayBusyRetry j => Sys2Proof.Machine.execRelayBusyRetry j s
  | .relayPacketExpire stack j => Sys2Proof.Machine.execRelayPacketExpire stack j s
  | .relayNoAnswer j => Sys2Proof.Machine.execRelayNoAnswer j s
  | .stopNotice stack chan epoch peer cause => Sys2Proof.Machine.execStopNotice stack chan epoch peer cause s
  | .kernelPushing cluster entry => Sys2Proof.Machine.execKernelPushing cluster entry s
  | .tokenRingTimeout session ring => Sys2Proof.Machine.execTokenRingTimeout session ring s
  | .randomWordDelivery unit => Sys2Proof.Machine.execRandomWordDelivery unit s
  | .scheduleContext unit => Sys2Proof.Machine.execScheduleContext unit s
  | .sprintLimit key => Sys2Proof.Machine.execSprintLimit key s
  | .drowsy key => Sys2Proof.Machine.execDrowsy key s
  | .blockClears key => Sys2Proof.Machine.execBlockClears key s
  | .contextDrained key => Sys2Proof.Machine.execContextDrained key s
  | .taskBind cluster => Sys2Proof.Machine.execTaskBind cluster s
  | .parkedTaskRestore unit => Sys2Proof.Machine.execParkedTaskRestore unit s
  | .latchReplayLand key => Sys2Proof.Machine.execLatchReplayLand key s
  | .launchStart j => Sys2Proof.Machine.execLaunchStart j s
  | .launchRetire j => Sys2Proof.Machine.execLaunchRetire j s
  | .fatalFault j => Sys2Proof.Machine.execFatalFault j s
  | .flitCrcFail boundary => Sys2Proof.Machine.execFlitCrcFail boundary s
  | .thermalTrip => Sys2Proof.Machine.execThermalTrip s
  | .thermalThrottle hz => Sys2Proof.Machine.execThermalThrottle hz s
  | .clockLoweringAnnounce hz => Sys2Proof.Machine.execClockLoweringAnnounce hz s
  | .clockLoweringApply => Sys2Proof.Machine.execClockLoweringApply s
  | .graphLaunchNode ring => Sys2Proof.Machine.execGraphLaunchNode ring s
  | .graphCopyNode ring => Sys2Proof.Machine.execGraphCopyNode ring s
  | .graphNotifyNode ring => Sys2Proof.Machine.execGraphNotifyNode ring s
  | .graphConditionalNode ring => Sys2Proof.Machine.execGraphConditionalNode ring s
  | .graphEndNode ring => Sys2Proof.Machine.execGraphEndNode ring s
  | .graphLimit ring => Sys2Proof.Machine.execGraphLimit ring s
  | .commandDoorbell ring tail => Sys2Proof.Machine.execCommandDoorbell ring tail s
  | .ringReset ring => Sys2Proof.Machine.execRingReset ring s
  | .pheadWrite ring v => Sys2Proof.Machine.execPheadWrite ring v s
  | .tconsWrite session ring v => Sys2Proof.Machine.execTconsWrite session ring v s
  | .moduleReset => Sys2Proof.Machine.execModuleReset s
  | .functionLevelReset => Sys2Proof.Machine.execFunctionLevelReset s
  | .conventionalReset => Sys2Proof.Machine.execConventionalReset s
  | .registerWrite space offset bytes => Sys2Proof.Machine.execRegisterWrite space offset bytes s
  | .traceSample => Sys2Proof.Machine.execTraceSample s
  | .hostApertureAccess offset write bytes => Sys2Proof.Machine.execHostApertureAccess offset write bytes s
  | .clockRaise hz => Sys2Proof.Machine.execClockRaise hz s

end Sys2Proof.Machine
end

