-- ==== Sys2Proof/Machine/Step.lean ====
section
/-! DEFINITION. One step of the machine: an input, else the next turn of the cycle, else the passing of
the cycle (log entry 1); and a state about to fetch a given instruction. -/

namespace Sys2Proof.Machine

/-- One step: the first input acts; without inputs the next turn of the cycle happens; when the cycle has
no turn left, the next cycle begins. -/
def step (s : State) : Host.Outcome State Fault Refusal :=
  match s.inputs with
  | i :: rest => exec i { s with inputs := rest }
  | [] => match s.agenda with
    | t :: ts => perform t { s with agenda := ts }
    | [] => .next s.tick

/-- The bytes of a bundle that holds the slot whose bits are `w`: its header as R24 asks for it; where the
word is no instruction, a header with slot S0 alone. -/
def fetchBytes (nbits w : Nat) : List Byte :=
  match (decodeTableWord nbits w).bind bundleOf with
  | some bs => bs
  | none => leBytes 8 1 ++ leBytes (nbits / 8) w

/-- The unit that may execute the slot: a CCC for what R401 gives only to CCCs. -/
def fetchUnit (nbits w : Nat) : Nat :=
  match decodeTableWord nbits w with
  | some i => if profileBad false i then 8 else 0
  | none => 0

/-- A launch on cluster 0 whose code is long enough for the bundle, with every register granted. -/
def State.withLaunch (s : State) (size : Nat) : State :=
  match s.launchOn 0 with
  | some l => s.updLaunch l.uid fun l => { l with hdr := { l.hdr with codeSize := max l.hdr.codeSize size } }
  | none =>
    let hdr : Header := { scalars := 32, vectors := 32, descs := 16, codeSize := size }
    { s with launches := { Launch.none with mask := 1, st := .running, hdr } :: s.launches }

/-- The state with a slot's bits in the bundle that context 0 of a unit of cluster 0 issues next, in the
very next step (log entry 19). -/
def State.withFetchWord (s : State) (nbits w : Nat) : State :=
  let u := fetchUnit nbits w
  let bs := fetchBytes nbits w
  let c := s.ctxAt (8 * u)
  let s := s.withLaunch (c.pc.toNat + bs.length)
  let k := imemKey u ((s.unitAt u).codeBase + c.pc.toNat)
  let s := { s with mem := memWrite s.mem k bs, inputs := [], agenda := [.issue u] }
  let s := s.updUnit u fun x => { x with cur := some 0, mayIssue := 0 }
  s.setCtx (8 * u) { c with
    st := .issuing, opened := false, idle := none, done := 0, faults := [], stopDue := false, drowsy := false
    ignoreB := true, wait := none, preEnd := none, nextIssue := 0, lastIssue := s.cycle }

end Sys2Proof.Machine
end

