-- ==== Sys2Proof/Safety.lean ====
section
/-! DEFINITION. What counts as a safe run, in the terms the statements use: a step that answers a next
state, memory in its canonical form, and a module at rest. -/

namespace Sys2Proof.Machine

/-- An instruction completes: it answers a next state, of which `P` holds. -/
def gives (i : Instr) (s : State) (P : State → Prop) : Prop := ∃ t, exec i s = .next t ∧ P t

/-- The slot just executed has changed nothing but the acting context, which is now `c`, and is done. -/
def State.acted (s t : State) (c : Ctx) : Prop :=
  t = { s with ctxs := t.ctxs, flow := .done } ∧ t.ctx = c ∧ ∀ k, k ≠ s.cur → t.ctxAt k = s.ctxAt k

/-- A result in flight of the acting slot. -/
def State.result (s : State) (due : Nat) (fixed : Bool) (vals : List RegVal) (enq : Option Word) : Pending :=
  { vals, enq, due, fixed, seq := s.ctx.seq, slot := s.slot }

/-- R45, R46: the slot has one fixed-latency result in flight, and has done nothing else. -/
def State.promises (s t : State) (lat : Nat) (vals : List RegVal) (enq : Option Word) : Prop :=
  s.acted t { s.ctx with pend := s.ctx.pend ++ [s.result (s.cycle + lat) true vals enq] }

/-- R143: the fixed-latency result is a word for s[d], which also enters the result queue. -/
def State.promisesWord (s t : State) (lat d : Nat) (w : Word) : Prop := s.promises t lat [.s d w] (some w)

/-- R143: the fixed-latency result is an address for a[d]; its low word enters the result queue. -/
def State.promisesAddr (s t : State) (lat d : Nat) (x : Addr) : Prop :=
  s.promises t lat [.a d x] (some (x.setWidth 32))

/-- R49: a bank once a slot has put a variable-latency result in flight: the destinations are emptied in the cycle
of the bundle's issue, and not again where the slot commits later. -/
def Ctx.emptied' (c : Ctx) (cycle : Nat) (vals : List RegVal) : Bank :=
  if c.issueAt = cycle then c.bank.emptyDests vals else c.bank

/-- R45, R49: the slot has one variable-latency result in flight, its destinations are empty until then,
and it has done nothing else. -/
def State.willLand (s t : State) (due : Nat) (vals : List RegVal) (enq : Option Word) : Prop :=
  s.acted t { s.ctx with bank := s.ctx.emptied' s.cycle vals
                         pend := s.ctx.pend ++ [s.result due false vals enq] }

/-- The state whose tape has given its first number. -/
def State.drawn (s : State) : State := { s with choices := s.choices.tail }

/-- A variable-latency result at a time that nothing promises: what the tape says after the next cycle. -/
def State.willLandLater (s t : State) (vals : List RegVal) (enq : Option Word) : Prop :=
  s.drawn.willLand t (s.cycle + 2 + s.choices.headD 0) vals enq

/-- A result in flight at a time that nothing promises. -/
def State.laterPend (s : State) (vals : List RegVal) : Pending :=
  s.result (s.cycle + 2 + s.choices.headD 0) false vals none

/-- R109, R307, R320: the acting context's request of a class has entered its engine with the context's next
number, may start from the next cycle on (later by what the tape says), is late for its promise where the tape says so,
knows whether a lowering of the clock was announced, and has done nothing else but put `pend` in flight. -/
def State.enters (s t : State) (cls unit : Nat) (ev : Bool) (work : EngWork) (promise : Option Addr) (handle : Option Word)
    (pend : List Pending) : Prop :=
  let n := s.ctx.issued.getD cls 0 + 1
  t = { s with ctxs := t.ctxs, nextUid := s.nextUid + 1, choices := s.choices.tail.tail, flow := .done
               engs := s.engs ++ [{ id := s.nextUid, key := s.cur, slot := s.slot, addr := unitsAddr s.ctx.pc, cls, num := n
                                    launch := s.launch.uid, cluster := s.cluster, unit, ev, handle
                                    ready := s.cycle + 1 + s.choices.headD 0, work, warned := s.announced.isSome
                                    slow := s.choices.tail.headD 0 != 0 }] }
  ∧ t.ctx = { s.ctx with issued := s.ctx.issued.setIfInBounds cls n
                         reqs := s.ctx.reqs ++ [{ cls, num := n, promise }]
                         pend := s.ctx.pend ++ pend }
  ∧ ∀ k, k ≠ s.cur → t.ctxAt k = s.ctxAt k

/-- Memory stands in its canonical form. -/
def State.memOk (s : State) : Bool := Memory.wf s.mem

/-- A context that holds no work: FREE, with nothing in flight. -/
def Ctx.quiet' (c : Ctx) : Bool :=
  c.st == .free && c.pend.isEmpty && c.latches.isEmpty && c.accs.isEmpty && c.storeBuf.isEmpty && c.storeQ.isEmpty
    && c.atomics.isEmpty && c.preEnd.isNone

/-- A unit whose L1 waits for no fill and whose array has nothing to do. -/
def UnitSt.atRest (x : UnitSt) : Bool :=
  x.fills.isEmpty && x.arr.queue.isEmpty && x.arr.running.isEmpty && x.arr.deciding.isNone
    && x.arr.waiting.isEmpty && x.arr.evalWaiting.isEmpty

/-- A cluster with no storage command out and no kernel that pushes. -/
def ClusterSt.atRest (k : ClusterSt) : Bool :=
  k.halves.all (·.req.isNone) && k.streamCtl.all fun e => match e.st with
    | .pushing _ _ _ _ => false
    | .free => true
    | .pending _ => true
    | .resident => true
    | .failed => true
    | .waiting _ _ _ _ => true

/-- A command ring with no command to fetch, none in progress and nothing to post. -/
def CmdRing.atRest (r : CmdRing) : Bool :=
  r.posts.isEmpty && r.job == .idle && !r.rst && r.chead == r.ctail

/-- A session whose token rings count no time. -/
def Session.atRest (x : Session) : Bool := x.rings.all fun r => r.time == 0 || r.pending == 0

/-- A turn that a module at rest still takes: a look at a command ring. -/
def Turn.looksAtRing : Turn → Bool
  | .ring _ => true
  | _ => false

/-- No engine, port or relay has work. -/
def State.enginesAtRest (s : State) : Bool :=
  s.evals.isEmpty && s.engs.isEmpty && s.walks.isEmpty && s.parts.isEmpty && s.sent.isEmpty && s.inbox.isEmpty
    && s.relays.isEmpty && s.relaySent.isEmpty && s.relayBuf.isEmpty && s.relayNotices.isEmpty
    && s.relayQ.isEmpty && s.engineReads.isEmpty && s.portFlits.isEmpty && s.boundaryFlits.isEmpty

/-- The module is at rest: no input, no launch, no command, and nothing in progress. -/
def State.atRest (s : State) : Bool :=
  s.inputs.isEmpty && s.agenda.all Turn.looksAtRing && s.launches.isEmpty && s.enginesAtRest
    && s.ctxs.all (fun p => p.2.quiet') && s.units.all (fun p => p.2.atRest) && s.clusters.all (fun p => p.2.atRest)
    && s.faults.isEmpty && s.walkers.isEmpty && s.sessions.all (fun p => p.2.atRest) && s.hostHeld.isEmpty
    && s.rings.all (fun p => p.2.atRest) && s.fatals.isEmpty && s.announced.isNone && !s.dbg.en

/-- What passes at rest: the clocks. -/
def State.sameButTime (s t : State) : Prop :=
  t = { s with cycle := t.cycle, mtc := t.mtc, mtcFrac := t.mtcFrac, agenda := t.agenda }

/-! ## Run vectors (R166 to R177) -/

/-- R166: a run vector: at least one entry, every count at least 1. -/
def RunVec.ok (v : RunVec) : Bool := !v.isEmpty && v.all fun e => decide (0 < e.2)

/-- R170: no two entries in a row hold the same element. -/
def RunVec.joined : RunVec → Bool
  | a :: b :: r => a.1 != b.1 && RunVec.joined (b :: r)
  | _ => true

/-- R169, R177: element `p` of the long vector whose members, of length `l`, begin at v[base]; a shorter
member is read as if its last entry went on. -/
def State.longElem (s : State) (base l p : Nat) : Word := RunVec.elem (s.rdV (base + p / l)) (p % l)

/-- R168, R169: an entry of that long vector begins at `p`. -/
def State.longCut (s : State) (base l p : Nat) : Bool :=
  p % l == 0 || (RunVec.bounds (s.rdV (base + p / l))).contains (p % l)

/-- R177: the operands that begin at `bases`, of `g` members each, have the operation length `l`: all of
them that length, or with `.x` the longest; without operands it is VL. -/
def State.agree (s : State) (bases : List Nat) (g l : Nat) (ext : Bool) : Prop :=
  0 < l ∧ (bases = [] → l = s.launch.hdr.vl)
  ∧ (∀ b ∈ bases, ∀ k, k < g → RunVec.ok (s.rdV (b + k)) = true ∧ RunVec.len (s.rdV (b + k)) ≤ l
      ∧ (ext = false → RunVec.len (s.rdV (b + k)) = l))
  ∧ (bases ≠ [] → ∃ b ∈ bases, ∃ k, k < g ∧ RunVec.len (s.rdV (b + k)) = l)

/-- R169: the predicate fits the width of a type. -/
def State.widthOk (s : State) (q : BitVec 3) (ty : BitVec 4) : Prop :=
  q = 0 ∨ (s.rdQ q.toNat).width = widthCode (tyWidth ty)

/-- The entries of member `k`: how many of its positions begin one. -/
def entriesOf (l k : Nat) (cut : Nat → Bool) : Nat := ((List.range l).filter fun j => cut (k * l + j)).length

/-- R174: the V slot has work `e`: its pipe is busy, its results land when the pipe and the precheck are
done, and it has done nothing else. -/
def State.vectorLands (s t : State) (vals : List RegVal) (e : Nat) : Prop :=
  (s.updUnit s.unit fun x => { x with vBusy := x.vBusy.setIfInBounds (s.slot - 2) (s.ctx.issueAt + (e + 31) / 32) }).willLand
    t (max (s.ctx.issueAt + 2 + (e + 31) / 32) (s.ctx.issueAt + s.ctx.preK)) vals none

/-- R200, R201: the F slot has work `e` at latency `lf`: its pipe is busy, its results land when the pipe
and the precheck are done, and it has done nothing else. -/
def State.functionLands (s t : State) (lf : Nat) (vals : List RegVal) (e : Nat) : Prop :=
  let w := (e + 15) / 16
  (s.updUnit s.unit fun x => { x with fBusy := s.ctx.issueAt + w }).willLand
    t (max (max (s.ctx.issueAt + lf + w) (s.ctx.issueAt + s.ctx.preK)) (s.cycle + 1)) vals none

/-- R171, R176, R198: registers of a group from v[d] on: run vectors of length `l` whose elements are `val` and
whose entries begin where `cut` says, where none needs more than 128. They are what `lands` says, with the
sum of their entries. -/
def groupOf' (d g l : Nat) (val : Nat → Word) (cut : Nat → Bool) (lands : List RegVal → Nat → Prop) : Prop :=
  (∀ k, k < g → entriesOf l k cut ≤ 128) → ∃ ms : List RunVec, ms.length = g
    ∧ (∀ k, k < g → RunVec.ok (ms.getD k []) = true ∧ RunVec.len (ms.getD k []) = l
        ∧ (ms.getD k []).length = entriesOf l k cut)
    ∧ ms.flatMap RunVec.elems = (List.range (g * l)).map val
    ∧ lands ((List.range g).map fun k => .v (d + k) (ms.getD k [])) ((ms.map List.length).sum)

/-- R176: an operation that computes element by element: it reads va, vb and the old vd as told; `src` adds
to the places where an entry begins in the active part, and `val` is the value of an active element. -/
def State.elementResult (s : State) (i : Instr) (f : VFields) (a b d : Bool) (src : Nat → Nat → Bool)
    (val : Nat → Nat → Word → Word → Word → Word) : Prop :=
  let g := s.groupOf f.q
  let bases := (if a then [f.va.toNat] else []) ++ (if b && !f.bcast then [f.vb.toNat] else [])
    ++ (if d || f.q != 0 then [f.vd.toNat] else [])
  ∀ l, s.widthOk f.q f.ty → s.agree bases g l f.ext →
    let n := s.activeOf f.q (g * l)
    groupOf' f.vd.toNat g l
      (fun p => if p < n then val l p (s.longElem f.va.toNat l p)
          (if f.bcast then s.opSc f else s.longElem f.vb.toNat l p) (s.longElem f.vd.toNat l p)
        else s.longElem f.vd.toNat l p)
      (fun p => p % l == 0 || p == n || (Nat.blt p n && src l p)
        || (Nat.blt n p && f.q != 0 && s.longCut f.vd.toNat l p))
      fun vals e => gives i s fun t => s.vectorLands t vals e

/-- R198, R199: a function of each element: a scalar in the scalar form; in the vector form the active
elements, one entry for each entry of the source, or with SR for each stretch of equal results in one;
inactive elements take the last active result, or 0. -/
def State.functionResult (s : State) (i : Instr) (f : FFields) (src : BitVec 4) (lf : Nat) (fn : Word → Nat → Word) : Prop :=
  let g := s.groupOf f.q
  let r := f.src.toNat % 32
  let d := f.dst.toNat % 32
  (f.src.toNat < 32 → gives i s fun t => s.functionLands t lf [.s d (fn (s.rdS r) 0)] 1)
  ∧ ∀ l, 32 ≤ f.src.toNat → s.widthOk f.q src → s.agree [r] g l false →
    let n := s.activeOf f.q (g * l)
    let y := fun (p : Nat) => fn (s.longElem r l p) p
    groupOf' d g l (fun p => if p < n then y p else if n = 0 then 0 else y (n - 1))
      (fun p => p % l == 0
        || (Nat.blt p n && (s.longCut r l p || (f.rnd == 5 && y p != y (p - 1)))))
      fun vals e => gives i s fun t => s.functionLands t lf vals e

/-! ## Accesses of a context (R96, R98, R217, R221) -/

/-- R217: the acting slot's access to `n` bytes is admitted: the memory side has said so, or only windows and
the domain's L1 serve it and nothing holds it. -/
def State.admits (s : State) (kind : AccessKind) (va n align : Nat) : Prop :=
  (∃ a, s.acc = some a ∧ a.st = .admitted ∧ n ≤ a.size)
  ∨ (s.acc = none ∧ badAddr s.unit (pieces va n) = none ∧ va % align = 0
      ∧ (∀ p ∈ s.toOwner kind (pieces va n), paged s.unit p.1 = false) ∧ s.accVerdict s.cur kind va n = .ok)

/-- R98: a context after one of its L slots has committed: the access counts at its scoreboard slot, from now on unless
it has counted since its bundle's issue, and it is no longer listed. -/
def Ctx.committed (c : Ctx) (slot : Nat) (f : LFields) : Ctx :=
  let n := f.sbs.toNat
  let c := { c with accs := c.accs.filter (·.slot != slot) }
  if f.sbv = 0 then c
  else if (slot, n) ∈ c.sbSet then { c with sbSet := c.sbSet.filter (· != (slot, n)) }
  else { c with sb := c.sb.setIfInBounds n (c.sb.getD n 0 + 1) }

/-- The scoreboard slot of an L slot. -/
def slotSb (f : LFields) : Option Nat := if f.sbv = 1 then some f.sbs.toNat else none

/-- R217, R220: an L slot has loaded: its values land 5 cycles later with `fast`, else at a time that nothing
promises with their destinations empty until then; the slot has committed and done nothing else. -/
def State.hasLoaded (s t : State) (f : LFields) (fast : Bool) (vals : List RegVal) : Prop :=
  let c := s.ctx.committed s.slot f
  if fast then s.acted t { c with pend := c.pend ++ [{ s.result (s.cycle + 5) true vals none with sb := slotSb f }] }
  else s.drawn.acted t { c with
    bank := c.emptied' s.cycle vals
    pend := c.pend ++ [{ s.result (s.cycle + 2 + s.choices.headD 0) false vals none with sb := slotSb f }] }

/-- R96, R98, R221: the parts of a store: one for each sector, all completing its scoreboard slot together. -/
def State.storeParts' (s : State) (va : Nat) (bs : List Byte) (half : Bool) (sb : Option Nat) : List StoreEntry :=
  let ps := pieces va bs.length
  (List.range ps.length).map fun i =>
    let p := ps.getD i (0, 0)
    let last := i + 1 == ps.length
    { id := s.nextUid + i, store := s.nextUid, va := BitVec.ofNat 64 p.1, bytes := (bs.drop (p.1 - va)).take p.2
      sb, seq := s.ctx.seq, nibble := half && last }

/-- R217, R221: a slot has stored: the parts stand in address order behind those already there, in its context's store
buffer as far as its 16 entries have room; memory is untouched, and nothing else has changed. -/
def State.hasStored (s t : State) (c : Ctx) (parts : List StoreEntry) : Prop :=
  let room := 16 - c.storeBuf.length
  let all := c.storeQ ++ parts
  ({ s with nextUid := s.nextUid + parts.length } : State).acted t
    { c with storeBuf := c.storeBuf ++ all.take room, storeQ := all.drop room }

/-- Every byte of memory but those of a range reads as before. -/
def State.memKept (s t : State) (key n : Nat) : Prop :=
  ∀ k, (k < key ∨ key + n ≤ k) → memGet t.mem k = memGet s.mem k

/-! ## Commands (R434, R437, R462) -/

/-- R434, R437, R462: a command may act: its ring runs no other and is bound to session `x`, and the module works. -/
def State.serves (s : State) (h : CmdHead) (x : Nat) : Prop :=
  s.ringFree h.ring = true ∧ s.firmware.failed = false ∧ (s.ring h.ring).session = some x

end Sys2Proof.Machine
end

