-- ==== Sys2Proof/Certificates/Slice0/Obligations.lean ====
section
/-! DEFINITION. The statements about the model, by family; the rules they formalise are in their docstrings. -/

open Sys2Proof Sys2Proof.Machine

/-! ## The scalar engine -/

/-- R145: what the integer opcodes compute; the divisions are in `ImmediatesAddressesAndDivisions`.
Each has the latency of R61, writes s[dst], enters the result queue, and changes nothing else. -/
def Obligations.IntegerResults : Prop :=
  ∀ (s : State) (f : SFields),
    let a := (s.opA f).toNat
    let b := (s.opB f).toNat
    let x := (s.opA f).toInt
    let y := (s.opB f).toInt
    let n := b % 32
    let is := fun (i : Instr) (lat : Nat) (w : Word) => gives i s fun t => s.promisesWord t lat f.dst.toNat w
    let flag := fun (p : Bool) => if p then (1 : Word) else 0
    is (.add f) 1 (BitVec.ofNat 32 (a + b)) ∧ is (.sub f) 1 (BitVec.ofInt 32 ((a : Int) - b))
    ∧ is (.mul f) 2 (BitVec.ofNat 32 (a * b)) ∧ is (.mulh f) 2 (BitVec.ofInt 32 (x * y / 2 ^ 32))
    ∧ is (.mulhu f) 2 (BitVec.ofNat 32 (a * b / 2 ^ 32))
    ∧ is (.and f) 1 (s.opA f &&& s.opB f) ∧ is (.or f) 1 (s.opA f ||| s.opB f)
    ∧ is (.xor f) 1 (s.opA f ^^^ s.opB f) ∧ is (.andn f) 1 (s.opA f &&& ~~~s.opB f)
    ∧ is (.shl f) 1 (BitVec.ofNat 32 (a * 2 ^ n)) ∧ is (.shr f) 1 (BitVec.ofNat 32 (a / 2 ^ n))
    ∧ is (.sra f) 1 (BitVec.ofInt 32 (x / 2 ^ n))
    ∧ is (.rot f) 1 (BitVec.ofNat 32 (a * 2 ^ n + a / 2 ^ (32 - n)))
    ∧ is (.min f) 1 (BitVec.ofInt 32 (min x y)) ∧ is (.max f) 1 (BitVec.ofInt 32 (max x y))
    ∧ is (.minu f) 1 (BitVec.ofNat 32 (min a b)) ∧ is (.maxu f) 1 (BitVec.ofNat 32 (max a b))
    ∧ (∃ w : Word, is (.clz f) 1 w ∧ w.toNat ≤ 32 ∧ a < 2 ^ (32 - w.toNat) ∧ (w.toNat < 32 → 2 ^ (31 - w.toNat) ≤ a))
    ∧ is (.popc f) 1 (BitVec.ofNat 32 (((List.range 32).map fun k => a / 2 ^ k % 2).sum))
    ∧ is (.cmpeq f) 1 (flag (a == b)) ∧ is (.cmpne f) 1 (flag (a != b))
    ∧ is (.cmplt f) 1 (flag (decide (x < y))) ∧ is (.cmpltu f) 1 (flag (decide (a < b)))
    ∧ is (.cmple f) 1 (flag (decide (x ≤ y))) ∧ is (.cmpleu f) 1 (flag (decide (a ≤ b)))
    ∧ is (.sel f) 1 (if s.ctx.rd.t.getD f.mB.toNat 0 = 0 then s.opB f else s.opA f)
    ∧ is (.mov f) 1 (s.opA f)

/-- R147 to R149: the lane-by-lane opcodes: lane k of the result is the low W bits of the formula over
the rearranged lanes of A and B; latency 2 for PMUL and PMULH, else 1; nothing else changes.

R150: the packed opcodes whose result lanes are not one to one with their source lanes. PPACK,
PWIDEN and PSHUF have two lanes or more, as R142 asks. -/
def Obligations.PackedResults : Prop :=
  (∀ (s : State) (f : SFields),
    let wd := laneW f.w
    let hi : Int := 2 ^ (wd - 1)
    let a := fun k => (lane wd (s.opA f) (swzSrc f.mA (laneN f.w) k) : Int)
    let b := fun k => (lane wd (s.opB f) (swzSrc f.mB (laneN f.w) k) : Int)
    let x := fun k => if a k < hi then a k else a k - 2 ^ wd
    let y := fun k => if b k < hi then b k else b k - 2 ^ wd
    let sat := fun (lo hi v : Int) => max lo (min hi v)
    let is := fun (i : Instr) (lat : Nat) (r : Nat → Int) =>
      ∃ w : Word, (gives i s fun t => s.promisesWord t lat f.dst.toNat w)
        ∧ ∀ k, k < laneN f.w → (lane wd w k : Int) = r k % 2 ^ wd
    is (.padd f) 1 (fun k => a k + b k) ∧ is (.psub f) 1 (fun k => a k - b k)
    ∧ is (.padds f) 1 (fun k => sat (-hi) (hi - 1) (x k + y k))
    ∧ is (.psubs f) 1 (fun k => sat (-hi) (hi - 1) (x k - y k))
    ∧ is (.paddsn f) 1 (fun k => sat 0 (2 ^ wd - 1) (a k + b k))
    ∧ is (.psubsn f) 1 (fun k => sat 0 (2 ^ wd - 1) (a k - b k))
    ∧ is (.pmul f) 2 (fun k => a k * b k) ∧ is (.pmulh f) 2 (fun k => x k * y k / 2 ^ wd)
    ∧ is (.pmin f) 1 (fun k => min (x k) (y k)) ∧ is (.pmax f) 1 (fun k => max (x k) (y k))
    ∧ is (.pabsd f) 1 (fun k => (x k - y k).natAbs) ∧ is (.pavg f) 1 (fun k => (x k + y k + 1) / 2))
  ∧ (∀ (s : State) (f : SFields),
    let wd := laneW f.w
    let n := laneN f.w
    let a := fun k => lane wd (s.opA f) (swzSrc f.mA n k)
    let b := fun k => lane wd (s.opB f) (swzSrc f.mB n k)
    let signed := fun (v x : Nat) => if x < 2 ^ (v - 1) then (x : Int) else (x : Int) - 2 ^ v
    let sat := fun (v : Int) => max (-2 ^ (wd - 1)) (min (2 ^ (wd - 1) - 1) v)
    let is := fun (i : Instr) (lat : Nat) (P : Word → Prop) =>
      ∃ w : Word, P w ∧ gives i s fun t => s.promisesWord t lat f.dst.toNat w
    is (.pdot f) 2 (fun w => w = BitVec.ofInt 32 (((List.range n).map fun k => signed wd (a k) * signed wd (b k)).sum))
    ∧ (f.w ≠ 0 →
      is (.ppack f) 1 (fun w => ∀ k, k < n / 2 →
        (lane wd w k : Int) = sat (signed (2 * wd) (lane (2 * wd) (s.opA f) k)) % 2 ^ wd
        ∧ (lane wd w (n / 2 + k) : Int) = sat (signed (2 * wd) (lane (2 * wd) (s.opB f) k)) % 2 ^ wd)
      ∧ is (.pwiden f) 1 (fun w => ∀ k, k < n / 2 →
        let x := lane wd (s.opA f) (f.mA.toNat * (n / 2) + k)
        (lane (2 * wd) w k : Int) = (if f.mB = 0 then signed wd x else x) % 2 ^ (2 * wd))
      ∧ is (.pshuf f) 1 (fun w => ∀ k, k < n → lane wd w k = a ((s.opB f).toNat / 2 ^ (Nat.log2 n * k) % n))))

/-- R146, R151 and R143: immediates and addresses, of latency 1: addresses wrap, and their low word enters the queue; and
the divisions: what they compute and when they land, their destination empty until then. Nothing else changes. -/
def Obligations.ImmediatesAddressesAndDivisions : Prop :=
  (∀ (s : State) (f : SFields) (g : SImm),
    let word := fun (i : Instr) (d : BitVec 5) (w : Word) => gives i s fun t => s.promisesWord t 1 d.toNat w
    let addr := fun (i : Instr) (d : BitVec 5) (x : Addr) => gives i s fun t => s.promisesAddr t 1 d.toNat x
    let A := s.rdA f.a.toNat
    word (.limm g) g.dst g.imm ∧ word (.limmh g) g.dst (BitVec.ofNat 32 (g.imm.toNat % 2 ^ 16 * 0x00010001))
    ∧ (2 ^ 16 ≤ g.imm.toNat → (Instr.limmh g).wf = false)
    ∧ addr (.aadd f) f.dst (BitVec.ofInt 64 (A.toInt + (s.opB f).toInt))
    ∧ addr (.asub f) f.dst (BitVec.ofInt 64 (A.toInt - (s.opB f).toInt))
    ∧ addr (.amov f) f.dst A
    ∧ addr (.ajoin f) f.dst (BitVec.ofNat 64 ((s.opA f).toNat * 2 ^ 32 + (s.opB f).toNat))
    ∧ word (.asplit f) f.dst (BitVec.ofNat 32 (if f.mA.toNat % 2 = 1 then A.toNat / 2 ^ 32 else A.toNat))
    ∧ addr (.aimm g) g.dst (BitVec.ofInt 64 g.imm.toInt))
  ∧ (∀ (s : State) (f : SFields),
    let a := (s.opA f).toNat
    let b := (s.opB f).toNat
    let x := (s.opA f).toInt
    let y := (s.opB f).toInt
    let is := fun (i : Instr) (m : Nat) (w : Word) => ∃ lat, 4 ≤ lat ∧ lat ≤ 12
      ∧ (∀ k, m < 2 ^ (4 * k) ↔ lat ≤ 4 + k)
      ∧ gives i s fun t => s.willLand t (s.cycle + lat) [.s f.dst.toNat w] (some w)
    is (.div f) x.natAbs (if b = 0 then 0xFFFFFFFF else if x = -2 ^ 31 ∧ y = -1 then 0x80000000
      else BitVec.ofInt 32 (x.tdiv y))
    ∧ is (.divu f) a (if b = 0 then 0xFFFFFFFF else BitVec.ofNat 32 (a / b))
    ∧ is (.rem f) x.natAbs (if b = 0 then s.opA f else if x = -2 ^ 31 ∧ y = -1 then 0 else BitVec.ofInt 32 (x.tmod y))
    ∧ is (.remu f) a (if b = 0 then s.opA f else BitVec.ofNat 32 (a % b)))

/-- R152: fp32 arithmetic is exact arithmetic on the operands' values, rounded once to nearest even;
a comparison with a NaN gives 0; FCVT reads the low bits as its source type and rounds as its control
says, with random byte 0 of the bundle's word under SR. Latency 3; nothing else changes. -/
def Obligations.ScalarFloatResults : Prop :=
  ∀ (s : State) (f : SFields),
    let A := fp32 (s.opA f)
    let B := fp32 (s.opB f)
    let is := fun (i : Instr) (w : Word) => gives i s fun t => s.promisesWord t 3 f.dst.toNat w
    let flag := fun (p : Bool) => if p then (1 : Word) else 0
    is (.fadd f) (round32 (A.add B)) ∧ is (.fsub f) (round32 (A.sub B)) ∧ is (.fmul f) (round32 (A.mul B))
    ∧ (A.isNan = true → B.isNan = true → is (.fmin f) 0x7FC00000 ∧ is (.fmax f) 0x7FC00000)
    ∧ (A.isNan = true → B.isNan = false → is (.fmin f) (s.opB f) ∧ is (.fmax f) (s.opB f))
    ∧ (A.isNan = false → B.isNan = true → is (.fmin f) (s.opA f) ∧ is (.fmax f) (s.opA f))
    ∧ (A.lt B = true → is (.fmin f) (s.opA f) ∧ is (.fmax f) (s.opB f))
    ∧ (B.lt A = true → is (.fmin f) (s.opB f) ∧ is (.fmax f) (s.opA f))
    ∧ (s.opA f = s.opB f → A.isNan = false → is (.fmin f) (s.opA f) ∧ is (.fmax f) (s.opA f))
    ∧ (s.opA f = 0x80000000 → s.opB f = 0 → is (.fmin f) 0x80000000 ∧ is (.fmax f) 0)
    ∧ (s.opA f = 0 → s.opB f = 0x80000000 → is (.fmin f) 0x80000000 ∧ is (.fmax f) 0)
    ∧ is (.fcmplt f) (flag (A.lt B)) ∧ is (.fcmpeq f) (flag (A.eqv B))
    ∧ is (.fcvt f) (putVal (f.imm.extractLsb' 4 4) (f.imm.extractLsb' 8 3) (f.imm.getLsbD 11)
        (srByte s.ctx.srWord 0) (valOf (f.imm.extractLsb' 0 4) (s.opA f)))

/-! ## Control -/

/-- R153: at its slot a transfer only settles what follows its bundle: a target of 2 * disp32 bytes from
the bundle's address, RET's byte offset, and for CALL the link, the offset of the bundle after the
delay bundle. BRZ and BRNZ test s[dst] as read at issue.

R153, R154, R157, R28: where a context goes on when its bundle completes: after a transfer to its delay
bundle, with the target kept; after a delay bundle to the target of a taken transfer; with LE to the start
of the innermost loop while iterations remain; else to the exit of a LOOP of count 0, or to the bundle
that follows. The next bundle issues one cycle later, two at the exit of such a LOOP, and no earlier than a remote access
allows. Y and X act then, Y of a bundle with a transfer after its delay bundle.
A transfer slot that a handler marks done is log entry 47. -/
def Obligations.TransfersAndCompletion : Prop :=
  (∀ (s : State) (g : SImm),
    let c := s.ctx
    let v := s.rdS g.dst.toNat
    let goal : Addr := BitVec.ofInt 64 (c.pc.toInt + 2 * g.imm.toInt)
    let d := s.headerAt s.cur c.fall
    let link : Word := BitVec.ofNat 32 (c.fall.toNat + if hdrIdle d then 8 else bundleLen d)
    let after := fun (taken : Option Addr) => { c with after := { c.after with transfer := true, taken } }
    let is := fun (i : Instr) (c : Ctx) => gives i s fun t => s.acted t c
    is (.br g) (after (some goal))
    ∧ (v = 0 → is (.brz g) (after (some goal)) ∧ is (.brnz g) (after none))
    ∧ (v ≠ 0 → is (.brz g) (after none) ∧ is (.brnz g) (after (some goal)))
    ∧ is (.ret g) (after (some (v.setWidth 64)))
    ∧ is (.call g) { after (some goal) with
        pend := c.pend ++ [s.result (s.cycle + 1) true [.s g.dst.toNat link] (some link)] })
  ∧ (∀ (c : Ctx) (h : BitVec 64) (due : Bool) (cycle : Nat),
    let d := c.goOn h due cycle
    let loops := (innermost c.loops).map fun k => (k, c.loops.getD k {})
    d.done = 0 ∧ d.opened = false ∧ d.after = {} ∧ d.wait = none ∧ d.bank = c.bank ∧ d.pend = c.pend ∧ d.trap = c.trap
    ∧ (c.after.transfer = true →
        d.pc = c.fall ∧ d.dly = true ∧ d.target = c.after.taken ∧ d.yieldDue = (hdrY h || due)
        ∧ d.nextIssue = max c.nextIssue (cycle + 1))
    ∧ (c.after.transfer = false → d.dly = false)
    ∧ (c.after.transfer = false → d.yieldDue = (hdrY h || due || c.yieldDue))
    ∧ (∀ a, c.after.transfer = false → c.dly = true → c.target = some a → d.pc = a ∧ d.nextIssue = max c.nextIssue (cycle + 1))
    ∧ (∀ a, c.after.transfer = false → c.dly = false → c.after.exit = some a → d.pc = a ∧ d.nextIssue = max c.nextIssue (cycle + 2))
    ∧ (c.after.transfer = false → (c.dly = true → c.target = none) → (c.dly = false → c.after.exit = none) →
        d.nextIssue = max c.nextIssue (cycle + 1)
        ∧ ((hdrLE h = false ∨ loops = none) → d.pc = c.fall)
        ∧ (∀ k l, hdrLE h = true → loops = some (k, l) → l.remain.toNat ≤ 1 → d.pc = c.fall)
        ∧ (∀ k l, hdrLE h = true → loops = some (k, l) → 1 < l.remain.toNat → d.pc = bytesAddr l.start))
    ∧ ((hdrLE h = false ∨ loops = none) → d.loops = c.loops)
    ∧ (∀ k l, hdrLE h = true → loops = some (k, l) →
        d.loops = c.loops.setIfInBounds k { l with remain := l.remain - 1, active := decide (1 < l.remain.toNat) }))

/-- R156: LOOP: what an active loop of the same id ends, and then its exit or its new record; the depth is
the number of loops then active. Nothing else changes. -/
def Obligations.LoopResults : Prop :=
  ∀ (s : State) (f : SFields),
    let c := s.ctx
    let id := f.dst.toNat % 8
    let old := c.loops.getD id {}
    let ls := if old.active then c.loops.map fun x => if old.depth.toNat ≤ x.depth.toNat then { x with active := false } else x
      else c.loops
    let depth := (ls.toList.filter fun x => x.active).length
    (s.opA f = 0 → gives (.loop f) s fun t => s.acted t { c with
      loops := ls, after := { c.after with exit := some (BitVec.ofNat 64 (c.pc.toNat + 2 * f.imm.toNat)) } })
    ∧ (s.opA f ≠ 0 → gives (.loop f) s fun t => s.acted t { c with
      loops := ls.setIfInBounds id { depth := BitVec.ofNat 3 depth, active := true, start := unitsAddr c.fall, remain := s.opA f }
      after := { c.after with exit := none } })

/-- R87, R161, R162: what a recoverable trap of a context with a handler does, outside a handler: the trap
registers, with the pending target of a delay position, the handler's first bundle in the next cycle, the registers
and scoreboard slots back that its uncommitted slots held since issue, and nothing else but a debugger's stop and
trace. Without a handler, or inside one, the trap is a fatal fault: it is reported for the launch, and the context fetches nothing more.

R160: TRET in a handler settles that its bundle returns; outside one it takes NOTRAP, 0x92. When its
bundle completes, the context stands at TADDR with the slots in TDONE done and the delay position that
TFLAGS and TTARGET record, and issues in the second cycle after.
What TTARGET holds after a transfer not taken, and of an odd target, are log entries 45 and 46. -/
def Obligations.TrapEntryAndReturn : Prop :=
  ((∀ (s : State) (key slot sub cause : Nat) (code : Word) (done : BitVec 10) (faddr : Option Addr),
    let c := s.ctxAt key
    let h := (s.hdrOf key).handler
    h ≠ 0xFFFFFFFF → c.trap.inh = false → s.debugged key = false → c.stepping = false → c.stopDue = false →
    let t := s.trapCtx key slot sub cause code done faddr
    let d := t.ctxAt key
    t = { s with ctxs := t.ctxs, flow := .trapped } ∧ (∀ k, k ≠ key → t.ctxAt k = s.ctxAt k)
    ∧ d.trap.cause = BitVec.ofNat 32 (slot * 65536 + sub * 256 + cause) ∧ d.trap.addr = (c.pc >>> 1).setWidth 32
    ∧ d.trap.done = done ∧ d.trap.code = code ∧ d.trap.inh = true ∧ d.trap.dly = c.dly
    ∧ (c.dly = false → d.trap.target = 0)
    ∧ (∀ a, c.dly = true → c.target = some a → d.trap.target = (a >>> 1).setWidth 32)
    ∧ (c.dly = true → c.target = none → (hdrLE (s.headerAt key c.pc) = false ∨ innermost c.loops = none) →
        d.trap.target = ((s.bundleAfter key c.pc) >>> 1).setWidth 32)
    ∧ (∀ k, c.dly = true → c.target = none → hdrLE (s.headerAt key c.pc) = true → innermost c.loops = some k →
        d.trap.target = if 1 < (c.loops.getD k {}).remain.toNat then (c.loops.getD k {}).start
          else ((s.bundleAfter key c.pc) >>> 1).setWidth 32)
    ∧ d.faddr = faddr.getD c.faddr ∧ d.pc = h.setWidth 64 <<< 1 ∧ d.done = 0 ∧ d.opened = false
    ∧ d.nextIssue = max c.nextIssue (s.cycle + 1) ∧ d.st = c.st ∧ d.pend = c.pend ∧ d.loops = c.loops
    ∧ d.bank.s = c.bank.s ∧ d.bank.t = c.bank.t ∧ d.bank.a = c.bank.a ∧ d.bank.v = c.bank.v ∧ d.bank.q = c.bank.q
    ∧ d.bank.d = c.bank.d
    ∧ (∀ file n, n < 16 ∨ n < 32 ∧ file ≠ .a →
        d.bank.full file n = (c.bank.full file n || c.emptied.any fun x => !done.getLsbD x.1 && x.2 == (file, n)))
    ∧ (∀ n, n < 8 → d.sb.getD n 0 = c.sb.getD n 0 - (c.sbSet.filter fun x => x.2 == n).length)
    ∧ d.storeBuf = c.storeBuf ∧ d.atomics = c.atomics ∧ d.task = c.task)
  ∧ (∀ (s : State) (key slot sub cause : Nat) (code : Word) (done : BitVec 10) (faddr : Option Addr) (l : Launch),
    s.launchOn (clusterOf (unitOf key)) = some l → ((s.hdrOf key).handler = 0xFFFFFFFF ∨ (s.ctxAt key).trap.inh = true) →
    let c := s.ctxAt key
    let t := s.trapCtx key slot sub cause code done faddr
    t = { s with ctxs := t.ctxs, flow := .trapped, fatals :=
      s.fatals ++ [{ launch := l.uid, cause, key, slot, addr := (c.pc >>> 1).setWidth 32, code, inner := 0 }] }
    ∧ (∀ k, k ≠ key → t.ctxAt k = s.ctxAt k)
    ∧ t.ctxAt key = { c with wait := some { slot, since := s.cycle, blocked := true, cause := 4, why := .fatal } }))
  ∧ ((∀ (s : State) (f : SFields), s.ctx.trap.inh = true →
    gives (.tret f) s fun t => s.acted t { s.ctx with after := { s.ctx.after with resume := true } })
  ∧ (∀ (s : State) (f : SFields), s.ctx.trap.inh = false →
    exec (.tret f) s = .next (s.trapCtx s.cur s.slot 0 0x92 0 s.ctx.done))
  ∧ (∀ (s : State) (key : Nat), (s.ctxAt key).after.resume = true → (s.ctxAt key).stepping = false →
      (s.ctxAt key).stopDue = false → hdrY (s.headerAt key (s.ctxAt key).pc) = false → s.sprintDue key = false →
      ((s.ctxAt key).trap.yieldDue = false ∨ (s.ctxAt key).trap.dly = true) →
    let r := (s.ctxAt key).trap
    let d := (s.finishBundle key).ctxAt key
    d.pc = r.addr.setWidth 64 <<< 1 ∧ d.done = r.done ∧ d.dly = r.dly ∧ d.trap = { r with inh := false }
    ∧ d.target = (if r.dly then some (r.target.setWidth 64 <<< 1) else none)
    ∧ d.after = r.after ∧ d.yieldDue = r.yieldDue ∧ d.opened = false ∧ d.nextIssue = s.cycle + 2
    ∧ d.st = (s.ctxAt key).st ∧ d.bank = (s.ctxAt key).bank ∧ d.pend = (s.ctxAt key).pend))

/-- R159: TRAP takes SWTRAP, 0x91, with its code in TCODE and slot S1 recorded as done. -/
def Obligations.TrapInstruction : Prop :=
  ∀ (s : State) (f : SFields),
    exec (.trap f) s = .next (s.trapCtx s.cur s.slot 0 0x91 (BitVec.ofNat 32 f.imm.toNat) (s.ctx.done ||| 2))

/-! ## System registers -/

/-- R161, R163, R164, R475: RDSYS, RDTIME, FETEST and LAPRD: the value each writes to s[dst], which also enters the
queue; RDTIME and FETEST in one cycle, RDSYS and LAPRD at a time that nothing promises, their destination empty until
then, and nothing else changes; and what RDSYS reads in each system register that every context has.

R161, R165, R329, R403: WRSYS and the write of TADDR change their register, and SETEMPTY clears its bit, at the end of
the issue cycle, after what lands then, and nothing else changes. In a handler TADDR takes the value, TDONE becomes 0
and DLY clears; TDONE takes no bit of a slot absent from the trapped bundle; outside a handler both keep their value,
and a write to either that is issued there is discarded;
a cluster's own registers hold what was written.
Times that nothing promises come from the tape (log entry 2). When RDSYS samples is log entry 48, the v bits of a CCC log entry 49. -/
def Obligations.SystemRegisters : Prop :=
  ((∀ (s : State) (f : SFields),
    let c := s.ctx
    let word := fun (i : Instr) (w : Word) => gives i s fun t => s.promisesWord t 1 f.dst.toNat w
    let later := fun (i : Instr) (w : Word) => gives i s fun t => s.willLandLater t [.s f.dst.toNat w] (some w)
    later (.rdsys f) (s.sysRead s.cur f.sysNum)
    ∧ (f.mA = 0 → word (.rdtime f) (BitVec.ofNat 32 s.mtc.toNat))
    ∧ (f.mA = 1 → word (.rdtime f) (BitVec.ofNat 32 (s.mtc.toNat / 2 ^ 32)))
    ∧ (f.mA = 0 → word (.fetest f) (if f.a.toNat = 0 ∨ c.rd.sFull.getLsbD f.a.toNat = true then 1 else 0))
    ∧ (f.mA = 1 → word (.fetest f) (if c.rd.aFull.getLsbD f.a.toNat then 1 else 0))
    ∧ (f.mA = 2 → word (.fetest f) (if c.rd.vFull.getLsbD f.a.toNat then 1 else 0))
    ∧ (let n := (f.imm.extractLsb' 0 4).toNat
       let k := (f.imm.extractLsb' 8 4).toNat
       let z := Vector.replicate 10 (0 : Word)
       (f.imm.extractLsb' 12 2 = 0 → later (.laprd f) ((c.laps.fill.getD k z).getD n 0))
       ∧ (f.imm.extractLsb' 12 2 = 1 → later (.laprd f) ((c.laps.nop.getD k z).getD n 0))
       ∧ (f.imm.extractLsb' 12 2 = 2 → later (.laprd f) (c.laps.stall.getD n 0))
       ∧ (f.imm.extractLsb' 12 2 = 3 → later (.laprd f) (c.laps.block.getD n 0))))
  ∧ (∀ (s : State) (key : Nat),
    let c := s.ctxAt key
    let r := fun n => s.sysRead key n
    (∀ n, n < 4 → r n = (match c.task with | some t => t.args.getD n 0 | none => 0))
    ∧ r 4 = (match c.task with | some t => t.entry | none => 0)
    ∧ r 0x10 = c.trap.cause ∧ r 0x11 = c.trap.addr ∧ (r 0x12).toNat = c.trap.done.toNat ∧ r 0x13 = c.trap.code
    ∧ (r 0x14).toNat = (if c.trap.inh then 1 else 0) + (if c.trap.dly then 2 else 0) ∧ r 0x15 = c.trap.target
    ∧ (r 0x18).toNat = c.faddr.toNat % 2 ^ 32 ∧ (r 0x19).toNat = c.faddr.toNat / 2 ^ 32
    ∧ r 0x20 = BitVec.ofNat 32 c.sprint ∧ r 0x21 = BitVec.ofNat 32 (s.hdrOf key).sprint
    ∧ (∀ n, n < 8 → r (0x28 + n) = (c.loops.getD n {}).remain) ∧ (r 0x30).toNat = (s.hdrOf key).flags.toNat))
  ∧ ((∀ (s : State) (f : SFields),
    let soon := fun (i : Instr) (v : RegVal) => gives i s fun t => s.promises t 1 [v] none
    ((s.ctx.trap.inh = true ∨ f.sysNum ≠ 0x11 ∧ f.sysNum ≠ 0x12) →
      soon (.wrsys f) (.sys f.sysNum (s.opA f)) ∧ soon (.taddrWrite f) (.sys f.sysNum (s.opA f)))
    ∧ (s.ctx.trap.inh = false → f.sysNum = 0x11 ∨ f.sysNum = 0x12 →
      gives (.wrsys f) s (fun t => s.acted t s.ctx) ∧ gives (.taddrWrite f) s fun t => s.acted t s.ctx)
    ∧ (f.mA = 0 → soon (.setempty f) (.empty .s f.dst.toNat)) ∧ (f.mA = 1 → soon (.setempty f) (.empty .a f.dst.toNat))
    ∧ (f.mA = 2 → soon (.setempty f) (.empty .v f.dst.toNat)))
  ∧ (∀ (s : State) (key : Nat) (w : Word),
    let r := (s.ctxAt key).trap
    let cl := clusterOf (unitOf key)
    (r.inh = true →
      let d := ((s.sysWrite key 0x11 w).ctxAt key).trap
      d.addr = w ∧ d.done = 0 ∧ d.dly = false ∧ d.cause = r.cause ∧ d.code = r.code ∧ d.inh = true)
    ∧ (r.inh = true →
      let d := ((s.sysWrite key 0x12 w).ctxAt key).trap
      (∀ k, k < 10 → d.done.getLsbD k = (w.getLsbD k && (s.headerAt key (bytesAddr r.addr)).getLsbD k))
      ∧ { d with done := r.done } = r)
    ∧ (r.inh = false → s.sysWrite key 0x11 w = s ∧ s.sysWrite key 0x12 w = s)
    ∧ (∀ n, n < 32 → ((s.sysWrite key (0x100 + n) w).clusterAt cl).qpri.get 0 n = w.setWidth 3)
    ∧ ((s.sysWrite key 0x151 w).clusterAt cl).rdata = w ∧ ((s.sysWrite key 0x160 w).clusterAt cl).dlimit = w.setWidth 4))

/-- R404: a write to RTGT accesses a register of the named context: 3 in RSTAT for a name that has none or
a set reserved bit, 1 for a context that is not STOPPED, 2 with RDATA 0 for a gated register, else 0 with
the register read into RDATA or written from it. -/
def Obligations.RemoteRegisterAccess : Prop :=
  ∀ (s : State) (f : SFields),
    let w := s.opA f
    let key := 8 * unitNo s.cluster (w.extractLsb' 0 4).toNat + (w.extractLsb' 4 3).toNat
    let r := s.remoteReg key (w.extractLsb' 7 2).toNat (w.extractLsb' 9 12).toNat (w.getLsbD 31) (s.clusterAt s.cluster).rdata
    let named := w.extractLsb' 21 10 = 0 ∧ (w.extractLsb' 0 4).toNat < 8
    (named → (s.ctxAt key).drowsy = true → key ≠ s.cur → gives (.rtgtWrite f) s fun t =>
      (t.ctxAt key).drowsy = false ∧ t.ctx.nextIssue = s.cycle + 3)
    ∧ ((s.ctxAt key).drowsy = false →
    (¬ named → gives (.rtgtWrite f) s fun t => t = { s with clusters := t.clusters, flow := .done }
      ∧ t.clusterAt s.cluster = { s.clusterAt s.cluster with rstat := 3 })
    ∧ (named → (s.ctxAt key).st ≠ .stopped → r ≠ .bad → gives (.rtgtWrite f) s fun t =>
        t = { s with clusters := t.clusters, flow := .done }
        ∧ t.clusterAt s.cluster = { s.clusterAt s.cluster with rstat := 1 })
    ∧ (∀ v, named → (s.ctxAt key).st = .stopped → r = .read v → gives (.rtgtWrite f) s fun t =>
        t = { s with clusters := t.clusters, flow := .done }
        ∧ t.clusterAt s.cluster = { s.clusterAt s.cluster with rdata := v, rstat := 0 })
    ∧ (named → (s.ctxAt key).st = .stopped → r = .gated → w.getLsbD 31 = false → gives (.rtgtWrite f) s fun t =>
        t = { s with clusters := t.clusters, flow := .done }
        ∧ t.clusterAt s.cluster = { s.clusterAt s.cluster with rdata := 0, rstat := 2 })
    ∧ (named → r = .bad → gives (.rtgtWrite f) s fun t => (t.clusterAt s.cluster).rstat = 3
        ∧ (t.clusterAt s.cluster).rdata = (s.clusterAt s.cluster).rdata)
    ∧ (∀ u, named → (s.ctxAt key).st = .stopped → r = .wrote u → gives (.rtgtWrite f) s fun t =>
        (t.clusterAt s.cluster).rstat = 0 ∧ t.ctxs = u.ctxs))

/-! ## The run vector engine -/

/-- R169, R176, R177, R180: VADD to VNEG: each active element is computed exactly and rounded once, or
taken modulo 2^W, or saturated with `.sat` (m[2]); inactive elements keep the old value; an entry begins
at each boundary of an operand in the active part. -/
def Obligations.VectorArithmetic : Prop :=
  ∀ (s : State) (f : VFields),
    let ty := f.ty
    let int := tyIsInt ty
    let x := fun (w : Word) => intOf ty w
    let v := fun (w : Word) => valOf ty w
    let fit := fun (n : Int) => norm ty (BitVec.ofInt 32 (if f.m2 then max (intRange ty).1 (min (intRange ty).2 n) else n))
    let round := fun (n : Machine.Num) => norm ty (BitVec.ofNat 32 (roundTo ty 0 f.m2 0 n))
    let least := fun (a b : Word) =>
      if (v a).isNan && (v b).isNan then BitVec.ofNat 32 (nanBits ty)
      else if (v a).isNan then b else if (v b).isNan then a
      else if (v a).lt (v b) || ((v a).eqv (v b) && (v a).isNeg && !(v b).isNeg) then a else b
    let most := fun (a b : Word) =>
      if (v a).isNan && (v b).isNan then BitVec.ofNat 32 (nanBits ty)
      else if (v a).isNan then b else if (v b).isNan then a
      else if (v a).lt (v b) || ((v a).eqv (v b) && (v a).isNeg && !(v b).isNeg) then b else a
    let top := BitVec.ofNat 32 (2 ^ (tyWidth ty - 1))
    let cuts := fun (l p : Nat) => s.longCut f.va.toNat l p || (!f.bcast && s.longCut f.vb.toNat l p)
    let is2 := fun (i : Instr) (op : Word → Word → Word) => s.elementResult i f true true false cuts fun _ _ a b _ => op a b
    let is1 := fun (i : Instr) (op : Word → Word) =>
      s.elementResult i f true false false (s.longCut f.va.toNat) fun _ _ a _ _ => op a
    is2 (.vadd f) (fun a b => if int then fit (x a + x b) else round ((v a).add (v b)))
    ∧ is2 (.vsub f) (fun a b => if int then fit (x a - x b) else round ((v a).sub (v b)))
    ∧ is2 (.vmul f) (fun a b => if int then fit (x a * x b) else round ((v a).mul (v b)))
    ∧ s.elementResult (.vfma f) f true true true (fun l p => cuts l p || s.longCut f.vd.toNat l p) (fun _ _ a b d =>
        if int then fit (x a * x b + x d) else round (((v a).mul (v b)).add (v d)))
    ∧ is2 (.vmin f) (fun a b => norm ty (if int then BitVec.ofInt 32 (min (x a) (x b)) else least a b))
    ∧ is2 (.vmax f) (fun a b => norm ty (if int then BitVec.ofInt 32 (max (x a) (x b)) else most a b))
    ∧ is1 (.vabs f) (fun a => if int then fit (x a).natAbs else norm ty (a &&& ~~~top))
    ∧ is1 (.vneg f) (fun a => if int then fit (-x a) else norm ty (a ^^^ top))

/-- R181 to R183, R186: the bitwise operations and shifts on raw W-bit patterns, the comparisons (1 or 0
whatever the type), VSEL, VSPLAT, VMOV, and VSLIDE over the long vector.
The boundaries of a VSLIDE with a predicate are log entry 26. -/
def Obligations.VectorBitsAndMoves : Prop :=
  ∀ (s : State) (f : VFields),
    let ty := f.ty
    let wd := tyWidth ty
    let raw := fun (w : Word) => w.toNat % 2 ^ wd
    let signed := fun (w : Word) => if raw w < 2 ^ (wd - 1) then (raw w : Int) else (raw w : Int) - 2 ^ wd
    let flag := fun (p : Bool) => if p then (1 : Word) else 0
    let test := fun (p : Int → Int → Bool) (q : Machine.Num → Machine.Num → Bool) (a b : Word) =>
      flag (if tyIsInt ty then p (intOf ty a) (intOf ty b) else q (valOf ty a) (valOf ty b))
    let cuts := fun (l p : Nat) => s.longCut f.va.toNat l p || (!f.bcast && s.longCut f.vb.toNat l p)
    let is2 := fun (i : Instr) (op : Word → Word → Word) => s.elementResult i f true true false cuts fun _ _ a b _ => op a b
    let k := (s.opSc f).toInt
    let g := s.groupOf f.q
    is2 (.vand f) (fun a b => norm ty (a &&& b)) ∧ is2 (.vor f) (fun a b => norm ty (a ||| b))
    ∧ is2 (.vxor f) (fun a b => norm ty (a ^^^ b))
    ∧ is2 (.vshl f) (fun a b => norm ty (BitVec.ofNat 32 (a.toNat * 2 ^ (b.toNat % wd))))
    ∧ is2 (.vshr f) (fun a b => norm ty (BitVec.ofNat 32 (raw a / 2 ^ (b.toNat % wd))))
    ∧ is2 (.vsra f) (fun a b => norm ty (BitVec.ofInt 32 (signed a / 2 ^ (b.toNat % wd))))
    ∧ is2 (.vcmpeq f) (test (fun a b => a == b) Machine.Num.eqv) ∧ is2 (.vcmplt f) (test (fun a b => decide (a < b)) Machine.Num.lt)
    ∧ is2 (.vcmple f) (test (fun a b => decide (a ≤ b)) Machine.Num.le)
    ∧ s.elementResult (.vsel f) f true true true (fun l p => cuts l p || s.longCut f.vd.toNat l p)
        (fun _ _ a b d => if raw a = 0 then d else norm ty b)
    ∧ s.elementResult (.vsplat f) f false false false (fun _ _ => false) (fun _ _ _ _ _ => norm ty (s.opSc f))
    ∧ s.elementResult (.vmov f) f true false false (s.longCut f.va.toNat) (fun _ _ a _ _ => norm ty a)
    ∧ s.elementResult (.vslide f) f true false false
        (fun l p => let j := (p : Int) - k
          decide (0 ≤ j ∧ j ≤ g * l) && (decide (j = g * l) || s.longCut f.va.toNat l j.toNat))
        (fun l p _ _ _ => let j := (p : Int) - k
          norm ty (if 0 ≤ j ∧ j < g * l then s.longElem f.va.toNat l j.toNat
            else if f.m2 = false then 0 else s.longElem f.va.toNat l (if j < 0 then 0 else g * l - 1)))

/-- R184, R187: VSCAN: the running sum, in fp32 from -0 for float types, or with `.max` (m[2]) the running maximum; an
entry begins where the output changes. The reductions: over the active elements, weighted by their number; the float
sum rounds once per entry; s[vd] receives sc unchanged when no element is active.

R185, R186, R188 to R190: VCOAL, VRUNS, VLEN, VIOTA, VEXT, VINS and VTRIM: the elements and entries of
their results. -/
def Obligations.ScansReductionsAndRuns : Prop :=
  ((∀ (s : State) (f : VFields),
    let ty := f.ty
    let upTo := fun (l p : Nat) => (List.range (p + 1)).map fun j => s.longElem f.va.toNat l j
    let most := fun (a b : Word) =>
      if tyIsInt ty then if intOf ty a ≤ intOf ty b then b else a
      else if (valOf ty a).isNan && (valOf ty b).isNan then BitVec.ofNat 32 (nanBits ty)
      else if (valOf ty a).isNan then b else if (valOf ty b).isNan then a
      else if (valOf ty a).lt (valOf ty b) || ((valOf ty a).eqv (valOf ty b) && (valOf ty a).isNeg && !(valOf ty b).isNeg)
        then b else a
    let out := fun (l p : Nat) =>
      if f.m2 then norm ty ((upTo l p).tail.foldl most ((upTo l p).headD 0))
      else if tyIsInt ty then norm ty (BitVec.ofInt 32 (((upTo l p).map (intOf ty)).sum))
      else norm ty (BitVec.ofNat 32 (roundTo ty 0 false 0 (fp32
        ((upTo l p).foldl (fun acc w => round32 ((fp32 acc).add (valOf ty w))) 0x80000000))))
    s.elementResult (.vscan f) f true false false
      (fun l p => s.longCut f.va.toNat l p || decide (out l p ≠ out l (p - 1))) (fun l p _ _ _ => out l p))
  ∧ (∀ (s : State) (f : VFields) (l : Nat),
    let ty := f.ty
    let g := s.groupOf f.q
    let n := s.activeOf f.q (g * l)
    let sc := s.opSc f
    let entries := (List.range g).flatMap fun k => s.rdV (f.va.toNat + k)
    let weighted := activeEntries n entries
    let xs := (List.range n).map fun p => s.longElem f.va.toNat l p
    let ints := xs.map (intOf ty)
    let start : Int := if tySigned ty then sc.toInt else sc.toNat
    let lo : Int := if tySigned ty then -2 ^ 31 else 0
    let hi : Int := if tySigned ty then 2 ^ 31 - 1 else 2 ^ 32 - 1
    let word := fun (i : Instr) (w : Word) => gives i s fun t => s.vectorLands t [.s f.vd.toNat w] entries.length
    s.widthOk f.q ty → s.agree [f.va.toNat] g l false →
    (tyIsInt ty = true →
      word (.vrsum f) (BitVec.ofInt 32 (if f.m2 then max lo (min hi (start + ints.sum)) else start + ints.sum))
      ∧ word (.vrmax f) (BitVec.ofInt 32 (ints.foldl max start)) ∧ word (.vrmin f) (BitVec.ofInt 32 (ints.foldl min start)))
    ∧ (tyIsInt ty = false →
      word (.vrsum f) (weighted.foldl (fun acc e =>
        BitVec.ofNat 32 (roundTo 0 0 f.m2 0 ((fp32 acc).add ((valOf ty e.1).mul (.ofInt e.2))))) sc)
      ∧ word (.vrmax f) (weighted.foldl (fun acc e => fminmax true acc (round32 (valOf ty e.1))) sc)
      ∧ word (.vrmin f) (weighted.foldl (fun acc e => fminmax false acc (round32 (valOf ty e.1))) sc))
    ∧ word (.vrcnt f) (sc + BitVec.ofNat 32 (xs.filter fun w => w.toNat % 2 ^ tyWidth ty != 0).length)))
  ∧ (∀ (s : State) (f : VFields),
    let v := s.rdV f.va.toNat
    let d := s.rdV f.vd.toNat
    let n := (s.opSc f).toNat
    let k := (s.rdQ f.q.toNat).active.toNat
    let vl := s.launch.hdr.vl
    let word := fun (i : Instr) (w : Word) => gives i s fun t => s.vectorLands t [.s f.vd.toNat w] v.length
    let vec := fun (i : Instr) (P : RunVec → Prop) => ∃ r : RunVec, P r ∧ RunVec.ok r = true
      ∧ gives i s fun t => s.vectorLands t [.v f.vd.toNat r] r.length
    let few := fun (r : RunVec) => r.length ≤ 128
    RunVec.ok v = true → RunVec.ok d = true → few v → few d →
    vec (.vcoal f) (fun r => RunVec.elems r = RunVec.elems v ∧ r.length ≤ v.length ∧ RunVec.joined r = true)
    ∧ word (.vruns f) (BitVec.ofNat 32 v.length) ∧ word (.vlen f) (BitVec.ofNat 32 (RunVec.elems v).length)
    ∧ vec (.viota f) (fun r => r.map Prod.snd = v.map Prod.snd ∧ ∀ j, j < v.length →
        (r.map Prod.fst).getD j 0 = norm f.ty (s.opSc f + BitVec.ofNat 32 (((v.take j).map Prod.snd).sum)))
    ∧ (n < RunVec.len v → word (.vext f) (norm f.ty ((RunVec.elems v).getD n 0)))
    ∧ (RunVec.len v ≤ n → exec (.vext f) s = .next (s.lenmis (RunVec.len v) n))
    ∧ (s.widthOk f.q f.ty → (s.rdQ f.q.toNat).group = 1 → (k < RunVec.len d ∨ k = RunVec.len d ∧ k < vl) → d.length ≤ 126 →
        vec (.vins f) fun r => RunVec.elems r
          = (RunVec.elems d).take k ++ [norm f.ty (s.opSc f)] ++ (RunVec.elems d).drop (k + 1))
    ∧ (s.widthOk f.q f.ty → ((s.rdQ f.q.toNat).group ≠ 1 ∨ RunVec.len d < k ∨ k = RunVec.len d ∧ vl ≤ k) →
        exec (.vins f) s = .next (s.lenmis (RunVec.len d) k))
    ∧ (0 < n → n ≤ vl → (n ≤ RunVec.len v ∨ f.ext = true) →
        vec (.vtrim f) fun r => RunVec.elems r
          = (RunVec.elems v).take n ++ List.replicate (n - RunVec.len v) ((RunVec.elems v).getLastD 0))
    ∧ ((n = 0 ∨ vl < n ∨ RunVec.len v < n ∧ f.ext = false) → exec (.vtrim f) s = .next (s.lenmis (RunVec.len v) n)))

/-- R169, R176, R177, R195: the faults of the vector precheck, in the order of R173: QWIDTH when the predicate
has another width; LENMIS when lengths differ without `.x`; RUNOVF when a member would need more than 128
entries.

R57, R191: the predicate instructions: active count, width code and group of the result. -/
def Obligations.VectorFaultsAndPredicates : Prop :=
  (∀ (s : State) (f : VFields),
    let p := s.rdQ f.q.toNat
    let code := fun (a b : Nat) => BitVec.ofNat 32 (min a 2047 + min b 2047 * 65536)
    let both := [Instr.vadd f, .vsub f, .vmul f, .vmin f, .vmax f, .vand f, .vor f, .vxor f, .vshl f, .vshr f, .vsra f,
      .vcmpeq f, .vcmplt f, .vcmple f, .vfma f, .vsel f]
    let one := [Instr.vabs f, .vneg f, .vmov f, .vslide f, .vscan f]
    let into := [Instr.vrsum f, .vrmax f, .vrmin f, .vrcnt f]
    (∀ i, i ∈ both ++ one ++ into ++ [Instr.vsplat f, .vins f] → f.q ≠ 0 → p.width ≠ widthCode (tyWidth f.ty) →
      exec i s = .next (s.trap 0x23 (BitVec.ofNat 32 (p.width.toNat + 4 * (widthCode (tyWidth f.ty)).toNat))))
    ∧ (∀ i a b, i ∈ both → f.bcast = false → f.ext = false → f.q = 0 → RunVec.len (s.rdV f.va.toNat) = a →
        RunVec.len (s.rdV f.vb.toNat) = b → a ≠ b → (i = .vfma f ∨ i = .vsel f → RunVec.len (s.rdV f.vd.toNat) = a) →
        exec i s = .next (s.trap 0x22 (code (min a b) (max a b))))
    ∧ (∀ d (ms : List RunVec), (∀ m ∈ ms, m.length ≤ 128) → s.groupOut d ms
        = s.vectorOut ((List.range ms.length).map fun k => .v (d + k) (ms.getD k [])) ((ms.map List.length).sum))
    ∧ (∀ d (ms : List RunVec) m n, (∀ m ∈ ms, m.length ≤ 128) → 128 < m.length →
        s.groupOut d (ms ++ m :: n) = s.trap 0x21 (BitVec.ofNat 32 m.length)))
  ∧ (∀ (s : State) (f : VFields) (l : Nat),
    let n := (s.opSc f).toNat
    let code : BitVec 2 := match tyWidth f.ty with | 4 => 0 | 8 => 1 | 16 => 2 | _ => 3
    let g := f.imm.extractLsb' 0 3
    let src : Pred := if f.q = 0 then { active := 6144, width := 3, group := 1 } else s.rdQ f.q.toNat
    let count := ((List.range (g.toNat * l)).takeWhile fun p => (s.longElem f.va.toNat l p).toNat % 2 ^ tyWidth f.ty != 0).length
    let pred := fun (i : Instr) (p : Pred) (e : Nat) => gives i s fun t => s.vectorLands t [.q f.vd.toNat p] e
    pred (.qset f) { active := BitVec.ofNat 13 (min n 6144), width := code, group := g } 0
    ∧ pred (.qmin f) { src with active := BitVec.ofNat 13 (min src.active.toNat n) } 0
    ∧ (gives (.qget f) s fun t => s.vectorLands t
        [.s f.vd.toNat (BitVec.ofNat 32 (src.active.toNat + 2 ^ 13 * src.width.toNat + 2 ^ 15 * src.group.toNat))] 0)
    ∧ (0 < g.toNat → s.agree [f.va.toNat] g.toNat l false →
        pred (.qfromv f) { active := BitVec.ofNat 13 count, width := code, group := g }
          (((List.range g.toNat).map fun k => (s.rdV (f.va.toNat + k)).length).sum))
    ∧ (∀ a b, g = 2 → RunVec.len (s.rdV f.va.toNat) = a → RunVec.len (s.rdV (f.va.toNat + 1)) = b → a ≠ b →
        exec (.qfromv f) s = .next (s.trap 0x22 (BitVec.ofNat 32 (min (min a b) 2047 + min (max a b) 2047 * 65536)))))

/-! ## Number formats and the special-function unit -/

/-- R116, R121 to R123, R125: a float type's value of a pattern of bits: sign, exponent field and mantissa, subnormals
kept; and a value that a float type holds is unchanged by rounding into it, whatever the mode; a NaN becomes the
canonical one of R122. -/
def Obligations.FormatValues : Prop :=
  (∀ (ty : BitVec 4) (neg : Bool) (e m : Nat), ty.toNat < 5 → m < 2 ^ manBits ty → e < 2 ^ expBits ty →
    let w := 2 ^ (tyWidth ty - 1)
    let x := floatVal ty ((if neg then w else 0) + e * 2 ^ manBits ty + m)
    let top := decide (e = 2 ^ expBits ty - 1)
    tyWidth ty = 1 + expBits ty + manBits ty
    ∧ (ty = 0 ∨ ty = 1 ∨ ty = 3 → top = true → x = if m = 0 then .inf neg else .nan)
    ∧ (ty = 2 → top = true → m = 7 → x = .nan)
    ∧ ((top = false ∨ ty = 4 ∨ ty = 2 ∧ m < 7) →
        x = if e = 0 then .fin neg m (1 - expBias ty - manBits ty) else .fin neg (2 ^ manBits ty + m) ((e : Int) - expBias ty - manBits ty)))
  ∧ (∀ (ty : BitVec 4) (mode : BitVec 3) (sat : Bool) (r p : Nat), ty.toNat < 5 → r < 256 → p < 2 ^ tyWidth ty →
    ((floatVal ty p).isNan = false → roundTo ty mode sat r (floatVal ty p) = p)
    ∧ ((floatVal ty p).isNan = true → roundTo ty mode sat r (floatVal ty p) = nanBits ty))

/-- R123: rounding to nearest even: a finite value that does not overflow becomes the pattern whose value
is nearest to it among the finite values of the type, and of two that are equally near the one whose
last bit is 0. -/
def Obligations.RoundingIsNearest : Prop :=
  ∀ (ty : BitVec 4) (sat : Bool) (neg : Bool) (m : Nat) (e : Int) (p : Nat), ty.toNat < 5 → m ≠ 0 → p < 2 ^ tyWidth ty →
    let x := Machine.Num.fin neg m e
    let r := roundTo ty 0 sat 0 x
    let near := fun (q : Nat) => numDist (floatVal ty q) x
    let big := Machine.Num.fin false (2 ^ (manBits ty + 2) - 1) ((2 ^ expBits ty : Int) - (if ty = 0 ∨ ty = 1 ∨ ty = 3 then 2 else 1) - expBias ty - manBits ty - 1)
    (Machine.Num.fin false m e).lt (if ty = 2 then .fin false 29 4 else big) = true →
    (floatVal ty p).isFin = true →
      r < 2 ^ tyWidth ty ∧ (floatVal ty r).isFin = true ∧ (near r).le (near p) = true
      ∧ ((near r).eqv (near p) = true → p % 2 ^ (tyWidth ty - 1) ≠ r % 2 ^ (tyWidth ty - 1) → r % 2 = 0)

/-- R124, R125, R127: what each float type holds for a magnitude above its largest finite value by a binade or more, and
for an infinity, by mode and saturate control; an integer target takes the value rounded once under the mode,
saturated to its range; a NaN gives 0, an infinity the end of its sign.

R202: the roots and the reciprocal are exact before their one rounding: each magnitude is the true value
cut off, with a last bit that tells whether anything was cut off. -/
def Obligations.ExtremesIntegersAndRoots : Prop :=
  ((∀ (ty : BitVec 4) (mode : BitVec 3) (sat neg : Bool) (r : Nat) (m : Nat) (e : Int), ty.toNat < 5 → mode.toNat < 6 → r < 256 → m ≠ 0 →
    let sign := if neg then 2 ^ (tyWidth ty - 1) else 0
    let toward := mode = 1 ∨ (mode = 2 ∧ neg = true) ∨ (mode = 3 ∧ neg = false)
    let x := roundTo ty mode sat r (.fin neg m e)
    (expBias ty : Int) + 2 ≤ e + Nat.log2 m →
    (sat = true ∨ ty = 4 ∨ toward → x = sign + maxFinite ty)
    ∧ (sat = false → ty ≠ 4 → ¬ toward → x = sign + (match ty.toNat with | 0 => 0x7F800000 | 1 => 0x7F80 | 2 => 0x7F | _ => 0x7C))
    ∧ roundTo ty mode sat r (.inf neg) = (match ty.toNat with
        | 0 => sign + 0x7F800000 | 1 => sign + 0x7F80 | 3 => sign + 0x7C
        | _ => overflowBits ty mode sat neg))
  ∧ (∀ (ty : BitVec 4) (sat neg : Bool) (r m : Nat) (e : Int), tyIsInt ty = true →
    let w := tyWidth ty
    let lo : Int := if tySigned ty then -2 ^ (w - 1) else 0
    let hi : Int := if tySigned ty then 2 ^ (w - 1) - 1 else 2 ^ w - 1
    let put := fun (n : Int) => (((max lo (min hi (if neg then -n else n))) % 2 ^ w).toNat)
    let whole : Nat := if 0 ≤ e then m * 2 ^ e.toNat else m / 2 ^ (-e).toNat
    let rest : Nat := if 0 ≤ e then 0 else m % 2 ^ (-e).toNat
    let unit : Nat := if 0 ≤ e then 1 else 2 ^ (-e).toNat
    let is := fun (mode : BitVec 3) (up : Prop) => (up → roundTo ty mode sat r (.fin neg m e) = put (whole + 1))
      ∧ (¬ up → roundTo ty mode sat r (.fin neg m e) = put whole)
    is 0 (unit < 2 * rest ∨ 2 * rest = unit ∧ whole % 2 = 1) ∧ is 1 False ∧ is 2 (0 < rest ∧ neg = false)
    ∧ is 3 (0 < rest ∧ neg = true) ∧ is 4 (0 < rest ∧ unit ≤ 2 * rest) ∧ (r < 256 → is 5 (256 ≤ rest * 256 / unit + r))
    ∧ (∀ mode, roundTo ty mode sat r .nan = 0) ∧ (∀ mode, roundTo ty mode sat r (.inf neg) = put (2 ^ 40))))
  ∧ ((∀ n, isqrt n * isqrt n ≤ n ∧ n < (isqrt n + 1) * (isqrt n + 1))
  ∧ (∀ (neg : Bool) (m : Nat) (e : Int), m ≠ 0 →
      ∃ (n k : Nat), rcpOf (.fin neg m e) = .fin neg (2 * n + (if n * m = 2 ^ k then 0 else 1)) (-e - k - 1)
        ∧ n * m ≤ 2 ^ k ∧ 2 ^ k < (n + 1) * m ∧ 2 ^ 63 ≤ n)
  ∧ (∀ (m : Nat) (e : Int), m ≠ 0 →
      ∃ (n k : Nat) (h : Int), sqrtOf (.fin false m e) = .fin false (2 * n + (if n * n = m * 2 ^ k then 0 else 1)) (h - 1)
        ∧ 2 * h = e - k ∧ n * n ≤ m * 2 ^ k ∧ m * 2 ^ k < (n + 1) * (n + 1) ∧ 2 ^ 63 ≤ n)
  ∧ (∀ (m : Nat) (e : Int), m ≠ 0 →
      ∃ (n k : Nat) (h : Int), rsqOf (.fin false m e) = .fin false (2 * n + (if n * n * m = 2 ^ k then 0 else 1)) (h - 1)
        ∧ 2 * h = -e - k ∧ n * n * m ≤ 2 ^ k ∧ 2 ^ k < (n + 1) * (n + 1) * m ∧ 2 ^ 63 ≤ n))

/-- R203: the special values of the functions. -/
def Obligations.FunctionSpecialValues : Prop :=
  ∀ (ty : BitVec 4) (mode : BitVec 3) (sat : Bool) (r : Nat), ty.toNat < 2 →
    let nan := nanBits ty
    let sign := 2 ^ (tyWidth ty - 1)
    let inf := if ty = 0 then 0x7F800000 else 0x7F80
    let one := if ty = 0 then 0x3F800000 else 0x3F80
    let half := if ty = 0 then 0x3F000000 else 0x3F00
    let fn := fun (f : Func) (x : Nat) => funcOf f ty mode sat r (floatVal ty x)
    let root := fun (f : Machine.Num → Machine.Num) (x : Nat) => roundTo ty mode sat r (f (floatVal ty x))
    (∀ x, inf < x % sign → x < 2 * sign →
      (∀ f, fn f x = nan) ∧ root rcpOf x = nan ∧ root rsqOf x = nan ∧ root sqrtOf x = nan)
    ∧ fn .exp inf = inf ∧ fn .exp2 inf = inf ∧ fn .log2 inf = inf ∧ root rcpOf inf = 0 ∧ root rsqOf inf = 0
    ∧ root sqrtOf inf = inf ∧ fn .tanh inf = one ∧ fn .sigm inf = one ∧ fn .sin inf = nan ∧ fn .cos inf = nan
    ∧ fn .exp (sign + inf) = 0 ∧ fn .exp2 (sign + inf) = 0 ∧ fn .log2 (sign + inf) = nan ∧ root rcpOf (sign + inf) = sign
    ∧ root rsqOf (sign + inf) = nan ∧ root sqrtOf (sign + inf) = nan ∧ fn .tanh (sign + inf) = sign + one
    ∧ fn .sigm (sign + inf) = 0 ∧ fn .sin (sign + inf) = nan ∧ fn .cos (sign + inf) = nan
    ∧ fn .exp 0 = one ∧ fn .exp2 0 = one ∧ fn .log2 0 = sign + inf ∧ root rcpOf 0 = inf ∧ root rsqOf 0 = inf
    ∧ root sqrtOf 0 = 0 ∧ fn .tanh 0 = 0 ∧ fn .sigm 0 = half ∧ fn .sin 0 = 0 ∧ fn .cos 0 = one
    ∧ fn .exp sign = one ∧ fn .exp2 sign = one ∧ fn .log2 sign = sign + inf ∧ root rcpOf sign = sign + inf
    ∧ root rsqOf sign = sign + inf ∧ root sqrtOf sign = sign ∧ fn .tanh sign = sign ∧ fn .sigm sign = half
    ∧ fn .sin sign = sign ∧ fn .cos sign = one
    ∧ (∀ x, sign < x → x < sign + inf → fn .log2 x = nan ∧ root rsqOf x = nan ∧ root sqrtOf x = nan)

/-- R196 to R204: the F slot's functions of one element: the source read as its type, one result rounded
into ty, its latency, and what the vector form does with entries and inactive elements. The functions
themselves are those of `FunctionSpecialValues` and `ExtremesIntegersAndRoots`, and enclosures of the others. -/
def Obligations.FunctionResults : Prop :=
  ∀ (s : State) (f : FFields),
    let ty := f.ty
    let sat := f.sr == 1
    let rb := fun (k : Nat) => if f.rnd = 5 then (s.ctx.srWord.rotateLeft (5 * k % 32)).toNat % 256 else 0
    let fn := fun (g : Func) (w : Word) (k : Nat) => norm ty (BitVec.ofNat 32 (funcOf g ty f.rnd sat (rb k) (valOf ty w)))
    let root := fun (g : Machine.Num → Machine.Num) (w : Word) (k : Nat) => norm ty (BitVec.ofNat 32 (roundTo ty f.rnd sat (rb k) (g (valOf ty w))))
    s.functionResult (.fexp f) f ty 6 (fn .exp) ∧ s.functionResult (.fexp2 f) f ty 6 (fn .exp2)
    ∧ s.functionResult (.flog2 f) f ty 6 (fn .log2) ∧ s.functionResult (.frcp f) f ty 6 (root rcpOf)
    ∧ s.functionResult (.frsq f) f ty 6 (root rsqOf) ∧ s.functionResult (.fsqrt f) f ty 6 (root sqrtOf)
    ∧ s.functionResult (.ftanh f) f ty 8 (fn .tanh) ∧ s.functionResult (.fsigm f) f ty 8 (fn .sigm)
    ∧ s.functionResult (.fsin f) f ty 8 (fn .sin) ∧ s.functionResult (.fcos f) f ty 8 (fn .cos)
    ∧ s.functionResult (.fconv f) f 0 4 (fun w k => norm ty (BitVec.ofNat 32 (roundTo ty f.rnd sat (rb k) (fp32 w))))
    ∧ s.functionResult (.fdqt f) f ty 4 (fun w k => BitVec.ofNat 32 (roundTo 0 f.rnd sat (rb k) (valOf ty w)))
    ∧ s.functionResult (.frnd f) f ty 4 (fun w k => norm ty (BitVec.ofNat 32 (roundTo ty 0 sat 0 (match valOf ty w with
        | .fin neg m e => if m = 0 then .fin neg m e else .fin neg (roundMag f.rnd neg (rb k) m e 0) 0
        | x => x))))

/-- R126, R205: FQNT: the scale byte of the active elements: 0xFF with a NaN or an infinity, 0 without a
non-zero element, else the exponent of the largest less emax, biased by 127 and kept to a byte.

R200, R201, R206 to R208, R118: FCBE and FCBD with the codebook at a(8 + q), in window 0x0 or 0x1, 32-byte aligned:
the slot commits; the codebook is read at once, or where a store of an earlier bundle to it is not yet applied, once it
is; the result is the index of the first nearest entry, or the entry an index names, in ty, and lands no earlier than 6
cycles after the read. A bad address faults.
Times that nothing promises come from the tape (log entry 2). That FCBD writes the entry's bits is log entry 20. -/
def Obligations.QuantizerAndCodebooks : Prop :=
  (∀ (s : State) (f : FFields) (xs : List Machine.Num) (e : Nat),
    let d := f.dst.toNat % 32
    let r := f.src.toNat % 32
    let emax : Int := if f.ty = 4 then 2 else 8
    let is := fun (n : Nat) => gives (.fqnt f) s fun t => s.functionLands t 4 [.s d (BitVec.ofNat 32 n)] e
    (f.ty = 2 ∨ f.ty = 4) →
    ((f.src.toNat < 32 ∧ xs = [fp32 (s.rdS r)] ∧ e = 1)
      ∨ (32 ≤ f.src.toNat ∧ s.widthOk f.q 0 ∧ ∃ l es, s.agree [r] (s.groupOf f.q) l false
          ∧ es = activeEntries (s.activeOf f.q (s.groupOf f.q * l)) ((List.range (s.groupOf f.q)).flatMap fun k => s.rdV (r + k))
          ∧ xs = es.map (fun x => fp32 x.1) ∧ e = es.length)) →
    ((∃ x ∈ xs, x.isFin = false) → is 255)
    ∧ ((∀ x ∈ xs, x.isZero = true) → is 0)
    ∧ (∀ neg m k, .fin neg m k ∈ xs → m ≠ 0 → (∀ x ∈ xs, x.isFin = true) →
        (∀ neg' m' k', Machine.Num.fin neg' m' k' ∈ xs → m' ≠ 0 → k' + Nat.log2 m' ≤ k + Nat.log2 m) →
        is (max (-127) (min 127 (k + Nat.log2 m - emax)) + 127).toNat))
  ∧ ((∀ (s : State) (f : FFields),
    let va := (s.rdA (8 + f.q.toNat)).toNat
    let d := f.dst.toNat % 32
    let r := f.src.toNat % 32
    let cb := codebookOf (s.engineBytes (s.partyOf s.cur) va 32)
    let index := fun (w : Word) => BitVec.ofNat 32 (cbIndex cb (valOf f.ty w))
    let entry := fun (w : Word) => if f.ty = 0 then cb.getD (w.toNat % 16) 0 <<< 16 else cb.getD (w.toNat % 16) 0
    let lands := fun (i : Instr) (v : RegVal) (e : Nat) =>
      let w := (e + 15) / 16
      gives i s fun t =>
        ∃ due, max (max (s.ctx.issueAt + 6 + w) (s.ctx.issueAt + s.ctx.preK)) (s.cycle + 6) = due
          ∧ (s.updUnit s.unit fun x => { x with fBusy := s.ctx.issueAt + w }).willLand t due [v] none
    let waits := fun (i : Instr) (back : Bool) (v : RegVal) (e : Nat) =>
      let w := (e + 15) / 16
      gives i s fun t =>
        ∃ due, max (max (s.ctx.issueAt + 6 + w) (s.ctx.issueAt + s.ctx.preK)) (s.cycle + 1) = due
          ∧ (s.updUnit s.unit fun x => { x with fBusy := s.ctx.issueAt + w }).acted t { s.ctx with
            bank := s.ctx.emptied' s.cycle [v]
            pend := s.ctx.pend ++ [{ s.result due false [v] none with late := some { va, index := back, ty := f.ty } }] }
    (codebookOk s.unit va = true → (∀ p ∈ s.ctx.pend, p.seq ≠ s.ctx.seq ∨ p.slot ≠ s.slot) →
      (s.storeTouching s.cur s.ctx.seq va 32 = false → f.src.toNat < 32 →
        lands (.fcbe f) (.s d (index (s.rdS r))) 1 ∧ lands (.fcbd f) (.s d (entry (s.rdS r))) 1)
      ∧ (s.storeTouching s.cur s.ctx.seq va 32 = false → 32 ≤ f.src.toNat →
        lands (.fcbe f) (.v d ((s.rdV r).map fun x => (index x.1, x.2))) (s.rdV r).length
        ∧ lands (.fcbd f) (.v d ((s.rdV r).map fun x => (entry x.1, x.2))) (s.rdV r).length)
      ∧ (s.storeTouching s.cur s.ctx.seq va 32 = true → f.src.toNat < 32 →
        waits (.fcbe f) false (.s d (s.rdS r)) 1 ∧ waits (.fcbd f) true (.s d (s.rdS r)) 1)
      ∧ (s.storeTouching s.cur s.ctx.seq va 32 = true → 32 ≤ f.src.toNat →
        waits (.fcbe f) false (.v d (s.rdV r)) (s.rdV r).length ∧ waits (.fcbd f) true (.v d (s.rdV r)) (s.rdV r).length))
    ∧ (codebookOk s.unit va = false → exec (.fcbe f) s = .next (s.trap 0x30 0 (some (s.rdA (8 + f.q.toNat))))
        ∧ exec (.fcbd f) s = .next (s.trap 0x30 0 (some (s.rdA (8 + f.q.toNat))))))
  ∧ (∀ (s : State) (key va d : Nat) (w : Word) (v : RunVec) (ty : BitVec 4) (index vec : Bool) (p : Pending),
    p.late = some { va, index, ty } → p.vals = [if vec then .v d v else .s d w] →
    let cb := codebookOf (s.engineBytes (s.partyOf key) va 32)
    let look := fun (w : Word) => if index then (if ty = 0 then cb.getD (w.toNat % 16) 0 <<< 16 else cb.getD (w.toNat % 16) 0)
      else BitVec.ofNat 32 (cbIndex cb (valOf ty w))
    (s.storeTouching key p.seq va 32 = true → s.lookUp key p = p)
    ∧ (s.storeTouching key p.seq va 32 = false → s.lookUp key p = { p with
        vals := [if vec then .v d (v.map fun x => (look x.1, x.2)) else .s d (look w)], due := max p.due (s.cycle + 6), late := none })))

/-! ## Accumulators and the systolic array -/

/-- R192, R193: VACC: with `.peek` (m[2]) the row as it stands; else, when no chain and no operation holds the
accumulator, the row once it passes its line test. Adjacent equal elements form one entry. A row above 127
raises LENMIS, the issuing task's own chain ACCSELF, a type that is not the accumulator's KIND MTYPE.

R194: VACCW: the row, fp32 subnormals flushed, and the tile's checks: each column check and the corner
moved by the difference and rounded once, the row check summed anew. Nothing else of the array changes.
A VACC just after the task's own MEND is log entry 56. -/
def Obligations.AccumulatorRows : Prop :=
  (∀ (s : State) (f : VFields),
    let a := s.arrAt s.unit
    let n := f.va.toNat % 8
    let i := (s.opSc f).toNat
    let x := a.accs.getD n {}
    let row := (List.range 128).map fun j => x.data.get 0 (128 * i + j)
    let peek := f.m.getLsbD 2
    let kind : BitVec 4 := if x.int then 6 else 0
    let free := s.accBlocked n = false ∧ a.busyOn n = false
    let reads := fun (u : State) => ∃ r : RunVec, RunVec.ok r = true ∧ RunVec.elems r = row
      ∧ RunVec.joined r = true ∧ gives (.vacc f) s fun t => u.vectorLands t [.v f.vd.toNat r] r.length
    let self := a.chains.contains (n, s.taskNo)
    (peek = true → i < 128 → f.ty = kind → reads s)
    ∧ (peek = false → free → i < 128 → self = false → f.ty = kind →
        lineOk (if x.int then none else some 16) (row.map (accVal x.int)) (x.rc.get 0 i) = true →
        reads (s.updArr s.unit fun a => { a with verdicts := a.verdicts + 1 }))
    ∧ ((peek = true ∨ free) → 128 ≤ i → exec (.vacc f) s = .next (s.lenmis 128 i))
    ∧ (peek = false → free → i < 128 → self = true → exec (.vacc f) s = .next (s.trap 0x24 (BitVec.ofNat 32 n)))
    ∧ ((peek = true ∨ free ∧ self = false) → i < 128 → f.ty ≠ kind →
        exec (.vacc f) s = .next (s.trap 0x44 (BitVec.ofNat 32 (f.ty.toNat + 768))))
    ∧ (peek = false → s.accBlocked n = true → exec (.vacc f) s = .next (s.blockFor 4 (.accumulator n))))
  ∧ (∀ (s : State) (f : VFields),
    let a := s.arrAt s.unit
    let n := f.vd.toNat % 8
    let i := (s.opSc f).toNat
    let v := s.rdV f.va.toNat
    let x := a.accs.getD n {}
    let kind : BitVec 4 := if x.int then 6 else 0
    let keep := fun (w : Word) => if x.int = false ∧ w.extractLsb' 23 8 = 0 then w &&& 0x80000000 else w
    let new := fun (j : Nat) => keep (RunVec.elem v j)
    let old := fun (j : Nat) => x.data.get 0 (128 * i + j)
    let move := fun (c o w : Word) => if x.int then c - o + w else round32 (((fp32 c).sub (fp32 o)).add (fp32 w))
    let sum : Word := if x.int then ((List.range 128).map new).foldl (· + ·) 0
      else round32 (((List.range 128).map fun j => fp32 (new j)).foldl Machine.Num.add .zero)
    let ready := s.accBlocked n = false ∧ a.busyOn n = false
    let self := a.chains.contains (n, s.taskNo)
    let fits := RunVec.len v = 128 ∨ RunVec.len v < 128 ∧ f.ext = true
    n < a.accs.size → RunVec.ok v = true →
    (ready → fits → i < 128 → self = false → f.ty = kind →
      gives (.vaccw f) s fun t => ∃ y : Acc,
        (∀ j, j < 128 → y.data.get 0 (128 * i + j) = new j)
        ∧ (∀ k j, k ≠ i → j < 128 → y.data.get 0 (128 * k + j) = x.data.get 0 (128 * k + j))
        ∧ (∀ j, j < 128 → y.cc.get 0 j = move (x.cc.get 0 j) (old j) (new j)) ∧ y.rc.get 0 i = sum
        ∧ (∀ k, k ≠ i → y.rc.get 0 k = x.rc.get 0 k) ∧ y.ck = move x.ck (x.rc.get 0 i) sum
        ∧ y.int = x.int ∧ y.sums = x.sums ∧ y.pending = x.pending ∧ y.verdict = none
        ∧ (s.updArr s.unit fun a => { a with accs := a.accs.setIfInBounds n y }).vectorLands t [] v.length)
    ∧ (ready → fits → 128 ≤ i → exec (.vaccw f) s = .next (s.lenmis 128 i))
    ∧ (ready → RunVec.len v < 128 → f.ext = false → exec (.vaccw f) s = .next (s.lenmis (RunVec.len v) 128))
    ∧ (ready → 128 < RunVec.len v → exec (.vaccw f) s = .next (s.lenmis 128 (RunVec.len v)))
    ∧ (ready → fits → i < 128 → self = true → exec (.vaccw f) s = .next (s.trap 0x24 (BitVec.ofNat 32 n)))
    ∧ (ready → fits → i < 128 → self = false → f.ty ≠ kind →
        exec (.vaccw f) s = .next (s.trap 0x44 (BitVec.ofNat 32 (f.ty.toNat + 768))))
    ∧ (s.accBlocked n = true → exec (.vaccw f) s = .next (s.blockFor 4 (.accumulator n))))

/-- R249 to R256: the M slot: MCHAIN opens its chain when its task holds the array or the array is free, MEND
closes one, and MPUSH, MSHIFT, MACC, MCLR and MEND enter the M queue with the operand rows read; each changes
nothing else. Without a chain NOCHAIN, on an open one ACCOPEN. -/
def Obligations.ArrayIssue : Prop :=
  ∀ (s : State) (f : MFields),
    let a := s.arrAt s.unit
    let n := f.acc.toNat
    let task := s.taskNo
    let d := s.rdD f.d.toNat
    let r := regionOf d 0
    let c0 := 128 * f.stream.toNat
    let rd := s.reader (s.partyOf s.cur)
    let holds := a.chains.any fun c => c.2 == task
    let opened := a.chains.contains (n, task)
    let room := a.queue.length < 8
    let op := fun (k : MOpKind) => ({ kind := k, key := s.cur, task } : MOp)
    let leaves := fun (i : Instr) (g : Arr → Arr) => gives i s fun t =>
      t = { s.updUnit s.unit fun (x : UnitSt) => { x with arr := g x.arr } with flow := .done }
    let queues := fun (i : Instr) (k : MOpKind) => leaves i fun (a : Arr) => { a with queue := a.queue ++ [op k] }
    let trap := fun (i : Instr) (cause code : Nat) => exec i s = .next (s.trap cause (BitVec.ofNat 32 code))
    let ready := fun (spans : List (Nat × Nat)) => outsideWindows s.unit spans = none
      ∧ ∀ p ∈ spans, s.storeTouching s.cur s.ctx.seq p.1 p.2 = false
    let rows := maccRows f ((groupSize r.ty).getD 1)
    let bits := fun (i : Nat) => if f.flags.getLsbD 0 ∧ i < r.rows then [bitmapSpan r (dBitmap d) i f.stream.toNat] else []
    (opened = false → a.holder = some task → leaves (.mchain f) fun (a : Arr) =>
      { a with chains := a.chains ++ [(n, task)], waiting := a.waiting.filter (· != s.cur) })
    ∧ (opened = false → a.holder = none → a.evaluator = none → a.evalWaiting = [] → a.waiting = [] →
        leaves (.mchain f) fun (a : Arr) => { a with applied := a.retired.length, holder := some task, chains := a.chains ++ [(n, task)], waiting := [] })
    ∧ (opened = true → trap (.mchain f) 0x43 n)
    ∧ (opened = true → room → leaves (.mend f) fun (a : Arr) =>
        { a with chains := dropFirst (n, task) a.chains, ending := a.ending ++ [(n, task)], queue := a.queue ++ [op (.endChain n)] })
    ∧ (opened = false → trap (.mend f) 0x42 n)
    ∧ (s.accBlocked n = false → room → queues (.mclr f) (.clr n (f.flags.getLsbD 0)))
    ∧ (s.accBlocked n = true → exec (.mclr f) s = .next (s.blockFor 4 (.accumulator n)))
    ∧ (holds = true → room → queues (.mshift f) .shift)
    ∧ (holds = false → trap (.mshift f) 0x42 8 ∧ trap (.mpush f) 0x42 8)
    ∧ (holds = true → room → (groupSize r.ty).isSome = true → ready (operandSpans r f.row.toNat c0) →
        (tyIsMx r.ty = true → r.cols % 32 = 0) → queues (.mpush f) (.push r.ty f.row.toNat (operandRow r rd f.row.toNat c0)))
    ∧ (opened = false → trap (.macc f) 0x42 n)
    ∧ (opened = true → room → (groupSize r.ty).isSome = true → r.ty = (a.typesAhead n).2.1 →
        tyIsInt r.ty = (a.typesAhead n).2.2 → ready (rows.flatMap fun i => operandSpans r i c0 ++ bits i) →
        (f.flags.getLsbD 0 = true → dBitmap d % 8 = 0) → f.row.toNat % rows.length = 0 → f.row.toNat + rows.length ≤ 128 →
        (tyIsMx r.ty = true → r.cols % 32 = 0) →
        queues (.macc f) (.macc n (rows.map fun i => (i,
          if f.flags.getLsbD 0 ∧ i < r.rows then sparseRow r rd (dBitmap d) i f.stream.toNat (operandRow r rd i c0)
          else operandRow r rd i c0))))

/-- R251, R252, R254: what the array's operations do when they land: MPUSH sets one shadow row, clearing the
others when the type changes; MSHIFT takes the shadow as active and sums its columns into Wchk; a row of MACC
accumulates into every element of its row, into its row check, and into S; MCLR clears.

R244, R249, R255 to R257: an MDRAIN whose turn on its accumulator has come, with a verdict that stands for its type
and SAT, writes its row, and with LAST the trailer, once the context's earlier stores to them are applied, and leaves its
place; without one it takes a place behind what the accumulator has in flight and waits; an uncorrectable one raises
CHKUNC.
That no stored bit changes by itself is log entry 27. -/
def Obligations.ArrayEffectsAndDrains : Prop :=
  (∀ (a : Arr) (n i : Nat) (v : List Machine.Num) (key task : Nat), n < a.accs.size → v.length = 128 →
    let x := a.acc n
    let mx := tyIsMx a.activeTy
    let active := fun (j : Nat) => (List.range 128).map fun k => a.active.get .zero (128 * j + k)
    (∀ ty, let b := a.land { kind := .push ty i v, key, task }
      b.shadowTy = ty ∧ (∀ k, k < 128 → b.shadow.get .zero (128 * i + k) = v.getD k .zero)
      ∧ (∀ m k, m ≠ i → k < 128 → b.shadow.get .zero (128 * m + k) = if ty = a.shadowTy then a.shadow.get .zero (128 * m + k) else .zero)
      ∧ b.active = a.active ∧ b.accs = a.accs)
    ∧ ((∀ m, m < 8 → (a.acc m).pending = false) →
        let b := a.land { kind := .shift, key, task }
        b.active = a.shadow ∧ b.activeTy = a.shadowTy ∧ b.accs = a.accs ∧ b.shadow = a.shadow
        ∧ ∀ k, k < 128 → b.wchk.get 0 k = roundAcc (tyIsInt a.shadowTy)
            (((List.range 128).map fun m => a.shadow.get .zero (128 * m + k)).foldl Machine.Num.add .zero))
    ∧ (let y := (a.land { kind := .macc n [(i, v)], key, task }).acc n
       (∀ j, j < 128 → y.data.get 0 (128 * i + j) = accumulate x.int mx (x.data.get 0 (128 * i + j)) v (active j))
       ∧ (∀ m j, m ≠ i → j < 128 → y.data.get 0 (128 * m + j) = x.data.get 0 (128 * m + j))
       ∧ y.rc.get 0 i = accumulate x.int mx (x.rc.get 0 i) v a.checkWeights ∧ (∀ m, m ≠ i → y.rc.get 0 m = x.rc.get 0 m)
       ∧ (∀ k, k < 128 → y.sums.get 0 k = roundAcc x.int ((accVal x.int (x.sums.get 0 k)).add (v.getD k .zero)))
       ∧ y.cc = x.cc ∧ y.ck = x.ck ∧ y.int = x.int ∧ y.pending = true ∧ y.verdict = none)
    ∧ (∀ int, (a.land { kind := .clr n int, key, task }).acc n = { int })
    ∧ (∀ m op, m ≠ n → (op = .macc n [(i, v)] ∨ ∃ int, op = .clr n int) → (a.land { kind := op, key, task }).acc m = a.acc m))
  ∧ (∀ (s : State) (f : MFields),
    let a := s.arrAt s.unit
    let n := f.acc.toNat
    let r := regionOf (s.rdD f.d.toNat) 0
    let row := f.row.toNat
    let last := f.flags.getLsbD 0
    let sat := f.flags.getLsbD 1
    let p := s.partyOf s.cur
    let spans := rowSpan r row 0 r.cols :: if last then [(r.base + r.trailer, trailerSpace r.rows r.cols)] else []
    let legal := a.chains.contains (n, s.taskNo) = false ∧ drainFits (a.typesAhead n).2.2 r.ty = true
      ∧ outsideWindows s.unit spans = none ∧ r.rows ≤ 128 ∧ r.cols ≤ 128 ∧ row < r.rows
      ∧ (last = true → r.trailer % 256 = 0 ∧ (r.rows - 1) * r.pitch + packedSize r.ty r.cols ≤ r.trailer)
      ∧ s.accBlocked n = false
    let mine := fun (op : MOp) => op.key == s.cur && op.kind.isPlace && op.kind.accNo == some n
    let turn := a.inTurn s.cur n = true
    let still := (∀ p ∈ spans, s.storeTouching s.cur s.ctx.seq p.1 p.2 = false) ∧ s.guardOf (s.flatSpans s.unit p.session spans) none = none
    let writes := s.engineWrite p (drainWrites r (s.reader p) row last ((((a.acc n).verdict).map (·.rows)).getD []))
    legal →
    (∀ v, (a.acc n).verdict = some v → v.ty = r.ty → v.sat = sat → still →
      (a.busyOn n = false → exec (.mdrain f) s = .next (writes.ends .done))
      ∧ (turn → exec (.mdrain f) s = .next ((writes.updArr s.unit fun a => { a with
          queue := a.queue.filter fun op => !mine op, running := a.running.filter fun op => !mine op }).ends .done)))
    ∧ (∀ i j c, (a.acc n).verdict = none → turn → a.uncorrectable = some (n, r.ty, sat, i, j) → c = n + min i 255 * 256 + min j 255 * 65536 →
        exec (.mdrain f) s = .next ((s.updArr s.unit fun a => { a with
          uncorrectable := none
          queue := a.queue.filter fun op => !mine op, running := a.running.filter fun op => !mine op }).trap 0x41 (BitVec.ofNat 32 c)))
    ∧ ((a.acc n).verdict = none → a.uncorrectable = none → (a.queue ++ a.running).all (fun op => !mine op) = true →
        gives (.mdrain f) s fun t => t.flow = .wait ∧ (t.arrAt s.unit).accs = a.accs ∧ t.mem = s.mem
          ∧ (t.arrAt s.unit).queue = a.queue ++ [{ kind := .drain n r.ty sat, key := s.cur, task := s.taskNo, addr := unitsAddr s.ctx.pc }]
          ∧ (t.arrAt s.unit).running = a.running))

/-! ## Loads, stores and atomics -/

/-- R90, R91, R214 to R218: what becomes of an access that is not admitted at once: a bad address raises ADDR, a misaligned
one MISALIGN with the alignment, one that the memory side must see waits for its answer, and one that has been
answered with a fault takes it; and the windows of region 0xF as a core and a CCC see them, and the addresses that
exist nowhere.
How the two L slots of a bundle are admitted is log entry 6. -/
def Obligations.AccessIssue : Prop :=
  (∀ (s : State) (kind : AccessKind) (va n align : Nat),
    (s.admits kind va n align → s.lAdmit kind va n align = (s, true))
    ∧ (∀ a, s.acc = none → badAddr s.unit (pieces va n) = some a →
        s.lAdmit kind va n align = (s.trap 0x30 0 (some (BitVec.ofNat 64 a)), false))
    ∧ (s.acc = none → badAddr s.unit (pieces va n) = none → va % align ≠ 0 →
        s.lAdmit kind va n align = (s.trap 0x31 (BitVec.ofNat 32 align) (some (BitVec.ofNat 64 va)), false))
    ∧ (s.acc = none → badAddr s.unit (pieces va n) = none → va % align = 0 →
        (∃ p ∈ s.toOwner kind (pieces va n), paged s.unit p.1 = true) →
        ∃ t, s.lAdmit kind va n align = (t, false) ∧ t.flow = .wait ∧ t.mem = s.mem
          ∧ t.ctx.accs = s.ctx.accs ++ [{ slot := s.slot, kind, va := BitVec.ofNat 64 va, size := n, st := .asking s.cycle }]
          ∧ t.ctx.bank = s.ctx.bank ∧ t.ctx.pend = s.ctx.pend ∧ ∃ w, t.ctx.wait = some w ∧ w.blocked = false ∧ w.slot = s.slot)
    ∧ (∀ a c code x, s.acc = some a → a.st = .fault c code x → c ≠ 0x33 → c ≠ 0x95 → a.words = [] →
        s.lAdmit kind va n align = (s.trap c code (some (BitVec.ofNat 64 x.toNat)), false)))
  ∧ (∀ (ccc : Bool) (x : Nat), x < 2 ^ 48 →
    let at' := fun (w : Nat) => placeOf ccc (BitVec.ofNat 64 (15 * 2 ^ 52 + w * 2 ^ 48 + x))
    (ccc = false → x < 2 ^ 20 → at' 0 = .ownPad x) ∧ ((ccc = true ∨ 2 ^ 20 ≤ x) → at' 0 = .bad)
    ∧ (x < 2 ^ 24 → at' 1 = .sram x) ∧ (2 ^ 24 ≤ x → at' 1 = .bad)
    ∧ (ccc = false → x < 2 ^ 23 → at' 2 = .pad (x / 2 ^ 20) (x % 2 ^ 20)) ∧ ((ccc = true ∨ 2 ^ 23 ≤ x) → at' 2 = .bad)
    ∧ (x < 2 ^ 30 → x / 2 ^ 20 % 2 ^ 8 < 160 → at' 3 = .slice (x / 2 ^ 28) (x / 2 ^ 20 % 2 ^ 8) (x % 2 ^ 20))
    ∧ ((2 ^ 30 ≤ x ∨ 160 ≤ x / 2 ^ 20 % 2 ^ 8) → at' 3 = .bad) ∧ (∀ w, 4 ≤ w → w < 16 → at' w = .bad)
    ∧ (∀ r, 4 ≤ r → r < 8 ∨ 9 ≤ r ∧ r < 15 → placeOf ccc (BitVec.ofNat 64 (r * 2 ^ 52 + x)) = .bad)
    ∧ (∀ d y, d < 4 → y < 2 ^ 48 → placeOf ccc (BitVec.ofNat 64 (8 * 2 ^ 52 + d * 2 ^ 50 + y)) = .host d)
    ∧ (∀ r, r < 4 → placeOf ccc (BitVec.ofNat 64 (r * 2 ^ 52 + x)) = .hbm r)
    ∧ (∀ h, 0 < h → h < 256 → placeOf ccc (BitVec.ofNat 64 (h * 2 ^ 56 + x)) = .bad))

/-- R45, R97, R217, R220: the scalar loads: the bytes at x, little-endian, zero- or sign-extended, in 5 cycles from
the own scratchpad and else later; nothing but the L1s changes, and they not for a window. The context's earlier stores
to the sectors are applied first; a load waits while one of them, or an atomic, is left.

R5, R220 to R221, R271: the scalar stores and DST: the low bytes of the register enter the context's store buffer
with their address, the reserved fields of a descriptor as zeros; DLD: the 64 bytes at its address land in dn.
Times that nothing promises come from the tape (log entry 2). That a load reads its own context's buffered bytes over memory is log entry 24. -/
def Obligations.ScalarAccesses : Prop :=
  (∀ (s : State) (f : LFields),
    let x := fun (u : Nat) => ((s.rdA f.base.toNat).toInt + f.off.toInt * u) % 2 ^ 64
    let is := fun (i : Instr) (n : Nat) (val : Nat → RegVal) =>
      let va := (x n).toNat
      let u := s.drainSectors s.cur (pieces va n)
      let left := u.atomicBefore va n || u.storeBefore va n
      s.admits .load va n n →
      (left = false → gives i s fun t =>
        ((u.noteLoad va n).acquireAfter).hasLoaded t f (ownWindow s.unit va) [val (leNat (u.loadBytes s.cur va n))]
        ∧ (2 ^ 52 * 15 ≤ va → (∀ a, u.acc = some a → a.queued = false) → (u.noteLoad va n).acquireAfter = u))
      ∧ (left = true → exec i s = .next (u.stallFor 4 .storesApplied))
      ∧ (s.storeBefore va n = false → u = s)
    let r := f.reg.toNat
    let signed := fun (w : Nat) (v : Nat) => RegVal.s r (BitVec.ofInt 32 (if v < 2 ^ (w - 1) then (v : Int) else (v : Int) - 2 ^ w))
    is (.ldb f) 1 (fun v => .s r (BitVec.ofNat 32 v)) ∧ is (.ldbs f) 1 (signed 8)
    ∧ is (.ldh f) 2 (fun v => .s r (BitVec.ofNat 32 v)) ∧ is (.ldhs f) 2 (signed 16)
    ∧ is (.ldw f) 4 (fun v => .s r (BitVec.ofNat 32 v)) ∧ is (.lda f) 8 (fun v => .a r (BitVec.ofNat 64 v)))
  ∧ (∀ (s : State) (f : LFields) (g : DescMem),
    let x := fun (u : Nat) => (((s.rdA f.base.toNat).toInt + f.off.toInt * u) % 2 ^ 64).toNat
    let y := (((s.rdA g.am.toNat).toInt + g.off.toInt * 64) % 2 ^ 64).toNat
    let c := s.ctx.committed s.slot f
    let is := fun (i : Instr) (n v : Nat) => s.admits .store (x n) n n → gives i s fun t =>
      s.hasStored t c (s.storeParts' (x n) (leBytes n v) false (slotSb f))
    let drop := { s.ctx with accs := s.ctx.accs.filter (·.slot != s.slot) }
    let reserved := fun (k : Nat) => [(60, 64), (182, 192), (248, 256), (312, 320), (376, 384)].any fun r => Nat.ble r.1 k && Nat.blt k r.2
    is (.stb f) 1 (s.rdS f.reg.toNat).toNat ∧ is (.sth f) 2 (s.rdS f.reg.toNat).toNat
    ∧ is (.stw f) 4 (s.rdS f.reg.toNat).toNat ∧ is (.sta f) 8 (s.rdA f.reg.toNat).toNat
    ∧ (s.admits .store y 64 64 → ∃ d : BitVec 512,
        (∀ k, k < 512 → d.getLsbD k = ((s.rdD g.dn.toNat).getLsbD k && !reserved k))
        ∧ gives (.dst g) s fun t => s.hasStored t drop (s.storeParts' y (leBytes 64 d.toNat) false none))
    ∧ (let v := s.drainSectors s.cur (pieces y 64)
       s.admits .load y 64 64 → v.atomicBefore y 64 = false → v.storeBefore y 64 = false → gives (.dld g) s fun t =>
        let u := ((v.noteLoad y 64).acquireAfter).dropAcc
        u.willLandLater t [.d g.dn.toNat (BitVec.ofNat 512 (leNat (v.loadBytes s.cur y 64)))] none))

/-- R93, R97, R98, R104, R221, R223, R234, R433: an entry that may be applied is written at its owner when its address is a
window's, and leaves the buffer, into which waiting parts then enter in order; with the last part of its store the
store's scoreboard slot counts one less; behind another entry of its sector it is not applied. A write at an owner: device memory and windows take the bytes and nothing else of memory changes, but that a
POISON sector reads 0 in its other bytes; host memory takes them inside a window that may be written, and else only
the count of refusals changes.
Which entry of a buffer is tried is the tape's choice (log entry 2). -/
def Obligations.StoresApply : Prop :=
  (∀ (s : State) (key i : Nat) (e : StoreEntry),
    let c := s.ctxAt key
    let u := unitOf key
    let x := s.flat u (s.sessionOf u) e.va
    c.storeBuf[i]? = some e →
    (s.entryFree key e (c.storeBuf.take i) = true → (placeOf (isCcc u) e.va).isWindow = true → 2 ^ 52 * 15 ≤ e.va.toNat → e.nibble = false →
      gives (.storeApply key i) s fun t =>
        (∀ k, k < e.bytes.length → memGet t.mem (x + k) = e.bytes.getD k 0) ∧ s.memKept t x e.bytes.length
        ∧ t = { s with mem := t.mem, ctxs := t.ctxs } ∧ (∀ k, k ≠ key → t.ctxAt k = s.ctxAt k)
        ∧ (let rest := c.storeBuf.filter (·.id != e.id)
           let buf := rest ++ c.storeQ.take (16 - rest.length)
           t.ctxAt key = { c with
            storeBuf := buf, storeQ := c.storeQ.drop (16 - rest.length)
            sb := if buf.any (fun x => x.store == e.store) then c.sb else match e.sb with
              | some n => c.sb.setIfInBounds n (c.sb.getD n 0 - 1)
              | none => c.sb }))
    ∧ ((∃ j b, j < i ∧ c.storeBuf[j]? = some b ∧ b.va.toNat / 128 = e.va.toNat / 128) →
        s.guardOf [(x, e.bytes.length)] none = none → exec (.storeApply key i) s = .next s))
  ∧ (∀ (s : State) (u session : Nat) (va : Addr) (bs : List Byte),
    let x := s.flat u session va
    let t := s.ownerWrite u session va bs
    let host := ∃ d, placeOf (isCcc u) va = .host d
    let base := devKey session (va.toNat / 128 * 128)
    let writes := (∀ k, k < bs.length → memGet t.mem (x + k) = bs.getD k 0)
    (¬ host → (s.tagOf session va).tag ≠ .poison ∨ (placeOf (isCcc u) va).isWindow = true →
      writes ∧ s.memKept t x bs.length ∧ t = { s with mem := t.mem })
    ∧ ((∃ d, placeOf (isCcc u) va = .hbm d) → (s.tagOf session va).tag = .poison → va.toNat % 128 + bs.length ≤ 128 →
        writes ∧ (∀ k, k < 128 → (base + k < x ∨ x + bs.length ≤ base + k) → memGet t.mem (base + k) = 0)
        ∧ s.memKept t base 128 ∧ t = { s with mem := t.mem, tags := s.tags.del (sectorKey session va) })
    ∧ (host → hostAllowed s.hostWins (x - busKey 0) bs.length true = true → writes ∧ s.memKept t x bs.length ∧ t = { s with mem := t.mem })
    ∧ (host → hostAllowed s.hostWins (x - busKey 0) bs.length true = false →
        t = { s with viol := if s.viol = 0xFFFFFFFF then s.viol else s.viol + 1 }))

/-- R215, R223: an atomic commits with its operands as read at issue, its destination empty until the old value lands,
memory untouched until it is performed; performed at a window, memory holds the new value, every other byte is
unchanged, and the old value lands later in s[reg].
Times that nothing promises come from the tape (log entry 2). -/
def Obligations.AtomicResults : Prop :=
  (∀ (s : State) (f : LFields),
    let x := fun (u : Nat) => (((s.rdA f.base.toNat).toInt + f.off.toInt * u) % 2 ^ 64).toNat
    let r := f.reg.toNat
    let is := fun (i : Instr) (op : AtomicOp) (n : Nat) => s.admits .atomic (x n) n n → gives i s fun t =>
      let c := s.ctx.committed s.slot f
      ({ s with nextUid := s.nextUid + 1 } : State).acted t { c with
        bank := if c.issueAt = s.cycle ∧ r ≠ 0 then c.bank.setFull .s r false else c.bank
        atomics := c.atomics ++ [{ id := s.nextUid, op, ty := f.ty, va := BitVec.ofNat 64 (x n), s := s.rdS r, cmp := s.rdS (r + 1)
                                   dest := r, sb := (slotSb f), seq := c.seq, slot := s.slot }] }
    is (.amoadd f) .add 4 ∧ is (.amomin f) .min 4 ∧ is (.amomax f) .max 4 ∧ is (.amoswp f) .swp 4
    ∧ is (.amocas f) .cas 4 ∧ is (.amoand f) .and 4 ∧ is (.amoor f) .or 4
    ∧ is (.amofadd f) .fadd (if f.ty = 1 then 2 else 4))
  ∧ (∀ (s : State) (key : Nat) (a : AtomicReq) (rest : List AtomicReq),
    let c := s.ctxAt key
    let u := unitOf key
    let n := if a.op = .fadd ∧ a.ty = 1 then 2 else 4
    let x := s.flat u (s.sessionOf u) a.va
    let old : Word := BitVec.ofNat 32 (leNat ((List.range n).map fun k => memGet s.mem (x + k)))
    let new : Word := match a.op with
      | .add => BitVec.ofNat 32 (old.toNat + a.s.toNat)
      | .min => if a.ty = 6 then BitVec.ofInt 32 (min old.toInt a.s.toInt) else BitVec.ofNat 32 (min old.toNat a.s.toNat)
      | .max => if a.ty = 6 then BitVec.ofInt 32 (max old.toInt a.s.toInt) else BitVec.ofNat 32 (max old.toNat a.s.toNat)
      | .swp => a.s
      | .cas => if old = a.s then a.cmp else old
      | .and => old &&& a.s
      | .or => old ||| a.s
      | .fadd => BitVec.ofNat 32 (roundTo a.ty 0 false 0 ((valOf a.ty old).add (valOf a.ty a.s)))
    s.memOk = true → c.atomics = a :: rest → 2 ^ 52 * 15 ≤ a.va.toNat → (placeOf (isCcc u) a.va).isWindow = true →
    (∀ e ∈ c.storeBuf ++ c.storeQ, a.id ≤ e.id ∨ e.va.toNat / 128 ≠ a.va.toNat / 128) → s.guardOf [(x, 4)] none = none →
    gives (.atomicPerform key) s fun t =>
      leNat ((List.range n).map fun k => memGet t.mem (x + k)) = new.toNat % 2 ^ (8 * n) ∧ s.memKept t x n
      ∧ (∀ k, k ≠ key → t.ctxAt k = s.ctxAt k)
      ∧ t.ctxAt key = { c with
          atomics := c.atomics.filter (·.id != a.id)
          pend := c.pend ++ [{ vals := [.s a.dest old], due := s.cycle + 2 + s.choices.headD 0, fixed := false, seq := a.seq
                               slot := a.slot, sb := a.sb }] })

/-- R224 to R229: the vector loads: the elements of a packed row, of a run-pair image, of a bit-mask image; a
malformed image raises FMTERR with its code, one of more than 128 entries RUNOVF.

R225 to R228: the vector stores: the packed low bits of the elements, the run-pair image, and the bit-mask image
or, when the elements that are not zero outnumber CAP, its overrun header before SPOVR.
Times that nothing promises come from the tape (log entry 2). -/
def Obligations.VectorAccesses : Prop :=
  (∀ (s : State) (f : LFields),
    let x := fun (u : Nat) => (((s.rdA f.base.toNat).toInt + f.off.toInt * u) % 2 ^ 64).toNat
    let wd := tyWidth f.ty
    let u := max 1 (wd / 8)
    let vl := s.launch.hdr.vl
    let bytes := fun (va n : Nat) => leNat (s.loadBytes s.cur va n)
    let ready := fun (va n al : Nat) => s.admits .load va n al ∧ s.atomicBefore va n = false ∧ s.storeBefore va n = false
    let lands := fun (i : Instr) (va n : Nat) (P : RunVec → Prop) => ∃ r : RunVec, P r ∧ gives i s fun t =>
      ((s.noteLoad va n).acquireAfter).hasLoaded t f false [.v f.reg.toNat r]
    let runs := fun (es : List Word) (r : RunVec) => RunVec.elems r = es ∧ RunVec.joined r = true
    let few := fun (es : List Word) => (coalesceWords es).length ≤ 128
    let fmt := fun (i : Instr) (code : Nat) => exec i s = .next (s.trap 0x39 (BitVec.ofNat 32 code) (some s.ctx.faddr))
    (let n := (vl * wd + 7) / 8
     let es := (List.range vl).map fun i => norm f.ty (BitVec.ofNat 32 (bytes (x u) n / 2 ^ (wd * i) % 2 ^ wd))
     ready (x u) n u →
       (few es → lands (.vld f) (x u) n (runs es))
       ∧ (¬ few es → exec (.vld f) s = .next (s.trap 0x21 (BitVec.ofNat 32 (coalesceWords es).length) (some s.ctx.faddr))))
    ∧ (let va := x 8
       let h := bytes va 8
       let len := h % 65536
       let ent := h / 65536 % 65536
       let n := 8 + 8 * ent
       let word := fun (k : Nat) => bytes va n / 2 ^ (64 * (k + 1)) % 2 ^ 64
       let count := fun (k : Nat) => word k / 2 ^ 32 % 2048
       let reserved := h / 2 ^ 36 ≠ 0 ∨ ∃ k, k < ent ∧ word k / 2 ^ 43 ≠ 0
       let typed := h / 2 ^ 32 % 16 = f.ty.toNat
       let sound := len ≠ 0 ∧ len ≤ vl ∧ (∀ k, k < ent → count k ≠ 0 ∧ count k ≤ 1024) ∧ ((List.range ent).map count).sum = len
       ready va 8 8 → 1 ≤ ent → ent ≤ 128 → ready va n 8 →
         (¬ reserved → typed → sound → lands (.vldr f) va n fun r =>
           r = (List.range ent).map fun k => (norm f.ty (BitVec.ofNat 32 (word k)), count k))
         ∧ (reserved → fmt (.vldr f) 5) ∧ (¬ reserved → ¬ typed → fmt (.vldr f) 1)
         ∧ (¬ reserved → typed → ¬ sound → fmt (.vldr f) 2))
    ∧ (let va := x 8
       let h := bytes va 8
       let len := h % 65536
       let nz := h / 65536 % 65536
       let cap := h / 2 ^ 32 % 65536
       let ml := 8 * ((len + 63) / 64)
       let mask := bytes va (8 + ml) / 2 ^ 64
       let n := 8 + ml + (nz * wd + 7) / 8
       let bit := fun (i : Nat) => mask / 2 ^ i % 2
       let rank := fun (i : Nat) => ((List.range i).map bit).sum
       let val := fun (k : Nat) => norm f.ty (BitVec.ofNat 32 (bytes va n / 2 ^ (8 * (8 + ml) + wd * k) % 2 ^ wd))
       let es := (List.range len).map fun i => if bit i = 1 then val (rank i) else 0
       let fits := len ≠ 0 ∧ len ≤ vl ∧ nz ≤ len ∧ nz ≤ cap
       ready va 8 8 →
         (h / 2 ^ 53 ≠ 0 → fmt (.vldb f) 5)
         ∧ (h / 2 ^ 53 = 0 → h / 2 ^ 48 % 16 ≠ f.ty.toNat → fmt (.vldb f) 1)
         ∧ (h / 2 ^ 53 = 0 → h / 2 ^ 48 % 16 = f.ty.toNat → h / 2 ^ 52 % 2 = 1 → fmt (.vldb f) 3)
         ∧ (h / 2 ^ 53 = 0 → h / 2 ^ 48 % 16 = f.ty.toNat → h / 2 ^ 52 % 2 = 0 →
             (¬ fits → fmt (.vldb f) 2)
             ∧ (fits → ready va (8 + ml) 8 →
                 ((rank (8 * ml) ≠ nz ∨ mask / 2 ^ len ≠ 0) → fmt (.vldb f) 4)
                 ∧ (rank (8 * ml) = nz → mask / 2 ^ len = 0 → ready va n 8 → few es → lands (.vldb f) va n (runs es))))))
  ∧ (∀ (s : State) (f : LFields),
    let x := fun (u : Nat) => (((s.rdA f.base.toNat).toInt + f.off.toInt * u) % 2 ^ 64).toNat
    let wd := tyWidth f.ty
    let u := max 1 (wd / 8)
    let v := s.rdV f.reg.toNat
    let es := RunVec.elems v
    let raw := fun (w : Word) => w.toNat % 2 ^ wd
    let nz := es.filter fun w => raw w != 0
    let number := fun (ws : List Word) => ((List.range ws.length).map fun i => raw (ws.getD i 0) * 2 ^ (wd * i)).sum
    let size := (es.length * wd + 7) / 8
    let mask := ((List.range es.length).map fun i => if raw (es.getD i 0) = 0 then 0 else 2 ^ i).sum
    let run := leBytes 8 (es.length + v.length * 2 ^ 16 + f.ty.toNat * 2 ^ 32)
      ++ v.flatMap fun e => leBytes 8 ((norm f.ty e.1).toNat + e.2 * 2 ^ 32)
    let cap := leNat (s.loadBytes s.cur (x 8 + 4) 2)
    let head := fun (ovr : Nat) => leBytes 8 (es.length + nz.length * 2 ^ 16 + cap * 2 ^ 32 + f.ty.toNat * 2 ^ 48 + ovr * 2 ^ 52)
    let image := head 0 ++ leBytes (8 * ((es.length + 63) / 64)) mask ++ leBytes ((nz.length * wd + 63) / 64 * 8) (number nz)
    let is := fun (i : Instr) (va : Nat) (bs : List Byte) (half : Bool) (al : Nat) => s.admits .store va bs.length al →
      gives i s fun t => s.hasStored t (s.ctx.committed s.slot f) (s.storeParts' va bs half (slotSb f))
    is (.vst f) (x u) (leBytes size (number es)) (wd == 4 && es.length % 2 == 1) u
    ∧ is (.vstr f) (x 8) run false 8
    ∧ (s.admits .store (x 8) 8 8 → s.atomicBefore (x 8) 8 = false → s.storeBefore (x 8) 8 = false →
        (nz.length ≤ cap → is (.vstb f) (x 8) image false 8)
        ∧ (cap < nz.length → exec (.vstb f) s = .next
            ((s.enterStore (x 8) (head 1) false none).trap 0x35 (BitVec.ofNat 32 nz.length) (some s.ctx.faddr)))))

/-- R93, R98, R102, R230, R231, R234: FLUSH, INVAL and PREF at a good address, once no earlier store of the context to the
sector is left: the sector's dirty bytes are written back, while a guard keeps some of them FLUSH waits; or dropped; or a
fill is asked for; a scoreboard slot counts one less when FLUSH and INVAL complete, as they commit; TAGQ reads the sector's tag
word (0 on a page that is not lazy, else bit 2 with the tag in bits 1:0, and for a suspension of the own launch its
node's handle above) and LDPEEK the word at its owner. A bad address raises ADDR. -/
def Obligations.CacheInstructions : Prop :=
  (∀ (s : State) (f : LFields),
    let x := fun (u : Nat) => (((s.rdA f.base.toNat).toInt + f.off.toInt * u) % 2 ^ 64).toNat
    let va := x 128
    let good := badAddr s.unit [(va, 1)] = none
    let r := f.reg.toNat
    let p := s.partyOf s.cur
    let n := f.sbs.toNat
    let left := (s.ctx.storeBuf ++ s.ctx.storeQ).any fun e => decide (e.va.toNat / 128 = va / 128)
    let less := if f.sbv = 1 ∧ (s.slot, n) ∈ s.ctx.sbSet then
        { s.ctx with sbSet := s.ctx.sbSet.filter (· != (s.slot, n)), sb := s.ctx.sb.setIfInBounds n (s.ctx.sb.getD n 0 - 1) }
      else s.ctx
    let v := s.drainSectors s.cur (pieces (x 4) 4)
    let tag := (v.tagWord p (x 4)).toNat % 4
    let word := BitVec.ofNat 32 (leNat (v.ownerRead p.unit p.session (BitVec.ofNat 64 (x 4)) 4))
    (good → left = false → s.l1Unit s.unit va = none →
      (gives (.flush f) s fun t => s.acted t less) ∧ (gives (.inval f) s fun t => s.acted t less))
    ∧ (∀ c, good → left = false → s.l1Unit s.unit va = some c →
      let u := s.writeBack c (va / 128)
      (u.dirtyAt c (va / 128) = false → gives (.flush f) s fun t => u.acted t less)
      ∧ (u.dirtyAt c (va / 128) = true → exec (.flush f) s = .next (u.stallFor 4 (.flushed (BitVec.ofNat 64 va))))
      ∧ (gives (.inval f) s fun t => (s.updUnit c fun y => { y with l1 := y.l1.del (va / 128) }).acted t less))
    ∧ (good → s.l1Unit s.unit va = none → gives (.pref f) s fun t => s.acted t less)
    ∧ (∀ c, good → s.l1Unit s.unit va = some c → gives (.pref f) s fun t =>
        (s.updUnit s.unit fun y => { y with fills := y.fills ++ [(BitVec.ofNat 64 va, (slotSb f).map fun n => (s.cur, n))] }).acted t
          { s.ctx.committed s.slot f with accs := s.ctx.accs })
    ∧ (∀ a, badAddr s.unit [(va, 1)] = some a → ∀ i, i ∈ [Instr.flush f, .inval f, .pref f] →
        exec i s = .next (s.trap 0x30 0 (some (BitVec.ofNat 64 a))))
    ∧ (s.admits .tagq va 1 1 → gives (.tagq f) s fun t => s.acquireAfter.hasLoaded t f false [.s r (s.tagWord p va)])
    ∧ (s.admits .peek (x 4) 4 4 → v.atomicBefore (x 4) 4 = false → v.storeBefore (x 4) 4 = false → gives (.ldpeek f) s fun t =>
        v.acquireAfter.hasLoaded t f false (if tag = 0 then [.s r word, .s (r + 1) 0] else [.s r 0, .s (r + 1) (BitVec.ofNat 32 tag)])))
  ∧ (∀ (s : State) (p : Party) (va : Nat),
    let r := s.tagOf p.session (BitVec.ofNat 64 va)
    let page := s.pageOf p.session (BitVec.ofNat 64 va)
    let w := s.tagWord p va
    let high := if (r.tag = .suspended ∨ r.tag = .evaluating) ∧ r.launch = p.launch then r.node.toNat / 1024 else 0
    (paged p.unit va = false → w = 0) ∧ (paged p.unit va = true → (∀ g, page = some g → g.isLazy = false) → w = 0)
    ∧ (∀ g, paged p.unit va = true → page = some g → g.isLazy = true →
        w.toNat = high * 1024 + 4 + (match r.tag with | .value => 0 | .suspended => 1 | .evaluating => 2 | .poison => 3)))

/-! ## The E slot: descriptors, timelines, the tile graph -/

/-- R108 to R111, R272, R321, R322: DSET and DGET; FENCE, WAITTL and TLREAD; SLEEPTO: what each writes, when each goes on
and what it then has done, and what it waits for.
Times that nothing promises come from the tape (log entry 2). When the promises are looked at is log entry 32, what an acquire waits for log entry 53, when TLREAD samples log entry 64. -/
def Obligations.DescriptorsAndTimelines : Prop :=
  ∀ (s : State) (f : DSetS) (g : DSetA) (h : DGetF) (fe : FenceF) (w : WaitTlF) (r : TlReadF) (z : SleepF),
    let half := fun (n hi : Nat) => BitVec.ofNat 32 (n / 2 ^ (32 * hi))
    let issued := fun (c : Nat) => s.ctx.issued.getD c 0
    let completed := fun (c : Nat) => s.ctx.completed.getD c 0
    let goes := fun (i : Instr) (u : State) => gives i s fun t => t = { u with flow := .done }
    let reserved := fun (k : Nat) => [(60, 64), (182, 192), (248, 256), (312, 320), (376, 384)].any fun r => Nat.ble r.1 k && Nat.blt k r.2
    let bound := ∀ p ∈ s.ctx.pend, p.late = none
    (∃ x : BitVec 512, (gives (.dset f) s fun t => s.promises t 1 [.d f.dn.toNat x] none)
      ∧ ∀ k, k < 16 → dWord x k = if k = f.w.toNat then s.spec f.sp 0 else dWord (s.rdD f.dn.toNat) k)
    ∧ (g.w.toNat % 2 = 0 → ∃ x : BitVec 512, (gives (.dsetA g) s fun t => s.promises t 1 [.d g.dn.toNat x] none)
      ∧ ∀ k, k < 16 → dWord x k = if k = g.w.toNat then half (s.rdA g.am.toNat).toNat 0
          else if k = g.w.toNat + 1 then half (s.rdA g.am.toNat).toNat 1 else dWord (s.rdD g.dn.toNat) k)
    ∧ (∃ x : Word, (∀ b, b < 32 → x.getLsbD b = ((s.rdD h.dn.toNat).getLsbD (32 * h.w.toNat + b) && !reserved (32 * h.w.toNat + b)))
      ∧ gives (.dget h) s fun t => s.willLandLater t [.s h.sd.toNat x] none)
    ∧ (gives (.tlread r) s fun t => s.willLandLater t [.s r.dst.toNat (match r.sel.toNat with
        | 0 => half (completed r.cls.toNat) 0 | 1 => half (completed r.cls.toNat) 1
        | 2 => half (issued r.cls.toNat) 0 | _ => half (issued r.cls.toNat) 1)] none)
    ∧ (let done := ∀ c, c < 6 → fe.cls.getLsbD c = true → completed c = issued c
       let why := Why.fence true (fe.kind != 2) (Nat.blt (s.domainScope s.unit) fe.scope.toNat) fe.cls
       (bound → fe.kind = 1 → done → ∀ u, s.release fe.scope.toNat = (u, true) → goes (.fence fe) u)
       ∧ (bound → fe.kind = 2 → ∀ u, s.acquire fe.scope.toNat = (u, true) → goes (.fence fe) u)
       ∧ (bound → fe.kind = 0 → done → ∀ u v, s.release fe.scope.toNat = (u, true) → u.acquire fe.scope.toNat = (v, true) →
           goes (.fence fe) v)
       ∧ (bound → fe.kind = 1 ∨ fe.kind = 0 → done → ∀ u, s.release fe.scope.toNat = (u, false) →
           exec (.fence fe) s = .next (u.blockFor 4 why))
       ∧ (bound → fe.kind = 2 → ∀ u, s.acquire fe.scope.toNat = (u, false) → exec (.fence fe) s = .next (u.blockFor 4 why))
       ∧ (¬ bound ∨ fe.kind ≠ 2 ∧ ¬ done → exec (.fence fe) s = .next ((s.drainStores s.cur 128).blockFor 4 why)))
    ∧ (∀ n u, s.release n = (u, true) → u.ctx.storeBuf = [] ∧ u.ctx.storeQ = [] ∧ u.ctx.atomics = []
        ∧ (s.domainScope s.unit < n → u.allClean (s.domain s.unit) = true))
    ∧ (∀ n u, s.acquire n = (u, true) → s.domainScope s.unit < n → ∀ c ∈ s.domain s.unit, (u.unitAt c).l1 = [])
    ∧ (let c := w.cls.toNat
       let d := (s.spec w.target 0 - BitVec.ofNat 32 (issued c)).toInt
       let goal : Int := if w.all = 1 ∨ 0 < d then issued c else issued c + d
       ((completed c : Int) < goal → exec (.waittl w) s = .next (s.blockFor 2 (.timeline c goal.toNat)))
       ∧ (goal ≤ completed c → ∀ u, s.acquire w.scope.toNat = (u, true) → goes (.waittl w) u))
    ∧ (let now : Int := s.mtc.toNat
       let at' : Int := if s.ctx.sleepValid then s.ctx.deadline.toInt else now + (s.spec z.time 0 - BitVec.ofNat 32 s.mtc.toNat).toInt
       let u := s.upd fun c => { c with sleepValid := true, deadline := BitVec.ofInt 64 at' }
       let late := fun (r : ReqRec) => r.done = false ∧ (z.c = 1 ∧ r.cls = 0 ∨ z.s = 1 ∧ r.cls = 5)
         ∧ ∃ p, r.promise = some p ∧ (p.toNat : Int) ≤ at'
       (now < at' → exec (.sleepto z) s = .next (u.blockFor 2 (.deadline (BitVec.ofInt 64 at'))))
       ∧ (at' ≤ now → (∀ r ∈ s.ctx.reqs, ¬ late r) → ∀ v, u.acquire z.scope.toNat = (v, true) →
           gives (.sleepto z) s fun t => v.acted t { v.ctx with sleepValid := false })
       ∧ (at' ≤ now → u.someHalted = false → ∀ r, s.ctx.reqs = [r] → late r → exec (.sleepto z) s
           = .next ((u.upd fun c => { c with sleepValid := false }).trap 0x60 (BitVec.ofNat 32 (r.cls + r.num % 2 ^ 24 * 256)))))

/-- R268, R269, R273 to R275, R278 to R280, R282: an append: DESCBAD, TSHAPE and SELFDEP in that order; admitted, its node enters
the lowest free slot with the slot's next generation, its destination's sectors are SUSPENDED under it, its request is
counted, and its handle lands later; no memory is written.

R273, R275, R287 to R291, R303: FORCE demands every SUSPENDED tile it names and enters its request; TSTORE enters its
request on the copy engine; TDROP poisons the SUSPENDED and LINKED tiles of a node; TSTAT's words; and what a demand
does: the tile and its sectors become EVALUATING under one new evaluation.
Times that nothing promises come from the tape (log entry 2). The order of descriptor checks and what a shared sector means are log entry 28, the scale bytes of an MX destination log entry 57. -/
def Obligations.TileGraphResults : Prop :=
  (∀ (s : State) (f : TileF) (i : Instr) (op : TileOp),
    (i, op) ∈ [(Instr.tmul f, TileOp.tmul), (Instr.tmac f, .tmac), (Instr.tmap f, .tmap), (Instr.tzip f, .tzip),
      (Instr.tred f, .tred), (Instr.txpose f, .txpose), (Instr.tcvt f, .tcvt), (Instr.tcopy f, .tcopy)] →
    let ds := [f.dD, f.dA] ++ if op = .tmul ∨ op = .tmac ∨ op = .tzip then [f.dB] else []
    let n := s.nodeFor op f
    let meets := anyMeet (n.sources.flatMap fun r => r.allData ++ r.allTrailers) n.d.allData
    let secs := sectorsOf (n.d.allData ++ n.d.allTrailers)
    (∀ c, s.descsBad {} ds = some c → exec i s = .next (s.trap 0x54 c))
    ∧ (∀ c, s.descsBad {} ds = none → shapeFault op f.ctl n.d n.a n.b = some c → exec i s = .next (s.trap 0x55 c))
    ∧ (s.descsBad {} ds = none → shapeFault op f.ctl n.d n.a n.b = none → meets = true → exec i s = .next (s.trap 0x51 1))
    ∧ (s.descsBad {} ds = none → shapeFault op f.ctl n.d n.a n.b = none → meets = false → s.acc = none →
      ∀ u k, s.releaseAtIssue = (u, true) → u.freeSlot n.cluster = some k →
        u.placeNode (u.partyOf u.cur) ((u.hdrOf u.cur).flags.getLsbD 3) n = .ok → u.noRoom n = none →
        u.tilesUnder n.session n.launch secs = [] →
      gives i s fun t =>
        let g := u.gens.get 0 (1024 * n.cluster + k)
        let m := { n with index := k, gen := if g = 255 then 1 else g + 1 }
        let v := RegVal.s f.hd.toNat m.handle
        t = { u with ctxs := t.ctxs, units := t.units, gens := t.gens, nodes := u.nodes ++ [m], tags := t.tags
                     choices := u.choices.tail, flow := .done }
        ∧ t.gens.get 0 (1024 * n.cluster + k) = m.gen ∧ m.tiles = List.replicate (n.d.gr * n.d.gc) .suspended
        ∧ (∀ sec ∈ secs, t.tagNo n.session sec = { tag := .suspended, node := m.handle, launch := n.launch })
        ∧ (∀ x, (∀ sec ∈ secs, sectorKey n.session (BitVec.ofNat 64 (sec * 128)) ≠ x) → t.tags.get {} x = u.tags.get {} x)
        ∧ t.ctx.issued.getD 1 0 = u.ctx.issued.getD 1 0 + 1 ∧ t.ctx.bank = u.ctx.emptied' u.cycle [v]
        ∧ t.ctx.pend = u.ctx.pend ++ [u.laterPend [v]] ∧ ∀ key, key ≠ s.cur → t.ctxAt key = u.ctxAt key))
  ∧ (∀ (s u : State) (f : SpecF) (g : DescF) (st : TStoreF) (x : DstSpec) (y : DstOnly) (z : DstWord),
    let p := s.partyOf s.cur
    let named := s.spec f.h 0
    let own := fun (h : Word) => s.launch.mask.getLsbD (h.toNat / 2 ^ 28) = true
      ∧ ∀ n, s.nodeOf h = some n → n.launch = s.launch.uid
    let demand := fun (ts : List (Word × Nat)) => ts.foldl (fun v k => v.demandTile k.1 none none (some u.forceSite) k.2) u
    let r := regionOf (s.rdD g.dn.toNat) 0
    let spans := r.allData ++ r.allTrailers
    let bytes := piecesOfSpans spans
    let dst := regionOf (s.rdD st.dD.toNat) 0
    let src := regionOf (s.rdD st.dA.toNat) (mapU (s.rdD st.dA.toNat))
    let lands := fun (i : Instr) (d : BitVec 5) (w : Word) => gives i s fun t => s.willLandLater t [.s d.toNat w] none
    (own named → s.releaseAtIssue = (u, true) →
      (u.nodeOf named = none → gives (.forceHandle f) s fun t => u.enters t 1 0 false (.force []) none none [])
      ∧ (∀ n, u.nodeOf named = some n → gives (.forceHandle f) s fun t =>
          (demand (n.suspended.map fun k => (named, k))).enters t 1 0 false
            (.force ((n.tilesIn TileState.unforced).map fun k => (named, k))) none none []))
    ∧ (¬ own named → exec (.forceHandle f) s = .next (s.trap 0x57 0) ∧ exec (.tdrop f) s = .next (s.trap 0x57 0))
    ∧ (s.descsBad { types := false } [g.dn] = none → badAddr (s.partyOf s.cur).unit bytes = none →
        s.acc = none → s.releaseAtIssue = (u, true) →
        (∀ a, firstAt bytes (u.pageMissing p) = some a → exec (.forceRegion g) s = .next (u.pageHold a))
        ∧ (firstAt bytes (u.pageMissing p) = none → firstAt bytes (u.worldBad p) = none →
        (let ts := u.tilesOfSectors p (sectorsOf spans)
         firstAt bytes (fun a => (u.tagAt p a).tag.unready && (u.tagAt p a).launch != p.launch) = none →
          gives (.forceRegion g) s fun t => (demand ts).enters t 1 0 false (.force ts) none none [])
        ∧ (∀ a, firstAt bytes (fun a => (u.tagAt p a).tag.unready && (u.tagAt p a).launch != p.launch) = some a →
            exec (.forceRegion g) s = .next (u.memFault 0x36 0 a))))
    ∧ (s.descsBad {} [st.dD, st.dA] = none → shapeFault .tcopy 0 dst src {} = none →
        badAddr s.unit (piecesOfSpans (dst.allSpans ++ src.allSpans)) = none → s.releaseAtIssue = (u, true) →
        gives (.tstore st) s fun t => u.enters t 1 1 false (.tiles dst src true) none none [])
    ∧ (own named → s.nodeOf named = none → gives (.tdrop f) s fun t => t = { s with flow := .done })
    ∧ (∀ n, own named → s.nodeOf named = some n → (∀ sec, (s.tagNo n.session sec).waiters = []) → n.preds.all List.isEmpty = true →
        (∃ k, n.tile k = .suspended ∨ n.tile k = .linked) → gives (.tdrop f) s fun t =>
          t = { s with nodes := t.nodes, tags := t.tags, flow := .done }
          ∧ (if n.tiles.contains .evaluating then ∃ m, t.nodeOf named = some m
              ∧ m.tiles = n.tiles.map fun k => if k = .suspended ∨ k = .linked then .poison else k
            else t.nodeOf named = none))
    ∧ (let h := s.spec x.h 0
       (¬ own h ∨ s.nodeOf h = none → lands (.tstatNode x) x.sd 0)
       ∧ ∀ n, own h → s.nodeOf h = some n → lands (.tstatNode x) x.sd (BitVec.ofNat 32
          ((match n.st with | .pending => 1 | .active => 2 | .spilled => 3) * 2 ^ 30
            + min 1023 (n.tiles.filter fun k => k == .suspended || k == .linked).length * 2 ^ 20
            + min 1023 (n.tiles.filter (· == .evaluating)).length * 2 ^ 10 + min 1023 (n.tiles.filter (· == .value)).length)))
    ∧ lands (.tstatTable y) y.sd (BitVec.ofNat 32 (1024 - (s.nodes.filter fun n => n.cluster == s.cluster && n.mark == 0).length
        + 2048 * (s.nodes.filter fun n => n.cluster == s.cluster && n.launch == s.launch.uid).length))
    ∧ lands (.tstatDefer z) z.sd (s.ctx.deferRec.getD z.w.toNat 0)
    ∧ (∀ h n k site, s.nodeOf h = some n → n.tile k = .suspended →
        let t := s.demandTile h none none site k
        t = { s with nextUid := s.nextUid + 1, nodes := t.nodes, tags := t.tags
                     evals := s.evals ++ [{ id := s.nextUid, node := h, tile := k, chain := s.nextUid, site }] }
        ∧ t.nodeOf h = some { n with tiles := n.tiles.set k .evaluating, st := .active }
        ∧ (∀ h', h' ≠ h → t.nodeOf h' = s.nodeOf h') ∧ ∀ sec ∈ n.tileSectors k, (t.tagNo n.session sec).tag = .evaluating)
    ∧ (∀ h n k site, s.nodeOf h = some n → n.tile k ≠ .suspended → s.demandTile h none none site k = s))

/-! ## Copies, queues, events, hurdles and service calls -/

/-- R307, R309, R312 to R318, R323, R324, R326: the copy instructions: what they check, in order; once the engine has room
and the issue's release is done, the request with its promise, whose low word lands 3 cycles later in s[ps]; and how the
Pacer makes a promise.
Times that nothing promises come from the tape (log entry 2). The order of reasons is log entry 30, when a copy starts log entry 9, and the destination range of a codec log entry 59. -/
def Obligations.CopyInstructions : Prop :=
  ∀ (s : State) (f : CpyByteF) (g : CpyTileF) (h : CpyIdxF) (k : CpStorF),
    let room := (s.copyQueue s.cluster).length < 64
    let starts := fun (i : Instr) (cls unit : Nat) (ps : BitVec 5) (ev : BitVec 1) (work : EngWork) (prom : State → Nat × State) =>
      (room → ∀ u, s.releaseAtIssue = (u, true) → gives i s fun t =>
        let v := (prom u).2
        let p := (prom u).1
        v.enters t cls unit (ev == 1) work (some (BitVec.ofNat 64 p)) none
          [v.result (v.cycle + 3) true [.s ps.toNat (BitVec.ofNat 32 p)] none])
      ∧ (¬ room → exec i s = .next (s.stallFor 4 (.engine 0 s.cluster)))
    let cpybad := fun (i : Instr) (c : Nat) => exec i s = .next (s.trap 0x61 (BitVec.ofNat 32 c))
    let bad := fun (a : Nat) => placeOf (isCcc s.unit) (BitVec.ofNat 64 a) = .bad
    let meet := fun (a m b n : Nat) => a < b + n ∧ b < a + m
    (let dst := (s.rdA f.x.toNat).toNat
     let src := (s.rdA f.y.toNat).toNat
     let len := (s.spec f.len 0).toNat
     let home := oneHome s.unit src (max len 1) = true ∧ oneHome s.unit dst (max len 1) = true
     (bad dst → exec (.cpyByte f) s = .next (s.memFault 0x30 0 dst))
     ∧ (¬ bad dst → bad src → exec (.cpyByte f) s = .next (s.memFault 0x30 0 src))
     ∧ (¬ bad dst → ¬ bad src → (2 ^ 24 < len → cpybad (.cpyByte f) 2)
       ∧ (len ≤ 2 ^ 24 → ¬ home → cpybad (.cpyByte f) 1)
       ∧ (len ≤ 2 ^ 24 → home → meet src len dst len → cpybad (.cpyByte f) 3)
       ∧ (len ≤ 2 ^ 24 → home → ¬ meet src len dst len ∨ len = 0 → starts (.cpyByte f) 0 1 f.ps f.ev (.bytes dst src len) fun v =>
           v.promise (max (padRange src len) (padRange dst len)) 0 src dst)))
    ∧ (let d := regionOf (s.rdD g.x.toNat) 0
       let a := regionOf (s.rdD g.y.toNat) 0
       let same := d.ty = a.ty ∧ d.rows = a.rows ∧ d.cols = a.cols ∧ d.tr = a.tr ∧ d.tc = a.tc ∧ d.trailer ≠ 0 ∧ a.trailer ≠ 0
       s.descsBad {} [g.x, g.y] = none → badAddr s.unit (piecesOfSpans (d.allSpans ++ a.allSpans)) = none →
       (same → starts (.cpyTile g) 0 1 g.ps g.ev (.tiles d a false) fun v =>
         v.promise (max (padSpans a.allSpans) (padSpans d.allSpans)) 0 a.base d.base)
       ∧ (¬ same → cpybad (.cpyTile g) 4))
    ∧ (∀ scatter, let i := if scatter then Instr.cpys h else .cpyg h
       let d := regionOf (s.rdD h.dD.toNat) 0
       let a := regionOf (s.rdD h.dA.toNat) 0
       let idx := (s.rdA h.ai.toNat).toNat
       let n := (s.spec h.n 0).toNat
       let fits := idx % 4 = 0 ∧ oneHome s.unit idx (max (4 * n) 1) = true
       s.descsBad { optTrailer := true } [h.dD, h.dA] = none →
       badAddr s.unit ((idx, 1) :: piecesOfSpans (d.allSpans ++ a.allSpans)) = none →
       (65535 < n → cpybad i 2) ∧ (n ≤ 65535 → ¬ fits → cpybad i 1)
       ∧ (n ≤ 65535 → fits → (d.ty ≠ a.ty ∨ d.cols ≠ a.cols) → cpybad i 4)
       ∧ (n ≤ 65535 → fits → d.ty = a.ty → d.cols = a.cols → starts i 0 1 h.ps h.ev (.rows d a idx n scatter) fun v =>
           if n = 0 then v.promise 0 0 a.base d.base else v.promise (rowsPad d a idx n) (endpoint v.unit idx).1 a.base d.base))
    ∧ (let dst := (s.rdA k.ad.toNat).toNat
       let count := (s.spec k.count 0).toNat
       let ns := (s.sessions.get {} s.launch.session).nslots.getD k.ns.toNat {}
       let total := count * 2 ^ (9 + ns.lbas)
       let cfg := (s.clusterAt s.cluster).codecs.getD (k.codec.toNat - 1) {}
       let size := if k.codec ≠ 0 ∧ cfg.pb ≠ 0 ∧ total % cfg.pb.toNat = 0 then total / cfg.pb.toNat * cfg.ub.toNat else total
       let routed := cfg.route.getLsbD 0 = true ∧ cfg.pb ≠ 0 ∧ total % cfg.pb.toNat = 0
       let work := EngWork.storage dst (s.rdA k.al.toNat).toNat ns.nsid.toNat count (2 ^ (9 + ns.lbas)) ns.qp ns.tq
         (if k.codec = 0 then none else some (k.codec.toNat - 1)) cfg.ub.toNat cfg.pb.toNat
       ¬ bad dst → (ns.v = false → cpybad (.cpstor k) 5)
       ∧ (ns.v = true → (count = 0 ∨ ns.maxb + 1 < count ∨ 2 ^ 20 < total) → cpybad (.cpstor k) 2)
       ∧ (ns.v = true → 0 < count → count ≤ ns.maxb + 1 → total ≤ 2 ^ 20 →
           (oneHome s.unit dst size = false ∨ homeOf s.unit dst = some 8) → cpybad (.cpstor k) 1)
       ∧ (ns.v = true → 0 < count → count ≤ ns.maxb + 1 → total ≤ 2 ^ 20 → (k.codec = 0 ∨ routed) →
           (oneHome s.unit dst size = true → homeOf s.unit dst ≠ some 8 → starts (.cpstor k) 5 7 k.ps k.ev work fun v =>
             let start := max (v.mtc.toNat + 3) (v.clusterAt v.cluster).stoBusy
             let busy := start + v.ticks ((total + 63) / 64)
             let coded := if k.codec = 0 then 0 else total / cfg.pb.toNat * ((cfg.ub.toNat + 31) / 32) + 64
             (busy + ns.tq + v.ticks (40 + (endpoint v.unit dst).1 + coded),
               v.updCluster v.cluster fun c => { c with stoBusy := busy })))
       ∧ (ns.v = true → 0 < count → count ≤ ns.maxb + 1 → total ≤ 2 ^ 20 → k.codec ≠ 0 → ¬ routed →
           oneHome s.unit dst size = true → homeOf s.unit dst ≠ some 8 → cpybad (.cpstor k) 6))
    ∧ (∀ p lx src dst, let start := max (s.mtc.toNat + 3) (s.clusterAt s.cluster).busy
       let rate := min (endpoint s.unit src).2 (endpoint s.unit dst).2
       let busy := start + s.ticks ((p + rate - 1) / rate)
       s.promise 0 lx src dst = (start, s.updCluster s.cluster fun c => { c with busy := start })
       ∧ (0 < p → s.promise p lx src dst = (busy + s.ticks (lx + (endpoint s.unit src).1 + (endpoint s.unit dst).1),
           s.updCluster s.cluster fun c => { c with busy })))

/-- R405, R406, R409 to R412: TQPUSH adds to its job counter, then enters its task in its queue, for which it waits
while that is full; TQCANCEL takes a task out; with their tickets and results; JOBWAIT waits until a counter of its cluster
has been zero, acquires, or reads a counter.
Times that nothing promises come from the tape (log entry 2). What a push that waits for room shows of its slot is log entry 11. -/
def Obligations.QueuesAndJobs : Prop :=
  ∀ (s u v : State) (f : TqPushF) (g h : DstSpec) (j : JobWaitF),
    let va := (((s.rdA f.at'.toNat).toInt + f.off.toInt * 32) % 2 ^ 64).toNat
    let qv := (s.spec f.q 0).toNat
    let c := qv / 32
    let q := qv % 32
    let tqbad := fun (i : Instr) (w : State) (n : Nat) => exec i s = .next (w.trap 0x80 (BitVec.ofNat 32 n))
    let enters := fun (v t : State) (c q r : Nat) =>
      let old := v.queueAt c q
      let ticket := BitVec.ofNat 32 (c * 2 ^ 28 + q * 2 ^ 23 + old.next)
      t.queueAt c q = { entries := old.entries ++ [{ task := { taskOf r v.nextUid with ticket }, seq := old.next, launch := v.launch.uid }]
                        next := if old.next = 2 ^ 23 - 1 then 1 else old.next + 1 }
      ∧ (∀ c' q', (c', q') ≠ (c, q) → t.queueAt c' q' = v.queueAt c' q') ∧ (∀ c' n, t.jobCount c' n = v.jobCount c' n)
      ∧ t = { v with ctxs := t.ctxs, clusters := t.clusters, nextUid := v.nextUid + 1, choices := v.choices.tail, flow := .done }
      ∧ t.ctx.push = none ∧ t.ctx.pend = v.ctx.pend ++ [v.laterPend [.s f.sd.toNat ticket]]
    (s.ctx.push = none → recordHome s va = false → tqbad (.tqpush f) s 5)
    ∧ (∀ bs n, s.ctx.push = none → recordHome s va = true → s.readRecord va 32 32 = (u, some bs) →
        u.taskBad (leNat bs) qv 1 false = some (n + 1) → tqbad (.tqpush f) u (n + 1))
    ∧ (∀ bs, s.ctx.push = none → recordHome s va = true → s.readRecord va 32 32 = (u, some bs) →
        u.taskBad (leNat bs) qv 1 false = none → ∃ w : State,
        let x := taskOf (leNat bs) 0
        (∀ c' n, w.jobCount c' n = u.jobCount c' n + if x.jv = true ∧ c' = x.jcl ∧ n = x.job then 1 else 0)
        ∧ w = { u with ctxs := w.ctxs, clusters := w.clusters } ∧ w.ctx.bank = u.ctx.bank
        ∧ w.ctx.push = some { record := leNat bs, arg := u.spec f.q 0 }
        ∧ (w.release 4 = (v, true) → (v.queueAt c q).entries.length < 4160 → u.spec f.q 0 = s.spec f.q 0 →
            gives (.tqpush f) s fun t => enters v t c q (leNat bs))
        ∧ (w.release 4 = (v, true) → 4160 ≤ (v.queueAt c q).entries.length → u.spec f.q 0 = s.spec f.q 0 →
            exec (.tqpush f) s = .next (v.stallFor 4 (.queueRoom c q))))
    ∧ (∀ p, s.ctx.push = some p → s.release 4 = (v, true) → let c := p.arg.toNat / 32; let q := p.arg.toNat % 32
        ((v.queueAt c q).entries.length < 4160 → gives (.tqpush f) s fun t => enters v t c q p.record)
        ∧ (4160 ≤ (v.queueAt c q).entries.length → exec (.tqpush f) s = .next (v.stallFor 4 (.queueRoom c q))))
    ∧ (let w := s.spec g.h 0
       let c := w.toNat / 2 ^ 28
       let q := w.toNat / 2 ^ 23 % 32
       let seq := w.toNat % 2 ^ 23
       let x := s.queueAt c q
       let ended := 2 ^ 22 ≤ (seq + 2 ^ 23 - x.next % 2 ^ 23) % 2 ^ 23
       let lands := fun (n : Nat) => gives (.tqcancel g) s fun t => s.willLandLater t [.s g.sd.toNat (BitVec.ofNat 32 n)] none
       (s.launch.mask.getLsbD c = false → lands 2)
       ∧ (s.launch.mask.getLsbD c = true → (∀ e ∈ x.entries, e.seq ≠ seq) → x.next ≤ 2 ^ 23 → lands (if ended then 1 else 2))
       ∧ (∀ e, s.launch.mask.getLsbD c = true → x.entries.find? (·.seq == seq) = some e → gives (.tqcancel g) s fun t =>
          (t.queueAt c q).entries = x.entries.filter (·.seq != seq) ∧ (t.queueAt c q).next = x.next
          ∧ (∀ c' n, t.jobCount c' n = s.jobCount c' n - if e.task.jv = true ∧ c' = e.task.jcl ∧ n = e.task.job then 1 else 0)
          ∧ (∀ c', (t.clusterAt c').events = (s.clusterAt c').events
              ++ if e.task.jv = true ∧ c' = e.task.jcl ∧ s.jobCount c' e.task.job ≤ 1 then
                  [(BitVec.ofNat 32 (6 * 2 ^ 28 + (e.task.job + e.task.jcl * 64) % 2 ^ 28), BitVec.ofNat 32 (6 * 2 ^ 11))] else [])
          ∧ t = { s with ctxs := t.ctxs, clusters := t.clusters, choices := s.choices.tail, flow := .done }
          ∧ t.ctx.pend = s.ctx.pend ++ [s.laterPend [.s g.sd.toNat 0]]))
    ∧ (let n := (s.spec j.j 0).toNat
       (2 ^ 10 ≤ n → tqbad (.jobwaitWait j) s 2) ∧ (n < 2 ^ 10 → n / 64 ≠ s.cluster → tqbad (.jobwaitWait j) s 3)
       ∧ (n < 2 ^ 10 → n / 64 = s.cluster → s.jobCount s.cluster (n % 64) ≠ 0 → s.ctx.passed = none →
           exec (.jobwaitWait j) s = .next (s.blockFor 3 (.job (n % 64))))
       ∧ (n < 2 ^ 10 → n / 64 = s.cluster → s.jobCount s.cluster (n % 64) = 0 ∨ s.ctx.passed.isSome = true → s.acquire j.scope.toNat = (u, true) →
           gives (.jobwaitWait j) s fun t => t = { u with flow := .done }))
    ∧ (let n := (s.spec h.h 0).toNat
       (2 ^ 10 ≤ n → tqbad (.jobwaitRd h) s 2) ∧ (n < 2 ^ 10 → s.launch.mask.getLsbD (n / 64) = false → tqbad (.jobwaitRd h) s 3)
       ∧ (n < 2 ^ 10 → s.launch.mask.getLsbD (n / 64) = true → gives (.jobwaitRd h) s fun t =>
           s.willLandLater t [.s h.sd.toNat (BitVec.ofNat 32 (s.jobCount (n / 64) (n % 64)))] none))

/-- R413 to R418: EVPOST puts an event at the end of a cluster's queue, EVWAIT takes the one that its context is owed, and
the three forms of KLAUNCH take, start and free entries of the stream controller; a kernel adds its tasks to its job
counter before it waits for an entry.
Times that nothing promises come from the tape (log entry 2). What a push that waits for room shows of its slot is log entry 11. -/
def Obligations.EventsAndStreams : Prop :=
  ∀ (s u v : State) (f : EvPostF) (g : EvWaitF) (k : KLaunchF),
    let post := (s.spec f.c 0).toNat
    let here := s.clusterAt s.cluster
    let both := fun (a b : Word) => [RegVal.s g.sd.toNat a, .s (g.sd.toNat + 1) b]
    let kbad := fun (i : Instr) (w : State) (c : Word) => exec i s = .next (w.trap 0x83 c)
    (¬ (post < 16 ∧ s.launch.mask.getLsbD post = true) → exec (.evpost f) s = .next (s.trap 0x80 3))
    ∧ (post < 16 → s.launch.mask.getLsbD post = true → (s.clusterAt post).events.length < 256 → s.release 4 = (u, true) →
        gives (.evpost f) s fun t => t = { u with clusters := t.clusters, flow := .done }
          ∧ t.clusterAt post = { u.clusterAt post with events := (u.clusterAt post).events
              ++ [(BitVec.ofNat 32 (7 * 2 ^ 28 + (u.spec f.v 0).toNat % 2 ^ 28),
                   BitVec.ofNat 32 (u.cluster + coreOf u.unit * 16 + ctxOf u.cur * 256))] }
          ∧ ∀ c, c ≠ post → t.clusterAt c = u.clusterAt c)
    ∧ (∀ a b rest, here.evWaiters = [] ∨ here.evWaiters.head? = some s.cur → here.events = (a, b) :: rest →
        gives (.evwait g) s fun t => (t.clusterAt s.cluster).events = rest ∧ t.ctx.pend = s.ctx.pend ++ [s.laterPend (both a b)]
          ∧ t.ctx.bank = s.ctx.emptied' s.cycle (both a b) ∧ s.cur ∉ (t.clusterAt s.cluster).evWaiters)
    ∧ (here.events = [] → g.nb = 1 → gives (.evwait g) s fun t => s.willLandLater t (both 0xF0000000 0) none)
    ∧ (here.events = [] → g.nb = 0 → gives (.evwait g) s fun t =>
        t.flow = .wait ∧ (t.clusterAt s.cluster).events = [] ∧ s.cur ∈ (t.clusterAt s.cluster).evWaiters ∧ t.mem = s.mem)
    ∧ (let va := (s.rdA k.ar.toNat).toNat
       (transferHome s.unit va = false → kbad (.klaunchX k) s 1)
       ∧ ∀ bs, transferHome s.unit va = true → s.readRecord va 32 32 = (u, some bs) →
         let x := leNat bs
         let dst := x % 2 ^ 64
         let src := x / 2 ^ 64 % 2 ^ 64
         let len := x / 2 ^ 128 % 2 ^ 32
         (x / 2 ^ 160 % 2 ^ 96 ≠ 0 → kbad (.klaunchX k) u 1)
         ∧ (∀ i, x / 2 ^ 160 % 2 ^ 96 = 0 → bytesFault u.unit dst src len = none → u.streamFree u.cluster = some i →
            (u.copyQueue u.cluster).length < 64 → u.releaseAtIssue = (v, true) → gives (.klaunchX k) s fun t =>
            let gen := ((v.clusterAt v.cluster).streamCtl.getD i {}).gen
            let gen' := if gen = 255 then 1 else gen + 1
            (t.clusterAt v.cluster).streamCtl.getD i {} = { gen := gen', st := .pending v.nextUid }
            ∧ (∃ r, t.engs = v.engs ++ [r] ∧ r.id = v.nextUid ∧ r.key = v.cur ∧ r.cls = 0 ∧ r.unit = 1 ∧ r.ev = false
                ∧ r.work = .bytes dst src len ∧ r.num = v.ctx.issued.getD 0 0 + 1)
            ∧ t.ctx.issued.getD 0 0 = v.ctx.issued.getD 0 0 + 1 ∧ t.mem = v.mem
            ∧ ∃ p, t.ctx.pend = v.ctx.pend ++ [p] ∧ p.vals = [.s k.sd.toNat (BitVec.ofNat 32 (gen' * 256 + i))]))
    ∧ (let va := (s.rdA k.ar.toNat).toNat
       let kernel := fun (v t : State) (mask : Word) (r i : Nat) =>
         let w := taskOf r 0
         let qw := r / 2 ^ 192 % 2 ^ 32
         let count := r / 2 ^ 224 % 2 ^ 32
         let old := (v.clusterAt v.cluster).streamCtl
         let gen' := if (old.getD i {}).gen = 255 then 1 else (old.getD i {}).gen + 1
         let gone := (List.range 32).any fun j => mask.getLsbD j && (old.getD j {}).st == .failed
         let st : StreamState := if gone then .free else if maskResident old mask then .pushing w qw count 0 else .waiting mask w qw count
         (t.clusterAt v.cluster).streamCtl = old.setIfInBounds i { gen := gen', st }
         ∧ (∀ c n, t.jobCount c n = v.jobCount c n - if gone = true ∧ w.jv = true ∧ c = w.jcl ∧ n = w.job then count else 0)
         ∧ t = { v with ctxs := t.ctxs, clusters := t.clusters, choices := v.choices.tail, flow := .done }
         ∧ t.ctx.push = none ∧ t.ctx.pend = v.ctx.pend ++ [v.laterPend [.s k.sd.toNat (BitVec.ofNat 32 (gen' * 256 + i))]]
       (∀ p, s.ctx.push = some p →
         (s.streamFree s.cluster = none → exec (.klaunchK k) s = .next (s.stallFor 4 .streamEntry))
         ∧ (∀ i, s.streamFree s.cluster = some i → s.release 4 = (v, true) → gives (.klaunchK k) s fun t => kernel v t p.arg p.record i))
       ∧ ∀ bs, s.ctx.push = none → recordHome s va = true → s.readRecord va 32 32 = (u, some bs) →
         let x := leNat bs
         let qw := x / 2 ^ 192 % 2 ^ 32
         let count := x / 2 ^ 224 % 2 ^ 32
         let mask := u.spec k.sp 0
         let ctl := (u.clusterAt u.cluster).streamCtl
         u.taskBad x (32 * u.cluster) count true = none →
         ((count = 0 ∨ 65535 < count ∨ 31 < qw) → kbad (.klaunchK k) u 1)
         ∧ (0 < count → count ≤ 65535 → qw ≤ 31 → maskNames ctl mask = false → kbad (.klaunchK k) u 2)
         ∧ (0 < count → count ≤ 65535 → qw ≤ 31 → maskNames ctl mask = true → ∃ w : State,
            let y := taskOf x 0
            (∀ c n, w.jobCount c n = u.jobCount c n + if y.jv = true ∧ c = y.jcl ∧ n = y.job then count else 0)
            ∧ w = { u with ctxs := w.ctxs, clusters := w.clusters } ∧ (w.clusterAt u.cluster).streamCtl = ctl
            ∧ w.ctx.push = some { record := x, arg := mask }
            ∧ (u.streamFree u.cluster = none → exec (.klaunchK k) s = .next (w.stallFor 4 .streamEntry))
            ∧ (∀ i, u.streamFree u.cluster = some i → w.release 4 = (v, true) → gives (.klaunchK k) s fun t => kernel v t mask x i)))
    ∧ (let h := s.spec k.sp 0
       let i := h.toNat % 32
       let e := here.streamCtl.getD i {}
       let names := e.st ≠ .free ∧ h = BitVec.ofNat 32 (e.gen * 256 + i)
       (¬ names → kbad (.klaunchR k) s 4)
       ∧ (names → (e.st = .resident ∨ e.st = .failed) → namedByWaiting here.streamCtl i = false → gives (.klaunchR k) s fun t =>
           t = { s with clusters := t.clusters, flow := .done }
           ∧ t.clusterAt s.cluster = { here with streamCtl := here.streamCtl.setIfInBounds i { e with st := .free } })
       ∧ (names → ¬ ((e.st = .resident ∨ e.st = .failed) ∧ namedByWaiting here.streamCtl i = false) → kbad (.klaunchR k) s 3))

/-- R212, R419 to R424, R447 to R451: what an arrival does to a hurdle; HARRIVE, HWAIT and HARW on an object that they may
access; SYSCALL's emit, flush and free on the rings of the session; and SRGEN.
Times that nothing promises come from the tape (log entry 2). -/
def Obligations.HurdlesAndServiceCalls : Prop :=
  ∀ (s u v : State) (f : HurdleF) (e : EmitF) (l : FlushF) (r : FreeF) (g : SrGenF),
    let va := (((s.rdA f.ah.toNat).toInt + f.off.toInt * 16) % 2 ^ 64).toNat
    let q := u.spec f.q 0
    let n := f.scope.toNat
    let trap := fun (i : Instr) (w : State) (h : Hurdle) (c : Nat) =>
      exec i s = .next (w.trap 0x81 (BitVec.ofNat 32 (c + h.phase.toNat % 2 ^ 24 * 256)))
    (∀ (h : Hurdle), h.arrived < h.expect → h.early < h.expect →
      let d := (h.phase - q).toInt
      (d = 0 → h.arrived + 1 < h.expect → h.arrive q = .inr ({ h with arrived := h.arrived + 1 }, 0))
      ∧ (d = 0 → h.arrived + 1 = h.expect → h.arrive q = .inr ({ h with phase := h.phase + 1, arrived := h.early, early := 0 }, 1))
      ∧ (d = -1 → h.early + 1 < h.expect → h.arrive q = .inr ({ h with early := h.early + 1 }, 2))
      ∧ (d = -1 → h.early + 1 = h.expect → h.arrive q = .inl 3)
      ∧ (1 ≤ d → h.arrive q = .inl 1) ∧ (d ≤ -2 → h.arrive q = .inl 2))
    ∧ (∀ h, s.hurdleAccess va = (u, some h) →
        let d := (h.phase - q).toInt
        (∀ c, h.arrive q = .inl c → trap (.harrive f) u h c)
        ∧ (∀ h' w, h.arrive q = .inr (h', w) → u.release n = (v, true) → gives (.harrive f) s fun t =>
            (v.hurdleWrite va h').dropAcc.willLandLater t [.s f.sd.toNat w] none)
        ∧ (∀ h' w, h.arrive q = .inr (h', w) → u.release n = (v, false) →
            exec (.harrive f) s = .next (v.stallFor 4 (.released (Nat.blt (s.domainScope s.unit) n))))
        ∧ (s.ctx.passed = none → 1 ≤ d → u.acquire n = (v, true) → gives (.hwait f) s fun t => t = { v.dropAcc with flow := .done })
        ∧ (s.ctx.passed = none → -2 < d → d < 1 → exec (.hwait f) s = .next (u.blockFor 3 (.hurdle (BitVec.ofNat 64 va) q)))
        ∧ (s.ctx.passed = none → d ≤ -2 → trap (.hwait f) u h 2)
        ∧ (s.ctx.passed = none → u.ctx.harwa = true → 1 ≤ d → u.acquire n = (v, true) → gives (.harw f) s fun t =>
            (v.dropAcc.upd fun c => { c with harwa := false }).willLandLater t [.s f.sd.toNat h.phase] none)
        ∧ (∀ h' w, s.ctx.passed = none → u.ctx.harwa = false → h.arrive q = .inr (h', w) → u.release n = (v, true) →
            let x := (v.hurdleWrite va h').upd fun c => { c with harwa := true }
            let q := x.spec f.q 0
            (1 ≤ (h'.phase - q).toInt → ∀ y, x.acquire n = (y, true) → gives (.harw f) s fun t =>
              (y.dropAcc.upd fun c => { c with harwa := false }).willLandLater t [.s f.sd.toNat h'.phase] none)
            ∧ ((h'.phase - q).toInt < 1 → exec (.harw f) s = .next (x.blockFor 3 (.hurdle (BitVec.ofNat 64 va) q)))))
    ∧ (∀ phase, s.ctx.passed = some phase → s.acquire n = (v, true) →
        (gives (.hwait f) s fun t => t = { v.dropAcc with flow := .done })
        ∧ gives (.harw f) s fun t => (v.dropAcc.upd fun c => { c with harwa := false }).willLandLater t [.s f.sd.toNat phase] none)
    ∧ (s.ctx.passed = none → s.hurdleHome va = false → ∀ i ∈ [Instr.harrive f, .hwait f, .harw f],
        exec i s = .next ((s.upd fun c => { c with harwa := false }).trap 0x82 1))
    ∧ (let ring := fun (w : State) (n : BitVec 4) => (w.sessions.get {} (w.sessionOf w.unit)).rings.getD n.toNat {}
       let off := fun (i : Instr) (n : BitVec 4) => (ring s n).en = false → exec i s = .next (s.trap 0x93 1)
       off (.syscallEmit e) e.ring ∧ off (.syscallFlush l) l.ring ∧ off (.syscallFree r) r.ring
       ∧ ((ring s r.ring).en = true → gives (.syscallFree r) s fun t => s.willLandLater t [.s r.sd.toNat
           (BitVec.ofNat 32 (2 ^ (ring s r.ring).log2 - ((ring s r.ring).producer - (ring s r.ring).tcons)))] none)
       ∧ ((ring s l.ring).en = true → (ring s l.ring).pending = 0 → gives (.syscallFlush l) s fun t => t = { s with flow := .done })
       ∧ ((ring s l.ring).en = true → 0 < (ring s l.ring).pending → gives (.syscallFlush l) s fun t =>
           ring t l.ring = { ring s l.ring with pending := 0 } ∧ t.mem = s.mem ∧ t.ctxs = s.ctxs
           ∧ let m := s.msix.get {} (ring s l.ring).vector
             if m.masked then t.msixPend.getLsbD (ring s l.ring).vector = decide ((ring s l.ring).vector < 64) ∧ t.signals = s.signals
             else t.signals = s.signals ++ [.vector (ring s l.ring).vector m.addr m.data])
       ∧ ((ring s e.ring).en = true → s.release 5 = (u, true) →
           let x := ring u e.ring
           let room := x.producer - x.tcons < 2 ^ x.log2
           let bus := x.bus + 8 * (x.producer % 2 ^ x.log2)
           let top := if x.producer / 2 ^ x.log2 % 2 = 0 then 2 ^ 63 else 0
           (room → hostAllowed u.hostWins bus 8 true = true → gives (.syscallEmit e) s fun t =>
             (∀ k, k < 8 → memGet t.mem (busKey bus + k)
               = BitVec.ofNat 8 (((u.spec e.value 0).toNat + (u.spec e.stream 0).toNat % 2 ^ 16 * 2 ^ 32 + top) / 2 ^ (8 * k)))
             ∧ u.memKept t (busKey bus) 8
             ∧ (ring t e.ring).producer = x.producer + 1
             ∧ (ring t e.ring).pending = (if x.count ≤ x.pending + 1 then 0 else x.pending + 1)
             ∧ t.ctx.pend = u.ctx.pend ++ [u.laterPend [.s e.sd.toNat 0]])
           ∧ (¬ room → e.nb = 1 → gives (.syscallEmit e) s fun t => u.willLandLater t [.s e.sd.toNat 1] none)
           ∧ (¬ room → e.nb = 0 → exec (.syscallEmit e) s = .next (u.stallFor 4 (.token e.ring.toNat)))))
    ∧ (gives (.srgen g) s fun t => t = { s with units := t.units, ctxs := t.ctxs, flow := .done }
        ∧ t.unitAt s.unit = { s.unitAt s.unit with key := s.rdA g.ak.toNat, counter := s.rdA g.ac.toNat }
        ∧ (∀ x, x ≠ s.unit → t.unitAt x = s.unitAt x)
        ∧ ∀ k, t.ctxAt k = if k ∈ keysOf s.unit ∧ (k = s.cur ∨ (s.ctxAt k).st = .free) then { s.ctxAt k with rq := [] } else s.ctxAt k)

/-! ## Transforms, walks and batons -/

/-- R327 to R335, R339 to R341, R343: the PMOV triggers: their checks in order, and the operation that enters its unit's
queue with the registers it took; a config register takes a legal value at the end of the issue cycle; PRD's word. An MX
region that breaks R120 has raised DESCBAD before R335 can name it.
Times that nothing promises come from the tape (log entry 2). The order of reasons is log entry 30. -/
def Obligations.TransformInstructions : Prop :=
  ∀ (s : State) (f : PmovF) (g : PrdF),
    let n := f.port.toNat / 0x200
    let off := f.port.toNat % 0x200
    let d := regionOf (s.rdD f.dD.toNat) 0
    let a := regionOf (s.rdD f.dA.toNat) 0
    let sc := (s.spec f.sc 0).toNat
    let cfg := (s.clusterAt s.cluster).codecs.getD (n - 3) {}
    let mx := fun (r : Region) => r.ty = 14 ∨ r.ty = 15
    let bad := fun (i : Instr) (c : Nat) => exec i s = .next (s.trap 0x65 (BitVec.ofNat 32 c))
    let waiting := ((s.unitOps s.cluster n).filter fun r => !r.started).length
    let starts := fun (i : Instr) (op : XfOp) =>
      (waiting < 16 → ∀ u, s.releaseAtIssue = (u, true) → gives i s fun t => u.enters t 2 2 (f.ev == 1) (.xform n op) none none [])
      ∧ (16 ≤ waiting → exec i s = .next (s.stallFor 4 (.engine (1 + n) s.cluster)))
    let homes := spansHome s.unit d.allData = true ∧ spansHome s.unit a.allData = true
    (s.descsBad { optTrailer := true } [f.dD, f.dA] = none →
      (¬ homes → bad (.pmovTranspose f) 5 ∧ bad (.pmovConvert f) 5)
      ∧ (homes →
        (let fits := d.ty = a.ty ∧ ¬ mx d ∧ d.tr = a.tc ∧ d.tc = a.tr ∧ d.rows = a.cols ∧ d.cols = a.rows ∧ d.trailer ≠ 0 ∧ a.trailer ≠ 0
         (¬ fits → bad (.pmovTranspose f) 2) ∧ (fits → starts (.pmovTranspose f) (.transpose d a)))
        ∧ (let fits := d.rows = a.rows ∧ d.cols = a.cols ∧ d.tr = a.tr ∧ d.tc = a.tc ∧ d.trailer ≠ 0 ∧ a.trailer ≠ 0
           (¬ fits → bad (.pmovConvert f) 2)
           ∧ (fits → starts (.pmovConvert f)
               (.convert d a (BitVec.ofNat 3 (off % 64 / 8)) (decide (64 ≤ off)) s.ctx.srWord)))))
    ∧ (s.descsBad { optTrailer := true } [f.dA] = none →
        let base := (s.rdD f.dD.toNat).toNat % 2 ^ 56
        let kind := if off = 0 then 1 else if off = 8 then 2 else if off = 16 then 3 else 0
        let home := spansHome s.unit a.allData = true ∧ oneHome s.unit base (max sc 1) = true
        let types := ¬ mx a ∧ (kind = 2 → a.ty = 7 ∨ a.ty = 11) ∧ (kind = 3 → cfg.ub.toNat * 8 / tyWidth a.ty ≤ 65535)
        (¬ home → bad (.pmovEncode f) 5) ∧ (home → ¬ types → bad (.pmovEncode f) 3)
        ∧ (home → types → starts (.pmovEncode f) (.encode a base kind sc cfg.ub.toNat cfg.pb.toNat)))
    ∧ (s.descsBad { optTrailer := true } [f.dD] = none →
        let base := (s.rdD f.dA.toNat).toNat % 2 ^ 56
        let home := spansHome s.unit d.allData = true ∧ oneHome s.unit base 1 = true
        (¬ home → bad (.pmovDecode f) 5) ∧ (home → mx d → bad (.pmovDecode f) 3)
        ∧ (home → ¬ mx d → starts (.pmovDecode f) (.decode d base cfg.pb.toNat)))
    ∧ (let legal := if off = 0x100 then sc % 256 = 0 ∧ 256 ≤ sc ∧ sc ≤ 2 ^ 20
         else if off = 0x108 then sc = 0 ∨ sc % 256 = 0 ∧ 512 ≤ sc ∧ sc ≤ 2 ^ 21 else sc ≤ 1
       (¬ legal → bad (.pmovConfig f) 4)
       ∧ (legal → gives (.pmovConfig f) s fun t => s.promises t 1 [.sys (0x1000 + f.port.toNat) (s.spec f.sc 0)] none))
    ∧ (let o := g.port.toNat % 0x200
       let m := g.port.toNat / 0x200
       let c := (s.clusterAt s.cluster).codecs.getD (m - 3) {}
       let ops := s.unitOps s.cluster m
       let lands := fun (w : Word) => gives (.prd g) s fun t => s.willLandLater t [.s g.sd.toNat w] none
       (o = 0x100 → lands c.ub) ∧ (o = 0x108 → lands c.pb) ∧ (o = 0x110 → lands c.route)
       ∧ (o ≠ 0x100 → o ≠ 0x108 → o ≠ 0x110 → m < 3 → lands (BitVec.ofNat 32
           ((ops.filter fun r => !r.started).length + if ops.any (·.started) then 32 else 0))))

/-- R336 to R340, R481: what a codec makes it can undo: the LZ4 block of any bytes decodes to them, the zigzagged deltas
of 16-bit values give them back, the BMV image of content gives it back, and so the payload of every chunk kind; a
chunk is never longer than its header and the content. -/
def Obligations.ChunksRoundTrip : Prop :=
  (∀ bs : List Nat, lzDecode bs.length ((lzEncode bs).length + 1) (lzEncode bs) [] = some bs)
  ∧ (∀ xs : List Nat, (∀ x ∈ xs, x < 2 ^ 16) → unzigzag 0 (zigzag 0 xs) = xs)
  ∧ (∀ (t : BitVec 4) (kind : Nat) (bs : List Nat), (∀ b ∈ bs, b < 256) → bs ≠ [] → bs.length ≤ 2 ^ 20 → kind < 4 →
      (kind = 2 → bs.length % 2 = 0) →
      (kind = 3 → t.toNat < 14 ∧ t ≠ 5 ∧ bs.length * 8 % tyWidth t = 0 ∧ bs.length * 8 / tyWidth t ≤ 65535) →
        chunkContent t kind bs.length (payload t kind bs) = some bs
        ∧ (makeChunk t kind bs).length ≤ 16 + bs.length
        ∧ let h := chunkHeadOf ((makeChunk t kind bs).take 16)
          h.bad = false ∧ h.ulen = bs.length ∧ h.clen + 16 = (makeChunk t kind bs).length ∧ h.crc = crc64 bs
          ∧ (h.kind = 0 ∨ h.kind = kind))

/-- R344, R346, R349 to R351, R354 to R359, R371: WALK checks its record and its ring and takes a slot of its engine, with its
batons as a loader's or a storer's begin, its request done at once and its handle landing; BATON waits for a slot's
baton, gives it back, and reads a walk's status; a wait acquires, for its tile or for the end of a storer.
Times that nothing promises come from the tape (log entry 2). The handle of a storer that has ended is log entry 66. -/
def Obligations.WalksAndBatons : Prop :=
  ∀ (s u v : State) (f : WalkF) (b : BatonF),
    let dd := s.rdD f.dn.toNat
    let addr := (s.rdA f.aw.toNat).toNat
    let home := homeOf s.unit addr
    let placed := addr % 32 = 0 ∧ (home = some 16 ∨ home = some 17) ∧ homeOf s.unit (addr + 31) = home
    let bad := fun (w : State) (c : Nat) => exec (.walk f) s = .next (w.trap 0x70 (BitVec.ofNat 32 c))
    (∀ c, s.descsBad {} [f.dn] = some c → exec (.walk f) s = .next (s.trap 0x54 c))
    ∧ (s.descsBad {} [f.dn] = none → ¬ placed → bad s 1)
    ∧ (s.descsBad {} [f.dn] = none → placed → s.operandsReady [(addr, 32)] = (u, true) →
        let x := leNat (u.engineBytes (u.partyOf u.cur) addr 32)
        let check := walkBad u.unit (regionOf dd 0) ((dd.toNat / 2 ^ 174) % 2 ^ 8) addr x (f.st == 1)
        (∀ c, check = some c → bad u c)
        ∧ (∀ k, check = none → (List.range 8).find? (fun k => !((u.walks.filter fun w => w.cluster == u.cluster
              && w.engine == f.engine.toNat && u.walkHere w).map (·.slot)).contains k) = some k →
            u.releaseAtIssue = (v, true) → gives (.walk f) s fun t =>
            let g := v.walkGens.get 0 (v.cluster * 32 + f.engine.toNat * 8 + k)
            ∃ w : Walk, t.walks = v.walks ++ [w]
              ∧ w.cluster = v.cluster ∧ w.engine = f.engine.toNat ∧ w.slot = k ∧ w.gen = (if g = 255 then 1 else g + 1)
              ∧ w.key = v.cur ∧ w.launch = v.launch.uid ∧ w.st = .active ∧ w.moved = 0 ∧ w.storer = (f.st == 1) ∧ w.ev = (f.ev == 1)
              ∧ w.d = regionOf dd 0 ∧ w.record = walkRecOf x ∧ w.j0 = dd.toNat / 2 ^ 496 % 2 ^ 16 ∧ w.mcast = dd.toNat / 2 ^ 174 % 2 ^ 8
              ∧ w.batons = List.replicate (walkRecOf x).n (if f.st = 1 then .compute else .engine)
              ∧ t = { v with ctxs := t.ctxs, walks := t.walks, walkGens := t.walkGens, nextUid := v.nextUid + 1
                             choices := v.choices.tail, flow := .done }
              ∧ t.ctx.issued.getD 3 0 = v.ctx.issued.getD 3 0 + 1
              ∧ t.ctx.pend = v.ctx.pend ++ [v.laterPend [.s f.hd.toNat (BitVec.ofNat 32
                  (w.cluster * 2 ^ 24 + w.engine * 2 ^ 22 + k * 2 ^ 19 + w.gen * 2 ^ 11))]]))
    ∧ (let h := s.spec b.h 0
       let k := (s.spec b.k 0).toNat
       let core := coreOf s.unit
       let trap := fun (i : Instr) (c : Nat) => exec i s = .next (s.trap 0x72 (BitVec.ofNat 32 c))
       let lands := fun (i : Instr) (u : State) (n : Nat) => gives i s fun t => u.willLandLater t [.s b.sd.toNat (BitVec.ofNat 32 n)] none
       (s.walkOf h = none → lands (.batonStat b) s 0 ∧ (gives (.batonGive b) s fun t => t = { s with flow := .done })
         ∧ (s.storerEnded h = false → lands (.batonWait b) s 0)
         ∧ (s.storerEnded h = true → s.acquire 4 = (u, true) → lands (.batonWait b) u 0))
       ∧ ∀ w, s.walkOf h = some w →
         let mine := s.cluster = w.cluster ∧ core < 8 ∧ w.mcast / 2 ^ core % 2 = 1
         let next := w.first k + w.record.n * w.given.get 0 ((if w.storer then 0 else 16 * core) + k)
         let past := w.record.count ≤ next ∨ w.st = .stopped
         lands (.batonStat b) s ((match w.st with | .active => 1 | .ended => 2 | .stopped => 3) * 2 ^ 30 + w.moved)
         ∧ (¬ mine → trap (.batonWait b) 1 ∧ trap (.batonGive b) 1)
         ∧ (mine → w.record.n ≤ k → trap (.batonWait b) 3 ∧ trap (.batonGive b) 3)
         ∧ (mine → k < w.record.n → past → lands (.batonWait b) s 0)
         ∧ (mine → k < w.record.n → ¬ past → w.holds core k = true → s.acquire 2 = (u, true) → lands (.batonWait b) u (2 ^ 31 + next))
         ∧ (mine → k < w.record.n → ¬ past → w.holds core k = false → exec (.batonWait b) s = .next (s.blockFor 4 (.baton h k)))
         ∧ (mine → k < w.record.n → w.holds core k = false → trap (.batonGive b) 2)
         ∧ (mine → k < w.record.n → w.holds core k = true → s.release 2 = (u, true) → w.st = .active →
             u.walks.find? (·.id == w.id) = some w → gives (.batonGive b) s fun t =>
             t = { u with walks := t.walks, flow := .done } ∧ ∃ w', t.walks.find? (·.id == w.id) = some w'
               ∧ w'.given.get 0 ((if w.storer then 0 else 16 * core) + k) = w.given.get 0 ((if w.storer then 0 else 16 * core) + k) + 1
               ∧ (w.storer = true → w'.batons = w.batons.set k .engine ∧ w'.arrivals = w.arrivals ++ [k])
               ∧ ∀ p, w.storer = false → w.batons.getD k .done = .full p →
                   (p ≠ 2 ^ core → w'.batons.getD k .done = .full (p - 2 ^ core))
                   ∧ (p = 2 ^ core → w'.batons.getD k .done = .engine ∨ w'.batons.getD k .done = .done)))

/-! ## Nakan sends and relays -/

/-- R361 to R370: NSEND and NMCAST: their checks, and the request with one part for each port; what a port sends, what an
acknowledgement, a NAK, a refusal, a silence and a failed flit do; and what becomes of a tile that arrives.
Times that nothing promises come from the tape (log entry 2). The room of a port and the id reported are log entry 33, a tile over several windows log entry 61. -/
def Obligations.NakanSends : Prop :=
  ∀ (s u v : State) (f : NSendF) (g : NMcastF),
    let shape := fun (dD dA : BitVec 4) => sendShape s.unit (regionOf (s.rdD dD.toNat) 0) (regionOf (s.rdD dA.toNat) 0)
    let fits := fun (dD dA : BitVec 4) => s.descsBad { optTrailer := true } [dD, dA] = none ∧ shape dD dA = none
    let work := fun (dD dA : BitVec 4) (n : Nat) =>
      EngWork.send (s.rdD dD.toNat) (regionOf (s.rdD dD.toNat) 0) (regionOf (s.rdD dA.toNat) 0) n
    let mine := s.sessions.get {} s.launch.session
    let session := u.sessions.get {} u.launch.session
    let fail := fun (port : Nat) (s : State) =>
      let ids := (s.parts.filter (·.port == port)).map SendPart.req ++ (s.sent.filter (·.port == port)).map SentTile.req
      (ids.eraseDups.filterMap s.engBy).foldl (fun s r => s.failSend r 0x76 1 0) s
    (∀ c, s.descsBad { optTrailer := true } [f.dD, f.dA] = none → shape f.dD f.dA = some c →
      exec (.nsend f) s = .next (s.trap 0x74 c))
    ∧ (let id := (s.spec f.peer 0).toNat
       fits f.dD f.dA → ((1024 ≤ id ∨ mine.portOf id = none) → exec (.nsend f) s = .next (s.trap 0x73 (BitVec.ofNat 32 (id % 1024))))
       ∧ ∀ port, id < 1024 → mine.portOf id = some port → (s.parts.filter (·.port == port)).length < 64 → s.releaseAtIssue = (v, true) →
         gives (.nsend f) s fun t => v.enters { t with parts := v.parts } 3 4 (f.ev == 1) (work f.dD f.dA 1) none none []
           ∧ t.parts = v.parts ++ [{ req := v.nextUid, port, peers := [id] }])
    ∧ (let n := (s.spec g.count 0).toNat
       let at' := (s.rdA g.al.toNat).toNat
       let placed := at' % 2 = 0 ∧ oneHome s.unit at' (max 1 (2 * n)) = true ∧ (homeOf s.unit at' = some 16 ∨ homeOf s.unit at' = some 17)
       fits g.dD g.dA → (¬ placed → exec (.nmcast g) s = .next (s.trap 0x74 3))
       ∧ (placed → (n = 0 ∨ 64 < n) → exec (.nmcast g) s = .next (s.trap 0x74 4))
       ∧ (placed → 0 < n → n ≤ 64 → s.operandsReady [(at', 2 * n)] = (u, true) →
         let bs := u.engineBytes (u.partyOf u.cur) at' (2 * n)
         let ids := (List.range n).map fun i => leNat ((bs.drop (2 * i)).take 2)
         (∀ c, peerBad session [] ids = some c → exec (.nmcast g) s = .next (u.trap 0x73 c))
         ∧ (peerBad session [] ids = none → u.portFull session ids = none → u.releaseAtIssue = (v, true) → gives (.nmcast g) s fun t =>
             v.enters { t with parts := v.parts } 3 4 (g.ev == 1) (work g.dD g.dA n) none none []
             ∧ t.parts = v.parts ++ partsOf session v.nextUid ids)))
    ∧ (∀ port x r dd d a n, (∀ y ∈ s.sent, y.port = port → y.resend = false) → s.parts.find? (·.port == port) = some x →
        s.engBy x.req = some r → s.deferredReq r = false → r.work = .send dd d a n →
        let p := s.partyReq r
        let node := match x.node with
          | some n => some n
          | none => s.sendNode p a (x.pos / a.gc) (x.pos % a.gc)
        let w := { s with parts := modifyFirst (fun y => y.req == x.req && y.port == x.port) (fun y => { y with node }) s.parts }
        (s.portFailed.getLsbD port = false → s.cycle < r.ready → exec (.nakanSendTile port) s = .next s)
        ∧ (s.portFailed.getLsbD port = false → r.ready ≤ s.cycle →
            w.engineTry p {} r.demander (a.tileSpans (x.pos / a.gc) (x.pos % a.gc)) = (v, .ready) →
            let rd := fun b n => v.engineBytes p b n
            let pkt := packTile x.port (v.sessions.get {} (v.partyReq r).session).ownId (v.partyReq r).session (v.partyReq r).secure dd
              (x.pos / a.gc) (x.pos % a.gc) (a.readTile rd (x.pos / a.gc) (x.pos % a.gc))
              (rd (a.trailerAt (x.pos / a.gc) (x.pos % a.gc)) a.trailerSize)
            gives (.nakanSendTile port) s fun t =>
              t = { v with signals := v.signals ++ x.peers.map fun peer => .tile peer pkt
                           sent := v.sent ++ x.peers.map fun peer => { req := x.req, port := x.port, peer, tile := x.pos, attempt := 1, sent := v.mtc.toNat, node, addend := x.addend }
                           parts := t.parts }
              ∧ t.parts = if x.pos + 1 = a.gr * a.gc then v.parts.filter fun y => !(y.req == x.req && y.port == x.port)
                  else modifyFirst (fun y => y.req == x.req && y.port == x.port) (fun y => { y with pos := x.pos + 1, node := none, addend := [] }) v.parts))
    ∧ (∀ port, s.portFailed.getLsbD port = true → exec (.nakanSendTile port) s = .next (fail port s))
    ∧ (∀ i x, s.sent[i]? = some x → x.resend = false →
        (gives (.nakanAck i) s fun t => t = { s with sent := s.sent.eraseIdx i, portFlits := s.portFlits.del x.port, engs := t.engs }
          ∧ ((∃ y ∈ s.parts, y.req = x.req) ∨ (∃ y ∈ s.sent.eraseIdx i, y.req = x.req) → t.engs = s.engs)
          ∧ ((∀ y ∈ s.parts, y.req ≠ x.req) → (∀ y ∈ s.sent.eraseIdx i, y.req ≠ x.req) →
              t.engs = modifyFirst (fun r => r.id == x.req) (fun r => { r with finished := true }) s.engs))
        ∧ ∀ r dd d a n, s.engBy x.req = some r → r.work = .send dd d a n →
          (x.attempt < 3 → gives (.nakanNak i 0) s fun t => t.sent = modifyNth (fun y => { y with resend := true }) s.sent i ∧ t.mem = s.mem)
          ∧ (∀ c, c ≠ 0 → exec (.nakanNak i c) s
              = .next ((s.flitPassed x.port).failSend r 0x75 (BitVec.ofNat 32 (c.toNat + x.peer % 1024 * 2 ^ 16)) 0))
          ∧ (x.sent + 2 ^ 20 ≤ s.mtc.toNat → exec (.nakanNoAnswer i) s = .next (s.failSend r 0x76 2 0))
          ∧ (s.mtc.toNat < x.sent + 2 ^ 20 → exec (.nakanNoAnswer i) s = .next s))
    ∧ (∀ port, let n := s.portFlits.get 0 port
        (n < 8 → gives (.nakanFlitCrcFail port) s fun t => t = { s with portFlits := t.portFlits } ∧ t.portFlits.get 0 port = n + 1)
        ∧ (8 ≤ n → exec (.nakanFlitCrcFail port) s
            = .next (fail port { s with portFlits := s.portFlits.del port, portFailed := setBit s.portFailed port true })))
    ∧ (∀ pk : TilePacket, let w := { s with inbox := s.inbox.erase pk, portFlits := s.portFlits.del pk.port }
        let x := s.sessions.get {} pk.session
        let d := regionOf pk.desc 0
        let p : Party := { unit := 0, session := pk.session, launch := 0, secure := x.secure }
        let spans := d.tileSpans pk.p pk.q
        let ps := piecesOfSpans (spans ++ d.codeSpans)
        let answers := fun (w : State) (c : Nat) => exec (.nakanTileReceive pk) s
          = .next { w with signals := w.signals ++ [.answer pk.port pk.peer.toNat pk.p pk.q c] }
        (x.opened = false → answers w 1)
        ∧ (∀ die e, x.opened = true → w.tlbMiss p ps = some (die, e) → let y := w.walkPage die e
            exec (.nakanTileReceive pk) s = .next { y with inbox := y.inbox ++ [pk] })
        ∧ (∀ c, x.opened = true → w.tlbMiss p ps = none → w.refusal x p d spans pk.secure = some c → answers w c)
        ∧ (x.opened = true → w.tlbMiss p ps = none → w.refusal x p d spans pk.secure = none → firstAt ps (w.pageMissing p) = none →
            w.guardOf (w.flatSpans p.unit p.session (piecesOfSpans spans)) none = none →
            let rd := fun a n => w.engineBytes p a n
            let tile := verifyRaw (packetTile pk d (if d.ty = 5 then codebookOf (rd d.codebook 32) else [])) pk.trailer
            (tile = none → answers w 7)
            ∧ ∀ y, tile = some y → answers (w.engineWrite p (d.tileWrites rd pk.p pk.q y.1 y.2)) 0))

/-- R373, R375, R377 to R384, R393, R396, R399: RELAY checks its record, its channel and its group, and takes the lowest free
slot of its unit; RLSTAT's words; how a step starts and what sequence it takes, when a relay ends, what a packet, a
busy answer, a silence, an old packet and a stop notice do, and what a stop leaves.
Times that nothing promises come from the tape (log entry 2). What a held packet means to its sender is log entries 22 and 34, a full command queue log entry 62. -/
def Obligations.Relays : Prop :=
  ∀ (s u v w : State) (f : RelayF) (g : DstSpec),
    let va := (s.rdA f.ar.toNat).toNat
    let stack := 4 * dieOf s.cluster + f.u.toNat
    let bad := fun (y : State) (c : Nat) => exec (.relay f) s = .next (y.trap 0x77 (BitVec.ofNat 32 c))
    let placed := va % 64 = 0 ∧ relayHome s.unit va 192 = true
    (¬ placed → bad s 1)
    ∧ (∀ bs, placed → s.readFirst va 192 64 = (u, some bs) →
      let x := leNat bs
      let r := relayRecOf x
      let table := r.gtab % 2 = 0 ∧ relayHome u.unit r.gtab (max 1 (2 * r.g)) = true
      (¬ table → bad u 1)
      ∧ (∀ ids, table → u.readGroup r = (v, some ids) →
        let free := relayBad x = none ∧ v.relayOn stack r.chan r.epoch = none
        let check := groupBad (v.sessions.get {} v.launch.session) ids
        (∀ c, relayBad x = some c → bad v c)
        ∧ (relayBad x = none → (v.relayOn stack r.chan r.epoch).isSome = true → bad v 7)
        ∧ (∀ c, free → check = some c → exec (.relay f) s = .next (v.trap 0x73 c))
        ∧ (∀ slot, free → check = none → (v.relayCmds stack).length < 64 → v.relaySlot stack = some slot → v.releaseAtIssue = (w, true) →
          gives (.relay f) s fun t =>
            let old := w.relayGens.get 0 (16 * stack + slot)
            let gen := if old = 255 then 1 else old + 1
            let y : Relay := { id := w.nextUid, stack, slot, gen, launch := w.launch.uid, r, ids }
            let h := BitVec.ofNat 32 (stack * 2 ^ 24 + slot * 2 ^ 20 + gen * 2 ^ 12)
            t.relays = w.relays.filter (fun z => z.stack != stack || z.slot != slot || z.st == .active) ++ [y]
            ∧ t.relayQ = w.relayQ.put stack (w.relayCmds stack ++ [.start y.id])
            ∧ (∃ e, t.engs = w.engs ++ [e] ∧ e.id = y.id ∧ e.work = .relay ∧ e.cls = 4 ∧ e.unit = 5 ∧ e.ev = (f.ev == 1)
                ∧ e.handle = some h ∧ e.num = w.ctx.issued.getD 4 0 + 1)
            ∧ t.ctx.issued.getD 4 0 = w.ctx.issued.getD 4 0 + 1 ∧ t.mem = w.mem
            ∧ ∃ p, t.ctx.pend = w.ctx.pend ++ [p] ∧ p.vals = [.s f.hd.toNat h])))
    ∧ (let named := s.relays.find? fun x => x.handle == s.spec g.h 0 && x.launch == s.launch.uid
       let lands := fun (i : Instr) (n : Nat) => gives i s fun t => s.willLandLater t [.s g.sd.toNat (BitVec.ofNat 32 n)] none
       (named = none → lands (.rlstat g) 0 ∧ lands (.rlstatWhy g) 0)
       ∧ ∀ x, named = some x → lands (.rlstatWhy g) (x.why % 256 + x.whyStep % 2 ^ 24 * 256)
         ∧ lands (.rlstat g) ((match x.st with | .active => 1 | .ended => 2 | .stopped => 3) * 2 ^ 30 + min x.doneSteps (2 ^ 24 - 1)))
    ∧ (∀ x e, s.relays.find? (fun y => y.stack == x.stack && y.slot == x.slot && s.relayLives y) = some x → s.engBy x.id = some e →
        let waits := s.cycle < e.ready ∨ (s.relayCmds x.stack).contains (.start x.id) = true
        (waits → exec (.relayStepStart x.stack x.slot) s = .next s)
        ∧ (¬ waits → exec (.relayStepStart x.stack x.slot) s = .next (s.relayTurn x))
        ∧ (∀ n, ¬ waits → s.noticeFor x = some n → exec (.relayStepStart x.stack x.slot) s
            = .next ({ s with relayNotices := s.relayNotices.erase n }.noticeRelay x n.peer n.cause))
        ∧ (¬ waits → s.relayBy x.id = some x → s.noticeFor x = none → s.deferred.contains x.id = false →
            (∀ y ∈ s.relaySent, y.relay ≠ x.id) → x.flights = [] → x.r.steps ≤ x.next →
            gives (.relayStepStart x.stack x.slot) s fun t => t = { s with relays := t.relays, engs := t.engs }
              ∧ t.relayBy x.id = some { x with st := .ended } ∧ t.engBy x.id = some { e with finished := true }))
    ∧ (∀ x, s.relayBy x.id = some x →
        let st := x.r.step x.next
        let peer := x.ids.getD st.2.2.2 0
        let seq := if st.1 = 0 then x.sentTo.get 0 peer else x.taken.get 0 peer
        let t := s.relayStart x
        t = { s with relays := t.relays } ∧ ∃ y, t.relayBy x.id = some y ∧ y.next = x.next + 1
          ∧ y.flights = x.flights ++ [{ n := x.next, kind := st.1, src := st.2.1, dst := st.2.2.1, peer, seq }]
          ∧ (st.1 = 0 → y.sentTo.get 0 peer = seq + x.r.nt ∧ y.taken = x.taken)
          ∧ (st.1 ≠ 0 → y.taken.get 0 peer = seq + x.r.nt ∧ y.sentTo = x.sentTo))
    ∧ (∀ n pk, let opened := s.sessions.any (fun y => y.2.opened) = true
        let answers := fun (s : State) (c : Nat) =>
          { s with signals := s.signals ++ [.relayAnswer pk.peer.toNat n pk.chan pk.epoch pk.seq c] }
        (¬ opened → exec (.relayPacketReceive n pk) s = .next (answers s 1))
        ∧ (opened → exec (.relayPacketReceive n pk) s
            = .next { s with relayQ := s.relayQ.put n (s.relayCmds n ++ [.tile pk]) })
        ∧ ∀ rest, s.relayCmds n = .tile pk :: rest →
          let s' := { s with relayQ := if rest = [] then s.relayQ.del n else s.relayQ.put n rest }
          let fits := s.bufUse n + pk.data.length + pk.trailer.length ≤ 2 ^ 22
          (fits → s.relayCmd n = { s' with relayBuf := s.relayBuf ++ [{ stack := n, pkt := pk, at' := s.mtc.toNat, own := false }] })
          ∧ (¬ fits → s.relayCmd n = answers s' 8))
    ∧ (∀ i y x, s.relaySent[i]? = some y → s.relayBy y.relay = some x →
        (∀ t, y.st = .busy t → s.mtc.toNat < t + 1024 → exec (.relayBusyRetry i) s = .next s)
        ∧ (∀ t, y.st = .busy t → y.peer ≠ s.ownIdOf x → t + 1024 ≤ s.mtc.toNat → exec (.relayBusyRetry i) s
            = .next { s with
                signals := s.signals ++ [.relayTile y.peer x.stack y.pkt]
                relaySent := modifyNth (fun z => { z with st := .out s.mtc.toNat }) s.relaySent i })
        ∧ (∀ t, y.st = .out t → t + 2 ^ 20 ≤ s.mtc.toNat → x.st = .active → exec (.relayNoAnswer i) s
            = .next ({ s with relaySent := s.relaySent.eraseIdx i }.failRelay x 0x76 2 0 y.step)))
    ∧ (∀ i h, s.relayBuf[i]? = some h → h.own = false → h.acked = false → s.relayOn h.stack h.pkt.chan h.pkt.epoch = none →
        (h.at' + 2 ^ 26 ≤ s.mtc.toNat → exec (.relayPacketExpire h.stack i) s = .next { s with
          relayBuf := s.relayBuf.erase h
          signals := s.signals ++ [.relayAnswer h.pkt.peer.toNat h.stack h.pkt.chan h.pkt.epoch h.pkt.seq 6] })
        ∧ (s.mtc.toNat < h.at' + 2 ^ 26 → exec (.relayPacketExpire h.stack i) s = .next s))
    ∧ (∀ n chan epoch peer cause,
        exec (.stopNotice n chan epoch peer cause) s
          = .next { s with relayQ := s.relayQ.put n (s.relayCmds n ++ [.notice chan epoch peer cause]) }
        ∧ ∀ rest, s.relayCmds n = .notice chan epoch peer cause :: rest →
          let s' := { s with relayQ := if rest = [] then s.relayQ.del n else s.relayQ.put n rest }
          (s.relayOn n chan epoch = none → s.relayCmd n
            = { s' with relayNotices := s.relayNotices ++ [{ stack := n, chan, epoch, peer, cause, at' := s.mtc.toNat }] })
          ∧ (∀ x, s.relayOn n chan epoch = some x → s.relayCmd n
            = s'.failRelay x 0x78 (BitVec.ofNat 32 (peer.toNat + cause.toNat * 2 ^ 16)) 0 ((x.flights.head?.map Flight.n).getD x.next)))
    ∧ (∀ x cause n, s.relayBy x.id = some x →
        let t := s.haltRelay x cause n
        t.relayBy x.id = some { x with st := .stopped, flights := [], why := cause, whyStep := n } ∧ t.mem = s.mem
        ∧ t.signals = s.signals ++ (x.ids.filter (· != s.ownIdOf x)).eraseDups.map fun id =>
            .stopNotice id x.stack x.r.chan x.r.epoch cause)

/-! ## Command rings and commands -/

/-- R434 to R437, R439, R462: when a command acts; what ends it before it acts; what its completion writes, and what
becomes of it when the completion ring is full or the ring is being reset; the doorbell, PHEAD and the reset of a ring.
The order of the refusals and a refused command's RESULT of 0 are the model's choices (log entry 35), as is that the indices count on (log entry 12). -/
def Obligations.CommandRings : Prop :=
  ∀ (s : State) (h : CmdHead) (op : OpenP) (mp : MapP) (up : UnmapP) (hp : HostPageP) (ip : ImageP) (lp : LaunchP) (gp : GraphP)
    (rp : RingP) (qp : QPairP) (np : NSlotP) (ap : AttestP) (yp : QueryP) (pp : PatchP) (id watts v : Word) (port : BitVec 4)
    (n node status : Nat) (tag : BitVec 16) (result : Addr),
    let bound : List Instr := [.closeSession h, .mapPages h mp, .unmapPages h up, .hostpage h hp, .image h ip, .launch h lp,
      .graph h gp, .ringCmd h rp, .qpair h qp, .nslot h np, .preempt h id, .umostythResume h id, .power h watts]
    let secure : List Instr := [.patch h pp, .portreset h port]
    let always : List Instr := [.attest h ap, .query h yp]
    let r := s.ring n
    (s.ringFree h.ring = false → ∀ i ∈ .openSession h op :: bound ++ secure ++ always, exec i s = .next s)
    ∧ (s.ringFree h.ring = true →
        (s.firmware.failed = true → ∀ i ∈ .openSession h op :: bound ++ secure, exec i s = .next (s.reply h 9))
        ∧ (s.firmware.failed = false → h.ring < 28 → ∀ i ∈ secure, exec i s = .next (s.reply h 13))
        ∧ (s.firmware.failed = false → (s.ring h.ring).session = none →
            (∀ i ∈ bound, exec i s = .next (s.reply h 2)) ∧ (28 ≤ h.ring → ∀ i ∈ secure, exec i s = .next (s.reply h 2))))
    ∧ (r.posts = [] →
        let e := leBytes 2 tag.toNat ++ leBytes 2 status ++ leBytes 2 node
          ++ leBytes 2 (if r.ptail.toNat / 2 ^ r.psize.toNat % 2 = 0 then 2 ^ 15 else 0) ++ leBytes 8 result.toNat
        (r.rst = true → s.complete n tag status node result
          = s.setRing n { r with job := .idle, rst := false, chead := 0, ctail := 0 })
        ∧ (r.rst = false → 2 ^ r.psize.toNat ≤ (r.ptail - r.phead).toNat → s.complete n tag status node result
          = s.setRing n { r with job := .idle, posts := [{ tag, status, node, result }] })
        ∧ (r.rst = false → (r.ptail - r.phead).toNat < 2 ^ r.psize.toNat → status < 2 ^ 16 → node < 2 ^ 16 →
            s.complete n tag status node result
              = ((s.hostPut (r.pbase.toNat + 16 * (r.ptail.toNat % 2 ^ r.psize.toNat)) e).setRing n
                  { r with job := .idle, ptail := r.ptail + 1 }).interrupt r.vector.toNat))
    ∧ (r.rst = true → exec (.commandDoorbell n v) s = .next s)
    ∧ (r.rst = false → r.posts = [] → r.job = .idle →
        let at' := r.cbase.toNat + 64 * (r.chead.toNat % 2 ^ r.csize.toNat)
        let t := s.setRing n { r with ctail := v, chead := r.chead + 1 }
        (r.en = false ∨ v = r.chead ∨ s.firmware.ready = false →
          exec (.commandDoorbell n v) s = .next (s.setRing n { r with ctail := v }))
        ∧ ∀ bs, r.en = true → v ≠ r.chead → s.firmware.ready = true → s.hostGet at' 64 = some bs →
            let x := leNat bs
            let c : CmdHead := { ring := n, tag := BitVec.ofNat 16 (x / 2 ^ 16) }
            exec (.commandDoorbell n v) s =
              if s.firmware.failed = true ∧ x % 256 ≠ 0x0E ∧ x % 256 ≠ 0x0F then .next (t.reply c 9)
              else if commandOk x = true then t.runCommand c x
              else .next (t.reply c 1))
    ∧ (let w := { r with phead := v }
       (r.posts = [] → r.rst = false → exec (.pheadWrite n v) s = .next (s.setRing n w))
       ∧ ∀ c, r.posts = [c] → r.rst = false → (r.ptail - v).toNat < 2 ^ r.psize.toNat →
           exec (.pheadWrite n v) s = .next ((s.setRing n { w with posts := [] }).postEntry n c))
    ∧ (r.rst = true → exec (.ringReset n) s = .next s)
    ∧ (r.rst = false → r.posts = [] → s.graphOn n = none →
        (r.chead = r.ctail → r.job = .idle → exec (.ringReset n) s = .next (s.setRing n { r with chead := 0, ctail := 0 }))
        ∧ (r.chead = r.ctail → r.job ≠ .idle → exec (.ringReset n) s = .next (s.setRing n { r with rst := true }))
        ∧ (r.chead ≠ r.ctail → (r.ctail - r.chead).toNat ≤ 2 ^ r.csize.toNat → 2 ^ r.psize.toNat ≤ (r.ptail - r.phead).toNat →
            ∀ f : Nat → List Byte, (∀ i, i < (r.ctail - r.chead).toNat → s.hostGet (r.slotAt (r.chead + BitVec.ofNat 32 i)) 64 = some (f i)) →
            exec (.ringReset n) s = .next (s.setRing n { r with
              rst := true, chead := r.ctail
              posts := (List.range (r.ctail - r.chead).toNat).map fun i =>
                { tag := BitVec.ofNat 16 (leNat (f i) / 2 ^ 16), status := 11 } })))

/-- R238, R434, R442, R452, R453, R458: OPEN, CLOSE, MAP, UNMAP and HOSTPAGE: what each refuses, and what it makes of the session,
its pages, its frames and its faults; and how a die's processor serves a page fault.
The order of the refusals and numbers of page requests are the model's choices (log entry 35); what a TLB entry is is log entry 7, and the places of frames log entry 60. -/
def Obligations.SessionsAndPages : Prop :=
  ∀ (s : State) (h : CmdHead) (x : Nat) (op : OpenP) (mp : MapP) (up : UnmapP) (hp : HostPageP),
    let secure := decide (28 ≤ h.ring)
    let join := s.sessions.get {} op.session.toNat
    let bind := fun (n : Nat) (y : State) => (y.setRing h.ring { s.ring h.ring with session := some n }).reply h 0 (ad n)
    let ps := s.pages.get [] x
    (s.ringFree h.ring = true → s.firmware.failed = false →
      ((s.ring h.ring).session ≠ none → exec (.openSession h op) s = .next (s.reply h 12))
      ∧ ((s.ring h.ring).session = none → op.join = true → exec (.openSession h op) s = .next
          (if join.opened = true ∧ join.secure = secure then bind op.session.toNat s else s.reply h 2))
      ∧ ((s.ring h.ring).session = none → op.join = false → op.psBus ≠ 0 → (op.psLog2.toNat < 4 ∨ 12 < op.psLog2.toNat) →
          exec (.openSession h op) s = .next (s.reply h 1))
      ∧ ((s.ring h.ring).session = none → op.join = false → (op.psBus = 0 ∨ (4 ≤ op.psLog2.toNat ∧ op.psLog2.toNat ≤ 12)) →
          (op.peerTable ≠ 0 → (∃ y ∈ s.sessions, y.2.hasPeers = true) → exec (.openSession h op) s = .next (s.reply h 14))
          ∧ ((op.peerTable = 0 ∨ ∀ y ∈ s.sessions, y.2.hasPeers = false) →
            ((∀ n, n < 8 → (s.sessions.get {} n).opened = true) → exec (.openSession h op) s = .next (s.reply h 3))
            ∧ ∀ n, n < 8 → (s.sessions.get {} n).opened = false → (∀ m, m < n → (s.sessions.get {} m).opened = true) →
              let ring := op.psBus = 0 ∨ s.hostOk op.psBus.toNat (16 * 2 ^ op.psLog2.toNat) true = true
              (¬ ring → exec (.openSession h op) s = .next (s.reply h 6))
              ∧ (ring → (s.readTable op.peerTable 4096 = none ∨ s.readTable op.windows 256 = none) →
                  exec (.openSession h op) s = .next (s.violate.reply h 6))
              ∧ ∀ pb wb, ring → s.readTable op.peerTable 4096 = some pb → s.readTable op.windows 256 = some wb →
                let good := (op.peerTable = 0 ∨ peersBad pb op.ownId.toNat = false) ∧ ∀ w ∈ windowsOf wb, windowBad w = false
                (¬ good → exec (.openSession h op) s = .next (s.reply h 1))
                ∧ (good → gives (.openSession h op) s fun t => ∃ y : Session, t = bind n { s with sessions := s.sessions.put n y }
                  ∧ y.opened = true ∧ y.secure = secure ∧ y.ownId = op.ownId.toNat
                  ∧ (y.psBus, y.psLog2, y.psVector) = (op.psBus.toNat, op.psLog2.toNat, op.psVector.toNat)
                  ∧ (∀ i, i < 1024 → let w := leNat ((pb.drop (4 * i)).take 4)
                      y.portOf i = if 2 ^ 31 ≤ w then some (w % 16) else none)
                  ∧ (∀ w, w ∈ y.windows ↔ w ∈ windowsOf wb ∧ 0 < w.2)
                  ∧ ∀ i, i < 16 → (y.rings.getD i {}).en = false ∧ (y.nslots.getD i {}).v = false))))
    ∧ (s.serves h x →
      (s.sessionBusy x = true → exec (.closeSession h) s = .next (s.reply h 12) ∧ exec (.unmapPages h up) s = .next (s.reply h 12))
      ∧ (s.sessionBusy x = false → ∃ u : State, exec (.closeSession h) s = .next (u.reply h 0)
          ∧ u.sessions = s.sessions.del x ∧ u.pages = s.pages.del x
          ∧ (∀ n, (u.ring n).session = if (s.ring n).session = some x then none else (s.ring n).session)
          ∧ (∀ q ∈ ps, q.host = false → ∀ k, devKey x q.va ≤ k → k < devKey x q.va + q.size → memGet u.mem k = 0)
          ∧ ∀ k, (∀ q ∈ ps, q.host = true ∨ k < devKey x q.va ∨ devKey x q.va + q.size ≤ k) → memGet u.mem k = memGet s.mem k)
      ∧ (let va := mp.va.toNat
         let n := mp.bytes.toNat
         let size := match mp.attr.toNat / 64 % 4 with
           | 0 => 65536
           | 1 => 2097152
           | _ => 1073741824
         let shape := mp.attr.toNat < 256 ∧ mp.attr.toNat / 64 ≠ 3 ∧ mp.attr.toNat % 4 ≠ 3 ∧ n ≠ 0 ∧ va % size = 0 ∧ n % size = 0
         let device := va / 2 ^ 52 ≤ 3 ∧ (va + n - 1) / 2 ^ 52 ≤ 3
         let far := va / 2 ^ 52 = 8 ∧ (va + n - 1) / 2 ^ 52 = 8
         (¬ shape → exec (.mapPages h mp) s = .next (s.reply h 1))
         ∧ (shape → (¬ (device ∨ far) ∨ ∃ q ∈ ps, va < q.va + q.size ∧ q.va < va + n) → exec (.mapPages h mp) s = .next (s.reply h 6))
         ∧ (∀ st, s.mapRefused x mp = some st → exec (.mapPages h mp) s = .next (s.reply h st))
         ∧ ((mp.attr.getLsbD 4 = true ∨ far) → mp.attr.getLsbD 2 = true → s.mapRefused x mp ≠ none)
         ∧ (let fits := mapPages (s.sessions.get {} x).secure mp (n / size) 0 s.hbm
           (s.mapRefused x mp = none → fits = none → exec (.mapPages h mp) s = .next (s.reply h 3))
           ∧ (far → fits ≠ none)
           ∧ ∀ qs hbm, s.mapRefused x mp = none → fits = some (qs, hbm) → ∃ u : State, exec (.mapPages h mp) s = .next (u.reply h 0)
             ∧ u.pages = s.pages.put x (ps ++ qs) ∧ u.hbm = hbm ∧ qs.length = n / size
             ∧ (device → ∀ q ∈ qs, q.range / 192 = q.va / 2 ^ 52 ∧ q.phys % size = 0 ∧ q.phys + size ≤ 192 * 2 ^ 30)
             ∧ (∀ i q, qs[i]? = some q → q.va = va + i * size ∧ q.size = size ∧ q.isLazy = mp.attr.getLsbD 2
                 ∧ q.writable = !mp.attr.getLsbD 3 ∧ (device → q.host = false ∧ q.present = !mp.attr.getLsbD 5)
                 ∧ (far → q.host = true ∧ (q.present = true ↔ mp.backing ≠ 0) ∧ (mp.backing ≠ 0 → q.bus = mp.backing.toNat + i * size))
                 ∧ q.aperture = if mp.attr.getLsbD 4 = true then some (mp.aperture.toNat + i * size) else none)
             ∧ (device → ∀ k, devKey x va ≤ k → k < devKey x va + n → memGet u.mem k = 0)
             ∧ ∀ k, (far ∨ k < devKey x va ∨ devKey x va + n ≤ k) → memGet u.mem k = memGet s.mem k))
      ∧ (s.sessionBusy x = false →
         let va := up.va.toNat
         let n := up.bytes.toNat
         let gone := ps.filter fun q => rangesMeet va n q.va q.size
         (n = 0 → exec (.unmapPages h up) s = .next (s.reply h 1))
         ∧ (n ≠ 0 → ((∃ q ∈ gone, q.va < va ∨ va + n < q.va + q.size) ∨ (gone.map Page.size).sum ≠ n) →
             exec (.unmapPages h up) s = .next (s.reply h 6))
         ∧ (n ≠ 0 → (∀ q ∈ gone, va ≤ q.va ∧ q.va + q.size ≤ va + n) → (gone.map Page.size).sum = n →
             ∃ u : State, exec (.unmapPages h up) s = .next (u.reply h 0)
               ∧ (let left := ps.filter fun q => !gone.contains q
                  u.pages = if left = [] then s.pages.del x else s.pages.put x left)
               ∧ (∀ q ∈ gone, q.host = false → ∀ k, devKey x q.va ≤ k → k < devKey x q.va + q.size → memGet u.mem k = 0)
               ∧ ∀ k, (∀ q ∈ gone, q.host = true ∨ k < devKey x q.va ∨ devKey x q.va + q.size ≤ k) → memGet u.mem k = memGet s.mem k))
      ∧ (let mine := fun (f : PageFault) => f.session == x && f.number.isSome && s.awaits f hp.va
         ((∀ f ∈ s.faults, mine f = false) → exec (.hostpage h hp) s = .next (s.reply h 6))
         ∧ ∀ f q, s.faults.find? mine = some f → s.pageOf x hp.va = some q →
             (hp.bus ≠ 0 → hostAllowed s.hostWins hp.bus.toNat q.size q.writable = false → exec (.hostpage h hp) s = .next (s.reply h 6))
             ∧ (hp.bus = 0 → ∃ u : State, exec (.hostpage h hp) s = .next (u.reply h 0) ∧ f ∉ u.faults ∧ u.pages = s.pages
                 ∧ u.refused = s.refused ++ f.engines)
             ∧ (hp.bus ≠ 0 → hostAllowed s.hostWins hp.bus.toNat q.size q.writable = true →
                 ∃ u : State, exec (.hostpage h hp) s = .next (u.reply h 0) ∧ f ∉ u.faults ∧ u.refused = s.refused
                   ∧ u.pages = (s.updPage x (ad f.va) fun q => { q with present := true, bus := hp.bus.toNat }).pages)))
    ∧ ∀ f va, s.nextFault (ownerDie va) = some f → f.session = x → f.va = va.toNat →
        (s.pageOf x va = none → exec (.pageResolve x va) s = .next (s.nomap f))
        ∧ ∀ q, s.pageOf x va = some q →
          (q.present = false → q.host = false → gives (.pageResolve x va) s fun t => f ∉ t.faults
            ∧ t.pages = (s.updPage x va fun q => { q with present := true }).pages
            ∧ ∀ k, devKey x q.va ≤ k → k < devKey x q.va + q.size → memGet t.mem k = 0)
          ∧ (q.present = true → gives (.pageResolve x va) s fun t => f ∉ t.faults ∧ t.mem = s.mem)
          ∧ (q.present = false → q.host = true →
              let y := s.sessions.get {} x
              (2 ^ y.psLog2 ≤ y.psEntries.length → exec (.pageResolve x va) s = .next s)
              ∧ (y.psEntries.length < 2 ^ y.psLog2 → gives (.pageResolve x va) s fun t =>
                  let e := leBytes 7 f.va ++ [if y.psProducer / 2 ^ y.psLog2 % 2 = 0 then 0x80 else 0] ++ leBytes 8 y.psNumber
                  t.mem = (s.hostPut (y.psBus + 16 * (y.psProducer % 2 ^ y.psLog2)) e).mem
                  ∧ (t.sessions.get {} x).psEntries = y.psEntries ++ [(y.psNumber, false)]
                  ∧ { f with number := some y.psNumber } ∈ t.faults))

/-- R263, R323, R439 to R444, R447, R459, R460, R463: the commands beside those of sessions and pages: the status with which each
ends, what it writes, and what it leaves.
The order of the refusals (log entry 35), the place of a queue pair (15), the header of a patch (23) and the constants for fused data (10) are the model's. -/
def Obligations.ManagementCommands : Prop :=
  ∀ (s : State) (h : CmdHead) (x : Nat) (ip : ImageP) (lp : LaunchP) (gp : GraphP) (rp : RingP) (qp : QPairP) (np : NSlotP)
    (ap : AttestP) (yp : QueryP) (pp : PatchP) (id watts : Word) (port : BitVec 4),
    let r := s.ring h.ring
    let ends := fun (i : Instr) (st : Nat) => exec i s = .next (s.reply h st)
    (s.ringFree h.ring = true →
      let put := fun (bus : Nat) (bs : List Byte) (i : Instr) =>
        (s.hostOk bus bs.length true = false → exec i s = .next (s.violate.reply h 6))
        ∧ (s.hostOk bus bs.length true = true →
            exec i s = .next (({ s with mem := memWrite s.mem (busKey bus) bs } : State).reply h 0 (ad bs.length)))
      let version := match s.firmware.active with
        | some p => p.version.toNat
        | none => 0
      let part := ("IL9-4C16-768".toList.map fun c => BitVec.ofNat 8 c.toNat) ++ List.replicate 4 0
      (3 ≤ yp.item.toNat → ends (.query h yp) 1)
      ∧ (yp.item = 0 → put yp.bus.toNat (part ++ leBytes 8 Config.serial.toNat ++ leBytes 4 Config.romVersion.toNat
          ++ leBytes 4 version ++ leBytes 4 3000 ++ List.replicate 28 0) (.query h yp))
      ∧ (yp.item = 1 → (∀ u, ∀ p ∈ (s.arrAt u).retired, p < 132) → put yp.bus.toNat ((List.range 16).flatMap fun c => (List.range 8).flatMap fun n =>
          let a := s.arrAt (unitNo c n)
          [BitVec.ofNat 8 (a.retired.getD 0 0xFF), BitVec.ofNat 8 (a.retired.getD 1 0xFF), BitVec.ofNat 8 (a.retired.getD 2 0xFF),
            BitVec.ofNat 8 (a.retired.length % 4 + if a.degraded then 0x80 else 0)]) (.query h yp))
      ∧ (yp.item = 2 → Config.certificate ≠ [] → put yp.bus.toNat Config.certificate (.query h yp))
      ∧ (let arrs := (List.range 128).map fun i => s.arrAt (unitNo (i / 8) (i % 8))
         ∃ sig : List Byte, sig.length = 132 ∧ put ap.bus.toNat
           (("IL9ATTST".toList.map fun c => BitVec.ofNat 8 c.toNat) ++ leBytes 4 1 ++ leBytes 4 version ++ part
             ++ leBytes 8 Config.serial.toNat ++ (leBytes 64 Config.romDigest.toNat).reverse
             ++ (leBytes 64 (match s.firmware.active with
                 | some p => p.digest.toNat
                 | none => 0)).reverse
             ++ leBytes 32 ap.nonce.toNat ++ leBytes 4 ((if 28 ≤ h.ring then 1 else 0) + r.session.getD 0 * 256)
             ++ leBytes 4 ((arrs.filter (·.degraded)).length + (arrs.map fun a => a.retired.length).sum * 256)
             ++ leBytes 8 s.mtc.toNat ++ sig) (.attest h ap)))
    ∧ (s.serves h x → 28 ≤ h.ring →
        (2 ^ 20 < pp.bytes.toNat → ends (.patch h pp) 1)
        ∧ (pp.bytes.toNat ≤ 2 ^ 20 → s.hostGet pp.bus.toNat pp.bytes.toNat = none → exec (.patch h pp) s = .next (s.violate.reply h 6))
        ∧ (∀ bs, pp.bytes.toNat ≤ 2 ^ 20 → s.hostGet pp.bus.toNat pp.bytes.toNat = some bs →
            let version := BitVec.ofNat 32 (leNat ((bs.drop 4).take 4))
            (leNat (bs.take 4) ≠ 0x48544150 ∨ version.toNat < Config.patchMinimum.toNat ∨ Config.patchSigned bs = false →
              ends (.patch h pp) 8)
            ∧ (patchOk bs = true → exec (.patch h pp) s = .next (({ s with firmware := { s.firmware with
                staged := some { version, digest := Config.sha512 bs } } } : State).reply h 0 (version.setWidth 64))))
        ∧ exec (.portreset h port) s = .next (({ s with
            portFailed := setBit s.portFailed port.toNat false, portFlits := s.portFlits.del port.toNat } : State).reply h 0))
    ∧ (s.serves h x →
      (let w := if watts.toNat < 1500 then 1500 else if 3000 < watts.toNat then 3000 else watts.toNat
       exec (.power h watts) s = .next (({ s with firmware := { s.firmware with power := w } } : State).reply h 0 (ad w)))
      ∧ (let va := ip.va.toNat
         let n := ip.bytes.toNat
         let q := firmwareParty h.ring x
         (va % 64 ≠ 0 → ends (.image h ip) 1)
         ∧ (∀ u : State, va % 64 = 0 → 0 < n → hostAllowed s.hostWins ip.bus.toNat n false = true → pagedRange va n = true →
             (s.startJob h (.image ip)).engineTry q { write := true } {} [(va, n)] = (u, .ready) →
             let w := u.engineWrite q [(va, memRead s.mem (busKey ip.bus.toNat) n)]
             let head := w.engineBytes q va 64
             let code := leNat ((head.drop 40).take 4)
             let good := leNat (head.take 4) = 0x394B5944 ∧ leNat ((head.drop 4).take 2) = 1 ∧ code % 2 = 0 ∧ 2 ≤ code ∧ code ≤ 262144
             (good → exec (.image h ip) s = .next (w.complete h.ring h.tag 0 0xFFFF (ad (leNat ((head.drop 8).take 8)))))
             ∧ (¬ good → exec (.image h ip) s = .next (w.complete h.ring h.tag 4 0xFFFF 0))))
      ∧ (let device := lp.image.toNat / 2 ^ 52 ≤ 3
         (lp.image.toNat % 64 ≠ 0 ∨ lp.place.toNat / 2 ^ 48 = 0xF2 → ends (.launch h lp) 1)
         ∧ (lp.image.toNat % 64 = 0 → lp.place.toNat / 2 ^ 48 ≠ 0xF2 → ¬ device → ends (.launch h lp) 6)
         ∧ (lp.image.toNat % 64 = 0 → lp.place.toNat / 2 ^ 48 ≠ 0xF2 → device →
             let l : Launch := { uid := s.nextUid, session := x, ring := h.ring, tag := h.tag, id := lp.id, mask := lp.mask,
                                 image := lp.image, place := lp.place, args := #v[lp.arg0, lp.arg1, lp.arg2, lp.arg3],
                                 secure := (s.sessions.get {} x).secure }
             exec (.launch h lp) s = .next (({ s with nextUid := s.nextUid + 1, launches := s.launches ++ [l] } : State).setRing h.ring
               { r with job := .launch s.nextUid, tag := h.tag })))
      ∧ (let va := gp.va.toNat
         (va % 64 ≠ 0 ∨ gp.limit = 0 → ends (.graph h gp) 1)
         ∧ (va % 64 = 0 → gp.limit ≠ 0 → 4 ≤ va / 2 ^ 52 → ends (.graph h gp) 6)
         ∧ (va % 64 = 0 → gp.limit ≠ 0 → va / 2 ^ 52 < 4 → exec (.graph h gp) s = .next (s.setRing h.ring
             { r with job := .graph { va, node := gp.start.toNat, limit := gp.limit.toNat }, tag := h.tag })))
      ∧ (let shape := 4 ≤ rp.log2.toNat ∧ rp.bus.toNat % 4096 = 0 ∧ rp.count ≠ 0 ∧ rp.count.toNat ≤ 65535
         let runs := ∃ l ∈ s.launches, l.session = x ∧ l.live = true
         let ok := rp.en = false ∨ hostAllowed s.hostWins rp.bus.toNat (8 * 2 ^ rp.log2.toNat) true = true
         (¬ shape → ends (.ringCmd h rp) 1)
         ∧ (shape → runs → ends (.ringCmd h rp) 12)
         ∧ (shape → ¬ runs → ¬ ok → ends (.ringCmd h rp) 6)
         ∧ (shape → ¬ runs → ok → ∃ u : State, exec (.ringCmd h rp) s = .next (u.reply h 0)
             ∧ u = { s with sessions := u.sessions } ∧ (∀ y, y ≠ x → u.sessions.get {} y = s.sessions.get {} y)
             ∧ (∀ n, n ≠ rp.n.toNat → u.tokenRing x n = s.tokenRing x n)
             ∧ u.tokenRing x rp.n.toNat = { en := rp.en, log2 := rp.log2.toNat, bus := rp.bus.toNat, count := rp.count.toNat,
                                            time := rp.time.toNat, vector := rp.vector.toNat }))
      ∧ (let bells := hostAllowed s.hostWins qp.sqBell.toNat 4 true = true ∧ hostAllowed s.hostWins qp.cqBell.toNat 4 true = true
         (qp.log2.toNat < 4 ∨ 12 < qp.log2.toNat → ends (.qpair h qp) 1)
         ∧ (4 ≤ qp.log2.toNat → qp.log2.toNat ≤ 12 → ¬ bells → ends (.qpair h qp) 6)
         ∧ (4 ≤ qp.log2.toNat → qp.log2.toNat ≤ 12 → bells → ∃ (u : State) (q : QPair),
             exec (.qpair h qp) s = .next (u.reply h 0 (ad (2 ^ 39 + q.sq)))
             ∧ u = { s with qpairs := s.qpairs.put qp.qp.toNat q, clusters := u.clusters }
             ∧ (∀ c, u.clusterAt c = { s.clusterAt c with halves := (u.clusterAt c).halves }
                 ∧ ∀ n, n < 2 → let y := s.halfAt c n
                   u.halfAt c n = if y.lost = true ∧ y.qp = qp.qp.toNat then {} else y)
             ∧ (q.log2, q.sqBell, q.cqBell, q.tail, q.cqHead) = (qp.log2.toNat, qp.sqBell.toNat, qp.cqBell.toNat, 0, 0)))
      ∧ ((3 < np.lbas.toNat → ends (.nslot h np) 1)
         ∧ (np.lbas.toNat ≤ 3 → ∃ u : State, exec (.nslot h np) s = .next (u.reply h 0) ∧ u = { s with sessions := u.sessions }
             ∧ (∀ n, n ≠ np.slot.toNat → (u.sessions.get {} x).nslots.getD n {} = (s.sessions.get {} x).nslots.getD n {})
             ∧ (u.sessions.get {} x).nslots.getD np.slot.toNat {}
               = { v := true, nsid := np.nsid, lbas := np.lbas.toNat, maxb := np.maxb.toNat, qp := np.qp.toNat, tq := np.tq.toNat }))
      ∧ (let oldest := s.launches.find? fun l => l.session == x && l.id == id
         (oldest = none → ends (.preempt h id) 12 ∧ ends (.umostythResume h id) 12)
         ∧ ∀ l, oldest = some l →
           (l.st ≠ .running → ends (.preempt h id) 12)
           ∧ (l.st = .running → exec (.preempt h id) s = .next (((s.updLaunch l.uid fun l => { l with st := .preempting }).freezeLaunch l).startJob
               h (.preempt l.uid)))
           ∧ (l.st ≠ .preempted → ends (.umostythResume h id) 12)
           ∧ (l.st = .preempted → exec (.umostythResume h id) s = .next (s.setRing h.ring { r with job := .resume l.uid, tag := h.tag }))))

/-- R66 to R68, R70, R72, R77, R85, R88, R89, R402, R440: how a queued launch starts or fails, with the legal values of a kernel
header and what its control contexts hold at the start; how a launch retires; and what a fatal fault leaves of it.
The places of spill regions (log entry 16) and of save areas (60), and what a launch start leaves (40) are the model's. -/
def Obligations.LaunchLife : Prop :=
  ∀ (s : State) (i : Nat) (l : Launch),
    (s.launchBy i = none → exec (.launchStart i) s = .next s ∧ exec (.launchRetire i) s = .next s)
    ∧ (s.launchBy i = some l →
      (l.st ≠ .queued → exec (.launchStart i) s = .next s)
      ∧ (l.st = .queued →
        let party := firmwareParty l.ring l.session
        let va := l.image.toNat
        let finishes := fun (u : State) (st : Nat) => exec (.launchStart i) s = .next (u.launchOver l st 0)
        (s.firmware.failed = true → finishes s 9)
        ∧ (s.firmware.failed = false →
          (∀ u, s.firmwareAccess l (cccNo 0) false va 64 = .wait u → exec (.launchStart i) s = .next u)
          ∧ (∀ u st, s.firmwareAccess l (cccNo 0) false va 64 = .fail u st → finishes u st)
          ∧ ∀ u, s.firmwareAccess l (cccNo 0) false va 64 = .ok u →
            let b := u.engineBytes party va 64
            let f := fun (o n : Nat) => leNat ((b.drop o).take n)
            let code := f 0x28 4
            let legal := f 0 4 = 0x394B5944 ∧ f 4 2 = 1 ∧ f 6 2 < 16 ∧ f 0x10 1 ≤ 32 ∧ f 0x11 1 ≤ 32 ∧ f 0x12 1 ≤ 16 ∧ f 0x13 1 < 4
              ∧ f 0x14 1 < 8 ∧ f 0x15 3 = 0 ∧ f 0x18 4 ≤ 131072 ∧ (f 0x1C 4 = 0 ∨ 16 ≤ f 0x1C 4)
              ∧ (f 0x20 4 = 0xFFFFFFFF ∨ f 0x20 4 < code / 2) ∧ f 0x24 4 < code / 2 ∧ code % 2 = 0 ∧ 2 ≤ code ∧ code ≤ 262144
              ∧ f 0x30 16 = 0 ∧ l.mask ≠ 0
            let cs := (List.range 16).filter l.mask.getLsbD
            (¬ legal → finishes u 4)
            ∧ ∀ v, legal → u.firmwareAccess l (cccNo 0) false va (64 + code) = .ok v →
              ((∃ m ∈ v.launches, m.live = true ∧ m.uid ≠ l.uid ∧ m.mask &&& l.mask ≠ 0) → exec (.launchStart i) s = .next v)
              ∧ ∀ w, v.extentHeld l = false → v.dataReady l (headerOf b) = .ok w →
                (w.reserve l (headerOf b).spillBytes = none → finishes w 3)
                ∧ ∀ m p y, w.reserve l (headerOf b).spillBytes = some (m, p, y) → y.launchBy i = some l → y.extentHeld l = false →
                  gives (.launchStart i) s fun t =>
                    m = { l with slices := m.slices, staging := m.staging, store := m.store, relayStore := m.relayStore }
                    ∧ (∃ h c, t.launchBy i = some { m with st := .running, hdr := h, code := c } ∧ c = y.engineBytes party (va + 64) code
                      ∧ h.scalars = (f 0x10 1 + 7) / 8 * 8 ∧ h.vectors = (f 0x11 1 + 3) / 4 * 4 ∧ h.descs = f 0x12 1
                      ∧ h.vl = 128 * 2 ^ f 0x13 1 ∧ h.stage = f 0x14 1 ∧ h.codeSize = code)
                    ∧ (∀ c ∈ cs, ∃ (bank : Bank) (uid : Nat) (n : Option Nat),
                        t.ctxAt (8 * cccNo c) = { Ctx.reset with
                          bank, rd := bank, pc := BitVec.ofNat 64 (2 * f 0x24 4), spill := n
                          task := some { uid, entry := BitVec.ofNat 32 (f 0x24 4), args := l.args, cc := true, control := true } }
                        ∧ bank = { Bank.init (128 * 2 ^ f 0x13 1) with s := bank.s, a := bank.a }
                        ∧ (∀ r, r < 32 → bank.s.getD r 0 = if 1 ≤ r ∧ r ≤ 4 then l.args.getD (r - 1) 0 else 0)
                        ∧ (∀ r, r < 15 → bank.a.getD r 0 = 0) ∧ (f 0x18 4 = 0 → bank.a.getD 15 0 = 0))
                    ∧ (∀ u ∈ l.units, ∀ k ∈ keysOf u, (∀ c ∈ cs, k ≠ 8 * cccNo c) → t.ctxAt k = Ctx.reset)
                    ∧ ∀ u ∈ l.units, (t.arrAt u).accs = Vector.replicate 8 {}))
      ∧ (let w := s.writeBackAll l.units
         let leaves := fun (st : Nat) (result : Addr) =>
           (w.allClean l.units = false → exec (.launchRetire i) s = .next w)
           ∧ (w.allClean l.units = true → ∃ v : State, exec (.launchRetire i) s = .next (v.launchOver l st result)
               ∧ v = { w with ctxs := v.ctxs, units := v.units, walks := w.walks.filter (·.launch != l.uid), dbg := v.dbg }
               ∧ (∀ k ∈ l.keys, (v.ctxAt k).st = .free) ∧ ∀ k, unitOf k ∉ l.units → v.ctxAt k = w.ctxAt k)
         (∀ e, l.ending = some e → leaves e.status e.result)
         ∧ (l.ending = none → (l.st ≠ .running ∨ s.launchIdle l = false) → exec (.launchRetire i) s = .next s)
         ∧ (l.ending = none → l.st = .running → s.launchIdle l = true → (∀ f ∈ s.fatals, f.launch ≠ i) →
             (∀ n ∈ s.nodes, n.launch ≠ l.uid) → leaves 0 0))
      ∧ (∀ f, s.firstFatal i = some f →
         (l.ending ≠ none ∨ l.st = .queued →
           exec (.fatalFault i) s = .next { s with fatals := s.fatals.filter (·.launch != i) })
         ∧ (l.ending = none → l.st ≠ .queued → l.st ≠ .preempted → gives (.fatalFault i) s fun t =>
             t.launchBy i = some { l with
               st := .retiring
               ending := some { status := 5, result := BitVec.ofNat 64 (f.cause + clusterOf (unitOf f.key) * 256
                 + coreOf (unitOf f.key) * 4096 + ctxOf f.key * 65536 + f.slot * 1048576
                 + (if f.cause = 0x53 then f.inner * 16777216 else 0) + f.addr.toNat * 4294967296) } }
             ∧ t.fatals = s.fatals.filter (·.launch != l.uid) ∧ (∀ n ∈ t.nodes, n.launch ≠ l.uid) ∧ (∀ r ∈ t.engs, r.launch ≠ l.uid)
             ∧ (∀ k ∈ l.keys, (t.ctxAt k).st = .free) ∧ (∀ k, unitOf k ∉ l.units → t.ctxAt k = s.ctxAt k)
             ∧ ∀ c ∈ clustersOf l.mask, (t.clusterAt c).queues = [])))

/-- R437, R440, R444 to R447, R450, R451: the nodes of a launch graph: how the management processor reads one, and what each kind does;
the step limit; and the token rings' TCONS and time threshold.
RESULT of a failed graph is the model's choice (log entry 35). -/
def Obligations.GraphsAndTokenRings : Prop :=
  ∀ (s : State) (n x ring : Nat) (g : GraphRun) (v : Word),
    let r := s.ring n
    let q := firmwareParty n x
    let w := leNat g.bytes
    let f := fun (o b k : Nat) => w / 2 ^ (8 * o + b) % 2 ^ k
    let kind := w % 16
    let next := f 2 0 10
    let steps := [Instr.graphLaunchNode n, .graphCopyNode n, .graphNotifyNode n, .graphConditionalNode n, .graphEndNode n]
    let stands := fun (dest : Nat) => RingJob.graph { g with node := dest, bytes := [], launch := none }
    (s.graphOn n = none → ∀ i ∈ .graphLimit n :: steps, exec i s = .next s)
    ∧ (s.graphOn n = some (g, x) → r.posts = [] → g.launch = none →
      (let a := g.va + 64 * g.node
       let fresh := g.bytes = [] ∧ r.rst = false
       (fresh → g.count = g.limit → exec (.graphLimit n) s = .next (s.complete n r.tag 10 g.node (ad g.count)))
       ∧ (fresh → g.count ≠ g.limit → exec (.graphLimit n) s = .next s)
       ∧ (fresh → g.count ≠ g.limit → (4 ≤ a / 2 ^ 52 ∨ (s.pageOf x (ad a)).any (·.isLazy) = true) →
           exec (.graphEndNode n) s = .next (s.complete n r.tag 6 g.node 0))
       ∧ (∀ u, fresh → g.count ≠ g.limit → a / 2 ^ 52 ≤ 3 → (s.pageOf x (ad a)).any (·.isLazy) = false →
           s.engineTry q {} {} [(a, 64)] = (u, .ready) → (u.ring n).job = r.job →
           let bytes := u.engineBytes q a 64
           s.graphEnter n g x = (u.setRing n { u.ring n with job := .graph { g with bytes, count := g.count + 1 } }, .node (leNat bytes))))
      ∧ (g.bytes ≠ [] →
        (∀ i ∈ steps, cmdRest w (nodeFields kind) ≠ 0 →
          exec i s = .next s ∨ exec i s = .next (s.complete n r.tag 1 g.node 0))
        ∧ (5 ≤ kind → exec (.graphEndNode n) s = .next (s.complete n r.tag 1 g.node 0))
        ∧ (cmdRest w (nodeFields kind) = 0 →
          (kind = 0 → exec (.graphEndNode n) s = .next (s.complete n r.tag 0 g.node (ad g.count)))
          ∧ (kind = 1 →
            let p := launchBlock w
            (∀ st, launchRefused p = some st → exec (.graphLaunchNode n) s = .next (s.complete n r.tag st g.node 0))
            ∧ (launchRefused p = none →
              let l : Launch := { uid := s.nextUid, session := x, ring := n, tag := r.tag, id := p.id, mask := p.mask, image := p.image,
                                  place := p.place, args := #v[p.arg0, p.arg1, p.arg2, p.arg3],
                                  secure := (s.sessions.get {} x).secure, graph := true }
              exec (.graphLaunchNode n) s = .next (({ s with nextUid := s.nextUid + 1, launches := s.launches ++ [l] } : State).setRing n
                { r with job := .graph { g with launch := some s.nextUid } })))
          ∧ (kind = 2 →
            let dst := f 8 0 64
            let src := f 16 0 64
            let len := f 24 0 32
            let ok := 0 < len ∧ len ≤ 2 ^ 30 ∧ (f 28 0 1 = 0 ∨ f 28 1 1 = 0)
            let i := Instr.graphCopyNode n
            (¬ ok → exec i s = .next (s.complete n r.tag 1 g.node 0))
            ∧ (∀ u, ok → f 28 0 1 = 1 → s.hostOk src len false = true → pagedRange dst len = true →
                s.engineTry q { write := true } {} [(dst, len)] = (u, .ready) → u.ring n = r →
                exec i s = .next ((u.engineWrite q [(dst, memRead u.mem (busKey src) len)]).setRing n { r with job := stands next }))
            ∧ (∀ u y, ok → f 28 0 2 = 0 → pagedRange src len = true → pagedRange dst len = true →
                s.engineTry q {} {} [(src, len)] = (u, .ready) → u.engineTry q { write := true } {} [(dst, len)] = (y, .ready) →
                y.ring n = r → exec i s = .next ((y.engineWrite q [(dst, y.engineBytes q src len)]).setRing n { r with job := stands next }))
            ∧ (∀ u, ok → f 28 1 1 = 1 → s.hostOk dst len true = true → pagedRange src len = true →
                s.engineTry q {} {} [(src, len)] = (u, .ready) → u.ring n = r → u.hostWins = s.hostWins →
                exec i s = .next (({ u with mem := memWrite u.mem (busKey dst) (u.engineBytes q src len) } : State).setRing n
                  { r with job := stands next }))
            ∧ (ok → (f 28 0 1 = 1 ∧ s.hostOk src len false = false) ∨ (f 28 1 1 = 1 ∧ s.hostOk dst len true = false) →
                exec i s = .next (s.violate.complete n r.tag 6 g.node 0)))
          ∧ (kind = 3 →
            let u := ((List.range 16).filter fun i => f 16 i 1 == 1).foldl (fun y i => y.tokenFlush x i) s
            let c : Completion := { tag := r.tag, status := 0, node := g.node, result := BitVec.ofNat 64 (f 8 0 64) }
            exec (.graphNotifyNode n) s = .next
              (if r.rst = true then u.setRing n { r with job := stands next }
               else if r.room = true then (u.setRing n { r with job := stands next }).postEntry n c
               else u.setRing n { r with job := stands next, posts := [c] }))
          ∧ (kind = 4 →
            let a := f 8 0 64
            (a % 4 ≠ 0 → exec (.graphConditionalNode n) s = .next (s.complete n r.tag 1 g.node 0))
            ∧ ∀ u, a % 4 = 0 → pagedRange a 4 = true → s.engineTry q {} {} [(a, 4)] = (u, .ready) → u.ring n = r →
                let m := leNat (u.engineBytes q a 4) &&& f 20 0 32
                let cmp := f 16 0 32
                let taken := match f 24 0 2 with
                  | 0 => m = cmp
                  | 1 => m ≠ cmp
                  | 2 => m < cmp
                  | _ => cmp ≤ m
                (taken → exec (.graphConditionalNode n) s = .next (u.setRing n { r with job := stands next }))
                ∧ (¬ taken → exec (.graphConditionalNode n) s = .next (u.setRing n { r with job := stands (f 28 0 10) }))))))
    ∧ (let t := s.tokenRing x ring
       let d := (v - BitVec.ofNat 32 t.tcons).toNat
       (x < 8 → ring < 16 → d ≤ t.producer - t.tcons → exec (.tconsWrite x ring v) s = .next (s.setTokenRing x ring { t with tcons := t.tcons + d }))
       ∧ (t.producer - t.tcons < d → exec (.tconsWrite x ring v) s = .next s)
       ∧ (t.time ≠ 0 → 0 < t.pending → t.first + t.time ≤ s.mtc.toNat →
           exec (.tokenRingTimeout x ring) s = .next ((s.setTokenRing x ring { t with pending := 0 }).interrupt t.vector))
       ∧ ((t.time = 0 ∨ t.pending = 0 ∨ s.mtc.toNat < t.first + t.time) → exec (.tokenRingTimeout x ring) s = .next s))

/-! ## Debug port and host registers -/

/-- R465 to R469, R471, R473, R474: the operations of the debug port on a launch that runs: what refuses one, and what HALT, RESUME, STEP,
RDREG, WRREG, HALTSTAGE, RUNSTAGE, SETBRK, CLRBRK and LAPCLR do, with the DSTAT they leave.
DSTAT while a halt waits is log entry 42, the 1,024 cycles after a wake log entry 50. -/
def Obligations.DebugOperations : Prop :=
  ∀ (s : State) (f : DbgF) (l : Launch),
    let cl := f.cluster.toNat
    let num := f.num.toNat
    let x := s.dbg.ddata
    let w : Word := x.setWidth 32
    let u := unitNo cl f.core.toNat
    let key := 8 * u + f.context.toNat
    let c := s.ctxAt key
    let stat := fun (y : State) (n : BitVec 4) => ({ y with dbg := { y.dbg with dstat := n } } : State)
    let answers := fun (i : Instr) (n : BitVec 4) => exec i s = .next (stat s n)
    let onContext : List Instr := [.halt f, .debugResume f, .stepCtx f, .rdreg f, .wrreg f, .lapclr f]
    let onUnit : List Instr := [.setbrk f, .clrbrk f]
    let onStage : List Instr := [.haltstage f, .runstage f]
    let target0 := s.dbg.dstat ≠ 15 ∧ s.debugLaunch cl = some l ∧ l.saved = none
      ∧ (s.worlds.getLsbD cl = false ∨ (s.sessions.get {} s.dbg.dsess.toNat).secure = true)
    let runs := l.st = .running ∨ l.st = .retiring
    let target := target0 ∧ f.core.toNat ≤ 8 ∧ f.context.toNat < (if f.core.toNat = 8 then 4 else 8)
    (s.dbg.dstat = 15 → ∀ i ∈ onContext ++ onUnit ++ onStage, exec i s = .next s)
    ∧ (s.dbg.dstat ≠ 15 →
        (s.dbg.en = false → s.debugLaunch cl = none)
        ∧ (s.debugLaunch cl = none → ∀ i ∈ onContext ++ onUnit ++ onStage, answers i 5)
        ∧ (s.debugLaunch cl = some l → s.worlds.getLsbD cl = true → (s.sessions.get {} s.dbg.dsess.toNat).secure = false →
            ∀ i ∈ onContext ++ onUnit ++ onStage, answers i 6))
    ∧ (target0 → (8 < f.core.toNat → ∀ i ∈ onContext ++ onUnit, answers i 4)
        ∧ ((if f.core.toNat = 8 then 4 else 8) ≤ f.context.toNat → ∀ i ∈ onContext, answers i 4)
        ∧ (l.hdr.stage < f.context.toNat → ∀ i ∈ onStage, answers i 4))
    ∧ (target →
      (c.st = .free → answers (.halt f) 4)
      ∧ (c.st = .issuing → exec (.halt f) s = .next (stat (s.setCtx key { c with halt := true, stopDue := true }) 15))
      ∧ (c.st = .ready ∨ c.st = .blocked ∨ c.st = .draining → c.vectorsFly = true → exec (.halt f) s = .next (stat (s.setCtx key
          { c with halt := true, stopDue := true, stopAt := some (15, 0x97), stepping := false }) 15))
      ∧ (c.st = .ready ∨ c.st = .blocked ∨ c.st = .draining → c.vectorsFly = false →
          gives (.halt f) s fun t =>
            t.ctxAt key = { c with halt := true, st := .stopped, held := c.st, stopDue := false, stopAt := none, stepping := false }
            ∧ t.dbg.dstat = 0 ∧ ∀ k, k ≠ key → t.ctxAt k = s.ctxAt k)
      ∧ (c.st ≠ .stopped → answers (.stepCtx f) 2)
      ∧ ((c.st ≠ .stopped ∨ c.halt = false) → answers (.debugResume f) 0)
      ∧ (c.st = .stopped → c.halt = true →
          let d := { c with halt := false, ignoreB := x.getLsbD 0, stepping := false }
          let st := if ¬ runs then c.st else if c.held = .issuing then .ready else c.held
          exec (.debugResume f) s = .next (stat (s.setCtx key
            (if c.stageh = true then d else { d with st, trapHeld := false, nextIssue := s.cycle + 1 })) 0)
          ∧ (c.stageh = false → exec (.stepCtx f) s = .next (stat (s.setCtx key
            { d with st, trapHeld := false, nextIssue := s.cycle + 1, stepping := true }) 0)))
      ∧ (let wakes := fun (y : State) => if f.file.toNat ≤ 5 ∧ s.isDrowsy key = true then
             { y.updCtx key (fun c => { c with drowsy := false, lastIssue := s.cycle }) with
               dbg := { y.dbg with dstat := 15, late := some (s.cycle + 2, y.dbg.dstat) } }
           else y
         let reads := fun (v : Addr) => exec (.rdreg f) s = .next (wakes { s with dbg := { s.dbg with ddata := v, dstat := 0 } })
         let running := c.st ≠ .stopped
         let gated := fun (file : RegFile) (n : Nat) => f.core.toNat ≠ 8 ∧ l.hdr.gated file n = true
         let bad := f.file.toNat = 9 ∨ 9 < f.file.toNat ∨ (f.file = 0 ∧ 32 ≤ num) ∨ (f.file = 1 ∧ 16 ≤ num) ∨ (f.file = 2 ∧ 16 ≤ num)
           ∨ (f.file = 4 ∧ 8 ≤ num) ∨ (f.file = 5 ∧ 256 ≤ num) ∨ (f.file = 8 ∧ 32 ≤ num)
           ∨ ((f.file = 3 ∨ f.file = 4) ∧ f.core.toNat = 8)
         (bad → answers (.rdreg f) 4)
         ∧ (running → f.file = 1 → num < 16 → answers (.rdreg f) 2)
         ∧ (running → f.file = 2 → num < 16 → answers (.rdreg f) 2 ∧ answers (.wrreg f) 2)
         ∧ (c.st = .stopped →
           (f.file = 0 → num < 32 → ¬ gated .s num → reads ((c.bank.s.getD num 0).setWidth 64))
           ∧ (f.file = 0 → num < 32 → gated .s num →
               exec (.rdreg f) s = .next (wakes { s with dbg := { s.dbg with ddata := 0, dstat := 3 } })
               ∧ exec (.wrreg f) s = .next (wakes (stat s 3)))
           ∧ (f.file = 1 → num < 16 → reads ((c.bank.t.getD num 0).setWidth 64))
           ∧ (f.file = 2 → num < 16 → reads (c.bank.a.getD num 0))
           ∧ (f.file = 3 → num % 128 < (c.bank.v.getD (num / 128) []).length → f.core.toNat ≠ 8 → ¬ gated .v (num / 128) →
               let e := (c.bank.v.getD (num / 128) []).getD (num % 128) (0, 0)
               reads (BitVec.ofNat 64 (e.1.toNat + e.2 % 2048 * 4294967296)))
           ∧ (f.file = 5 → num < 256 → ¬ gated .d (num / 16) →
               reads (((dSeen (c.bank.d.getD (num / 16) 0)).extractLsb' (32 * (num % 16)) 32).setWidth 64))
           ∧ (f.file = 8 → num = 0 → reads ((unitsAddr c.pc).setWidth 64))
           ∧ (f.file = 1 ∨ f.file = 3 ∨ f.file = 7 ∨ (f.file = 8 ∧ num ≠ 0) ∨ (f.file = 4 ∧ num = 0) → answers (.wrreg f) 4)
           ∧ (c.pend = [] → c.latches = [] → c.atomics = [] →
             (f.file = 0 → 0 < num → num < 32 → ¬ gated .s num → exec (.wrreg f) s = .next (wakes (stat (s.setCtx key { c with bank := { c.bank with
                 s := c.bank.s.setIfInBounds num w, sFull := setBit c.bank.sFull num true } }) 0)))
             ∧ (f.file = 2 → num < 16 → exec (.wrreg f) s = .next (wakes (stat (s.setCtx key { c with bank := { c.bank with
                 a := c.bank.a.setIfInBounds num x, aFull := setBit c.bank.aFull num true } }) 0))))
           ∧ (f.file = 8 → num = 0 → c.pend = [] → c.latches = [] → c.trapHeld = false → c.trap.inh = false →
               exec (.wrreg f) s = .next (stat (s.setCtx key c) 0))))
      ∧ exec (.lapclr f) s = .next (stat (s.setCtx key { c with laps := Laps.zero }) 0))
    ∧ (target0 → f.core.toNat ≤ 8 →
        let at' := (s.unitAt u).codeBase + 2 * w.toNat + 1
        let k := imemKey u at'
        let b := memGet s.mem k
        let dirty := s.updUnit u fun y => { y with
          banks := y.banks.setIfInBounds (at' / 65536) { y.banks.getD (at' / 65536) {} with dirty := true } }
        (at' < 262144 → exec (.setbrk f) s = .next (stat { dirty with mem := memWrite s.mem k [b ||| 0x10] } 0)
          ∧ exec (.clrbrk f) s = .next (stat { dirty with mem := memWrite s.mem k [b &&& 0xEF] } 0))
        ∧ (262144 ≤ at' → answers (.setbrk f) 0 ∧ answers (.clrbrk f) 0))
    ∧ (target0 → f.context.toNat ≤ l.hdr.stage →
        let n := f.context.toNat
        let holds := fun (k : Nat) => k ∈ l.keys ∧ isCcc (unitOf k) = false ∧ ∃ t, (s.ctxAt k).task = some t ∧ t.stage.toNat = n
        ((∀ k, ¬ holds k) → gives (.haltstage f) s fun t => (l.uid, n) ∈ t.dbg.halted ∧ t.dbg.dstat = 0 ∧ t.ctxs = s.ctxs)
        ∧ (s.launchBy l.uid = some l →
          (gives (.haltstage f) s fun t => (l.uid, n) ∈ t.dbg.halted
            ∧ (∀ k, ¬ holds k → t.ctxAt k = s.ctxAt k)
            ∧ ∀ k, holds k → (s.ctxAt k).st ≠ .free → (t.ctxAt k).stageh = true
              ∧ ((s.ctxAt k).st = .issuing → (t.ctxAt k).stopDue = true)
              ∧ ((s.ctxAt k).st ≠ .issuing → (s.ctxAt k).vectorsFly = false → (t.ctxAt k).st = .stopped))
          ∧ gives (.runstage f) s fun t => t.dbg.dstat = 0 ∧ (l.uid, n) ∉ t.dbg.halted
            ∧ ∀ k, (¬ holds k ∨ (s.ctxAt k).stageh = false → t.ctxAt k = s.ctxAt k)
              ∧ (holds k → (s.ctxAt k).stageh = true → (t.ctxAt k).stageh = false
                ∧ ((s.ctxAt k).st = .stopped → (s.ctxAt k).halt = true → (t.ctxAt k).st = .stopped)
                ∧ (runs → (s.ctxAt k).st = .stopped → (s.ctxAt k).halt = false →
                    (t.ctxAt k).st = (if (s.ctxAt k).held = .issuing then .ready else (s.ctxAt k).held) ∧ (t.ctxAt k).nextIssue = s.cycle + 1))))

/-- R104, R112, R431, R433, R435, R442, R465, R476, R479: what the host reads and writes in its registers; its accesses through the
apertures and the storage region; and the samples of the trace.
The MSI-X table (log entry 13), masked bits of bases and discarded writes (35), and the state that a sample shows for DRAINING (18) are the model's. -/
def Obligations.HostAccesses : Prop :=
  ∀ (s : State) (w : Word) (n off x : Nat) (bs : List Byte),
    let write := fun (space : BitVec 2) (o : Nat) => exec (.registerWrite space o (leBytes 4 w.toNat)) s
    let r := s.ring n
    let ring := fun (o : Nat) => if n < 28 then write 0 (0x1000 + 64 * n + o) else write 1 (0x1000 + 64 * (n - 28) + o)
    let win := s.hostWins.getD n {}
    let putWin := fun (y : HostWindow) => ({ s with hostWins := s.hostWins.setIfInBounds n y } : State)
    let putDbg := fun (y : DebugPort) => ({ s with dbg := y } : State)
    let holds := fun (y : State) (z : Nat × Nat × List Byte) => ({ y with hostHeld := [z] } : State)
    let d := s.dbg
    let f : DbgF := { file := w.extractLsb' 4 4, num := w.extractLsb' 8 12, cluster := w.extractLsb' 20 4,
                      core := w.extractLsb' 24 4, context := w.extractLsb' 28 3 }
    (write 0 8 = if w = 0x52455345 then exec .moduleReset s else .next s)
    ∧ (n < 32 →
        (r.en = false → ring 0x08 = .next (s.setRing n { r with csize := w.setWidth 4 })
          ∧ ring 0x20 = .next (s.setRing n { r with psize := w.setWidth 4 })
          ∧ ring 0x00 = .next (s.setRing n { r with cbase := ((r.cbase >>> 32).setWidth 32 : Word) ++ (w &&& 0xFFFFF000) })
          ∧ ring 0x1C = .next (s.setRing n { r with pbase := w ++ (r.pbase.setWidth 32 : Word) }))
        ∧ (r.en = true → ring 0x00 = .next (s.setRing n r) ∧ ring 0x08 = .next (s.setRing n r))
        ∧ ring 0x0C = exec (.commandDoorbell n w) s ∧ ring 0x24 = exec (.pheadWrite n w) s
        ∧ (w.getLsbD 31 = false → ring 0x2C = .next (s.setRing n { r with en := w.getLsbD 0, vector := w.extractLsb' 1 6 }))
        ∧ (w.getLsbD 31 = true →
            ring 0x2C = exec (.ringReset n) (s.setRing n { r with en := w.getLsbD 0, vector := w.extractLsb' 1 6 })))
    ∧ (n < 8 → x < 16 → write 0 (0x3000 + 256 * n + 16 * x) = exec (.tconsWrite n x w) s)
    ∧ (n < 8 →
        write 2 (0x10 + 24 * n) = .next (putWin { win with base := ((win.base >>> 32).setWidth 32 : Word) ++ (w &&& 0xFFFFF000) })
        ∧ write 2 (0x18 + 24 * n) = .next (putWin { win with limit := ((win.limit >>> 32).setWidth 32 : Word) ++ w })
        ∧ write 2 (0x20 + 24 * n) = .next (putWin { win with en := w.getLsbD 0, rdonly := w.getLsbD 1 }))
    ∧ write 2 0xD0 = .next { s with viol := s.viol &&& ~~~w }
    ∧ (write 3 0x18 = .next (putDbg { d with ddata := ((d.ddata >>> 32).setWidth 32 : Word) ++ w })
       ∧ write 3 0x24 = .next (putDbg { d with dsess := w.setWidth 3, en := w.getLsbD 8 })
       ∧ (d.tctl.getLsbD 0 = true → write 3 0x28 = .next s ∧ write 3 0x30 = .next s)
       ∧ (d.tctl.getLsbD 0 = false → write 3 0x30 = .next (putDbg { d with tsize := w }))
       ∧ write 3 0x20 = .next s ∧ write 3 0x38 = .next s ∧ write 3 0x40 = .next s)
    ∧ (d.dstat ≠ 15 → w.getLsbD 31 = false → write 3 0x10 = match (w.extractLsb' 0 4).toNat with
        | 1 => exec (.halt f) s
        | 2 => exec (.debugResume f) s
        | 3 => exec (.stepCtx f) s
        | 4 => exec (.rdreg f) s
        | 5 => exec (.wrreg f) s
        | 6 => exec (.haltstage f) s
        | 7 => exec (.runstage f) s
        | 8 => exec (.setbrk f) s
        | 9 => exec (.clrbrk f) s
        | 10 => exec (.lapclr f) s
        | _ => s.debugOn f.cluster.toNat fun _ => s.debugStat 4)
    ∧ (d.dstat = 15 → write 3 0x10 = .next s)
    ∧ (x < 8 → off < 2 ^ 36 → s.aperturePage x off = none → exec (.hostApertureAccess (2 ^ 36 * x + off) false bs) s = .next s)
    ∧ (∀ p va, x < 8 → off < 2 ^ 36 → s.aperturePage x off = some (p, va) →
        (p.present = true → exec (.hostApertureAccess (2 ^ 36 * x + off) false bs) s = .next s)
        ∧ (p.present = false → exec (.hostApertureAccess (2 ^ 36 * x + off) false bs) s = .next (s.reportPage x va 0))
        ∧ (bs ≠ [] → bs.length ≤ 128 - va % 128 → s.hostHeld = [] →
            let i := Instr.hostApertureAccess (2 ^ 36 * x + off) true bs
            (p.present = false → exec i s = .next (holds (s.reportPage x va 0) (x, off, bs)))
            ∧ (p.present = true → p.writable = false → exec i s = .next s)
            ∧ (p.present = true → p.writable = true → s.guardOf [(devKey x va, bs.length)] none = none →
                exec i s = .next { s with mem := memWrite s.mem (devKey x va) bs })
            ∧ (∀ g, p.present = true → p.writable = true → s.guardOf [(devKey x va, bs.length)] none = some g →
                exec i s = .next (holds (s.protectiveForce g.handle) (x, off, bs)))))
    ∧ (off + bs.length ≤ 2 ^ 30 →
        exec (.hostApertureAccess (2 ^ 39 + off) true bs) s = .next { s with mem := memWrite s.mem (storeKey off) bs }
        ∧ exec (.hostApertureAccess (2 ^ 39 + off) false bs) s = .next s)
    ∧ ((d.en = false ∨ d.tctl.getLsbD 0 = false ∨ d.tctl.getLsbD 2 = false) → exec .traceSample s = .next s)
    ∧ ∀ l key, d.en = true → d.tctl.getLsbD 0 = true → d.tctl.getLsbD 2 = true →
        s.mtc.toNat % 2 ^ (d.tctl.extractLsb' 8 5).toNat < s.lastTicks → s.launches = [l] → l.live = true → l.session = d.dsess.toNat →
        key ∈ l.keys → (∀ k ∈ l.keys, (s.ctxAt k).st ≠ .free → k = key) →
        let c := s.ctxAt key
        let stage := match c.task with
          | some t => t.stage.toNat
          | none => 0
        let code := match c.st with
          | .issuing => 0
          | .ready => 1
          | .stopped => 3
          | _ => 2
        (c.st = .free → exec .traceSample s = .next s)
        ∧ (c.st ≠ .free → c.opened = false → c.done = 0 → exec .traceSample s = .next (s.traceRecord
            ([1, 16, 0, 0] ++ leBytes 4 s.mtc.toNat
              ++ leBytes 4 (clusterOf (unitOf key) + coreOf (unitOf key) * 16 + ctxOf key * 256 + stage * 2048 + 15 * 16384 + code * 262144)
              ++ leBytes 4 (unitsAddr c.pc).toNat)))

/-! ## Events of contexts -/

/-- R29, R30, R45 to R49, R53, R98, R173, R235, R238, R302, R321, R427: results in flight land in their order; a restored latch bank replays; an
idle run passes; the precheck ends; a queued fault is delivered; and what becomes of accesses that wait.
When operands are read again, when a context parks and when a queued fault is delivered are log entries 24, 25 and 29. -/
def Obligations.ResultsAndWaits : Prop :=
  ∀ (s : State) (key i : Nat) (p : Pending) (l : Latch) (a : Access) (k : BitVec 20),
    let c := s.ctxAt key
    let plain := ∀ v ∈ p.vals, ∀ n w, v ≠ .sys n w
    let landed := fun (b : Bank) => match p.enq with
      | some w => { p.vals.foldl Bank.land b with t := Vector.ofFn fun i => if i.val = 0 then w else b.t.getD (i.val - 1) 0 }
      | none => p.vals.foldl Bank.land b
    let lands := fun (j : Instr) => exec j s = .next (s.setCtx key ({ c with pend := dropFirst p c.pend, bank := landed c.bank }.sbDone p.sb))
    let due := fun (q : Pending) => q.fixed = true ∧ q.due ≤ s.cycle
    (plain → p ∈ c.pend → due p → (∀ q ∈ c.pend, q ≠ p → due q → p.before q = true ∧ q.before p = false) → lands (.fixedResultVisible key))
    ∧ ((∀ q ∈ c.pend, ¬ due q) → exec (.fixedResultVisible key) s = .next s)
    ∧ (∀ q, (c.pend.filter fun x => !x.fixed)[i]? = some q → q = p → plain →
        (p.due ≤ s.cycle → p.late = none → lands (.resultLand key i))
        ∧ (s.cycle < p.due ∨ p.late ≠ none → exec (.resultLand key i) s = .next s))
    ∧ (∀ rest, c.latches = l :: rest → l.pend = p → l.after = 0 → p.due ≤ s.cycle → plain →
        exec (.latchReplayLand key) s = .next (s.setCtx key ({ c with latches := rest, bank := landed c.bank }.sbDone p.sb)))
    ∧ ((∀ x ∈ c.latches, x.after ≠ 0 ∨ s.cycle < x.pend.due) → exec (.latchReplayLand key) s = .next s)
    ∧ (let me := s.ctx
       gives (.idle k) s fun t => t = { s with ctxs := t.ctxs, flow := .done } ∧ (∀ j, j ≠ s.cur → t.ctxAt j = s.ctxAt j)
         ∧ (t.ctx.idle, t.ctx.sprint, t.ctx.pc, t.ctx.fall, t.ctx.st, t.ctx.lastIssue)
           = (some (k.toNat + 1), me.sprint + k.toNat + 1, me.pc, me.pc + 8, me.st, me.lastIssue)
         ∧ (me.counted = false → ∀ b j, b < 9 → j < 10 → (t.ctx.laps.nop.getD b (Vector.replicate 10 0)).getD j 0
             = (me.laps.nop.getD b (Vector.replicate 10 0)).getD j 0
               + if (innermost me.loops).getD 8 = b then BitVec.ofNat 32 (k.toNat + 1) else 0))
    ∧ (∀ n, c.idle = some n →
        (c.st ≠ .issuing → exec (.idleRunEnd key) s = .next s)
        ∧ (c.st = .issuing → 1 < n → exec (.idleRunEnd key) s = .next (s.setCtx key { c with idle := some (n - 1) }))
        ∧ (c.st = .issuing → n = 1 → c.after.resume = false → c.after.transfer = false → c.dly = false → c.after.exit = none →
            hdrLE (s.headerAt key c.pc) = false → hdrY (s.headerAt key c.pc) = false → hdrX (s.headerAt key c.pc) = false →
            s.sprintDue key = false → c.yieldDue = false → c.stepping = false → c.stopDue = false →
            gives (.idleRunEnd key) s fun t => (t.ctxAt key).pc = c.pc + 8 ∧ (t.ctxAt key).idle = none ∧ (t.ctxAt key).st = .issuing
              ∧ (t.ctxAt key).nextIssue = max c.nextIssue (s.cycle + 1) ∧ (t.ctxAt key).bank = c.bank))
    ∧ (c.idle = none → exec (.idleRunEnd key) s = .next s)
    ∧ ((c.preEnd = none → exec (.precheckEnd key) s = .next s)
       ∧ ∀ e, c.preEnd = some e → (s.cycle < e ∨ c.opened = false ∨ c.st ≠ .issuing → exec (.precheckEnd key) s = .next s)
         ∧ (e ≤ s.cycle → c.opened = true → c.st = .issuing → ∀ x j, s.bundleSlots key = [(x, j)] → c.done.getLsbD x = false →
             profileBad (isCcc (unitOf key)) j = false →
             let u := s.setCtx key { c with preEnd := none }
             ∀ v, runSlot j { u with cur := key, slot := x, flow := .done } = .next v → v.flow = .done →
               exec (.precheckEnd key) s
                 = .next ((v.updCtx key fun y => { y with done := y.done ||| BitVec.ofNat 10 (2 ^ x), wait := none }).finishBundle key)))
    ∧ ((c.faults = [] → exec (.deferredFaultDelivery key) s = .next s)
       ∧ ∀ f rest, c.faults = f :: rest →
         (c.st ≠ .issuing ∨ c.trap.inh = true ∨ c.opened = true ∨ c.done ≠ 0 ∨ c.idle ≠ none → exec (.deferredFaultDelivery key) s = .next s)
         ∧ (c.st = .issuing → c.trap.inh = false → c.opened = false → c.done = 0 → c.idle = none → f.words = [] → f.cause = 0x53 →
             exec (.deferredFaultDelivery key) s
               = .next ((s.setCtx key { c with faults := rest }).trapCtx key 15 0 0x53 f.tcode 0 (some f.addr))))
    ∧ (exec (.waiterRetry key) s = .next (s.setCtx key { c with accs := c.accs.map fun x =>
        match x.st with
        | .retry t => if t ≤ s.cycle then { x with st := .asking s.cycle } else x
        | _ => x }))
    ∧ (c.accs = [a] →
      let put := fun (y : State) (st : AccessState) => y.setCtx key { y.ctxAt key with accs := (y.ctxAt key).accs.map fun x =>
        if x.slot = a.slot then { x with st } else x }
      ((a.st = .admitted ∨ a.st = .queued ∨ (∃ t, a.st = .retry t) ∨ ∃ f w x, a.st = .fault f w x) → exec (.accessAdmission key) s = .next s)
      ∧ (∀ va, s.pageMissing (s.partyOf key) va.toNat = true → a.st = .page va .inPlace → exec (.accessAdmission key) s = .next s)
      ∧ (∀ va, c.quiet = false → a.st = .page va .park ∨ a.st = .page va .parkNoMap → exec (.accessAdmission key) s = .next s)
      ∧ (∀ va, s.pageMissing (s.partyOf key) va.toNat = false → a.st = .page va .inPlace → c.latches = [] →
          exec (.accessAdmission key) s = .next (put s (.asking s.cycle)))
      ∧ (∀ t, a.st = .asking t →
          (s.accVerdict key a.kind a.va.toNat a.size = .ok → exec (.accessAdmission key) s = .next (put s .admitted))
          ∧ (∀ f w x, f ≠ 0x95 → s.accVerdict key a.kind a.va.toNat a.size = .fault f w x →
              exec (.accessAdmission key) s = .next (put s (.fault f w (ad x))))))

/-- R55, R77 to R85, R209, R210, R218, R321, R407, R408: stalls that become blocks, sprints, the choice of a READY context, drowsy banks, blocks that
clear, sleeps that end, random words, tasks that end, and tasks that are bound or restored.
Times that nothing promises come from the tape (log entry 2). What counts in a sprint and as in use is log entry 37, what stall counters count log entry 39, the state of a context that is about to park log entry 52. -/
def Obligations.Scheduling : Prop :=
  ∀ (s : State) (key unit cluster : Nat) (w : Wait),
    let c := s.ctxAt key
    let u := unitOf key
    (c.wait = some w →
      let late := c.st = .issuing ∧ w.blocked = false ∧ w.cause = 4 ∧ w.since + 64 ≤ s.cycle
      (¬ late → exec (.stallBecomesBlock key) s = .next s)
      ∧ (late → c.stopDue = false → gives (.stallBecomesBlock key) s fun t =>
          t.ctxAt key = { c with wait := some { w with blocked := true }, st := .blocked }
          ∧ ((s.unitAt u).cur = some (key % 8) → (t.unitAt u).cur = none ∧ (t.unitAt u).last = key % 8 ∧ (t.unitAt u).mayIssue = s.cycle + 2)))
    ∧ (let due := s.sprintDue key = true ∧ c.st = .issuing ∧ c.opened = false ∧ c.idle = none ∧ c.done = 0 ∧ c.dly = false ∧ c.ended = true
       (¬ due → exec (.sprintLimit key) s = .next s)
       ∧ (due → c.stopDue = false → gives (.sprintLimit key) s fun t => t.ctxAt key = { c with st := .ready }
           ∧ ((s.unitAt u).cur = some (key % 8) → (t.unitAt u).cur = none ∧ (t.unitAt u).mayIssue = s.cycle + 2)))
    ∧ (let limit := (s.hdrOf key).sprint
       s.sprintDue key = true ↔ limit ≠ 0 ∧ limit ≤ c.sprint)
    ∧ (let x := s.unitAt unit
       let n := if unit % 9 = 8 then 4 else 8
       let ready := fun (k : Nat) => (s.ctxAt (8 * unit + k)).st = .ready ∧ (s.ctxAt (8 * unit + k)).stopAt = none
       ((x.cur ≠ none ∨ s.cycle + 1 < x.mayIssue ∨ s.unitRuns unit = false) → exec (.scheduleContext unit) s = .next s)
       ∧ ((∀ k, k < n → ¬ ready k) → exec (.scheduleContext unit) s = .next s)
       ∧ ∀ j, x.cur = none → x.mayIssue ≤ s.cycle + 1 → s.unitRuns unit = true → j < n →
           (∀ i, i < j → ¬ ready ((x.last + 1 + i) % n)) →
           let k := (x.last + 1 + j) % n
           let d := s.ctxAt (8 * unit + k)
           ready k → gives (.scheduleContext unit) s fun t =>
             t = { s with ctxs := t.ctxs, units := t.units } ∧ (t.unitAt unit).cur = some k
             ∧ t.ctxAt (8 * unit + k) = { d with st := .issuing, sprint := if d.opened = true then 1 else 0, nextIssue := max d.nextIssue x.mayIssue }
             ∧ ∀ q, q ≠ 8 * unit + k → t.ctxAt q = s.ctxAt q)
    ∧ (let sleeps := c.drowsy = true ∨ (c.lastIssue + 1024 ≤ s.cycle ∧ c.pend = [] ∧ c.atomics = [])
       (sleeps → exec (.drowsy key) s = .next (s.setCtx key { c with drowsy := true })) ∧ (¬ sleeps → exec (.drowsy key) s = .next s))
    ∧ (let clears := exec (.blockClears key) s
         = .next (s.setCtx key { c with st := .ready, wait := none, nextIssue := max c.nextIssue (s.cycle + 1) })
       let stays := exec (.blockClears key) s = .next s
       (c.st ≠ .blocked → stays)
       ∧ (c.wait = some w → c.st = .blocked →
         (∀ rs, w.why = .regs rs → ((∀ r ∈ rs, c.bank.full r.1 r.2 = true) → clears) ∧ ((∃ r ∈ rs, c.bank.full r.1 r.2 = false) → stays))
         ∧ (∀ m, w.why = .scoreboard m → ((∀ n, n < 8 → m.getLsbD n = true → c.sb.getD n 0 = 0) → clears)
             ∧ ((∃ n, n < 8 ∧ m.getLsbD n = true ∧ c.sb.getD n 0 ≠ 0) → stays))
         ∧ (∀ cls goal, w.why = .timeline cls goal → (goal ≤ c.completed.getD cls 0 → clears) ∧ (c.completed.getD cls 0 < goal → stays))
         ∧ (∀ n, w.why = .job n → (s.jobCount (clusterOf u) n = 0 → clears) ∧ (s.jobCount (clusterOf u) n ≠ 0 → stays))
         ∧ (∀ va q h, w.why = .hurdle va q → hurdleOf (s.ownerNat u (s.sessionOf u) va 16) = some h →
             (1 ≤ h.ahead q → clears) ∧ (h.ahead q < 1 → stays))
         ∧ (∀ d, w.why = .deadline d →
             (d.toInt ≤ (s.mtc.toNat : Int) → clears ∧ exec (.sleeptoDeadline key) s = .next (s.setCtx key { c with st := .ready, wait := none }))
             ∧ ((s.mtc.toNat : Int) < d.toInt → stays ∧ exec (.sleeptoDeadline key) s = .next s))))
    ∧ (let x := s.unitAt unit
       let d := fun (k : Nat) => s.ctxAt (8 * unit + k)
       let n := if unit % 9 = 8 then 4 else 8
       ((∀ k, k < n → 64 ≤ (d k).rq.length) → (∀ k, k < n → (d k).st ≠ .free ∨ (d k).task = none) → (∀ k, x.cur = some k → k < n) →
           exec (.randomWordDelivery unit) s = .next s)
       ∧ (∀ k, x.cur = some k → k < n → (d k).rq.length ≤ 60 → (d k).st = .issuing → (∀ j, j < n → (d j).st ≠ .free ∨ (d j).task = none) →
           gives (.randomWordDelivery unit) s fun t => t.unitAt unit = { x with counter := x.counter + 4 }
             ∧ t.ctxAt (8 * unit + k) = { d k with
               rq := (d k).rq ++ (List.range 4).map fun i => randomWord x.key (x.counter + BitVec.ofNat 64 i) }
             ∧ ∀ q, q ≠ 8 * unit + k → t.ctxAt q = s.ctxAt q)
       ∧ ((∀ k, k < n → 64 = (d k).rq.length) → x.cur = none → s.dbg.halted = [] →
           gives (.randomWordDelivery unit) s fun t => ∀ k, k < n → (d k).st = .free → (d k).task ≠ none → (t.ctxAt (8 * unit + k)).st = .ready))
    ∧ (let v := s.writeBackAll (s.domain u)
       (s.drained key = false → exec (.contextDrained key) s = .next s)
       ∧ (∀ task, s.drained key = true → c.task = some task → (∀ n, n < 8 → (s.arrAt u).chains.contains (n, task.uid) = false) →
           (v.allClean (s.domain u) = false → exec (.contextDrained key) s = .next v)
           ∧ (v.allClean (s.domain u) = true → gives (.contextDrained key) s fun t => (t.ctxAt key).st = .free ∧ (t.ctxAt key).task = none
               ∧ (task.jv = false → t = { v with ctxs := t.ctxs, units := t.units } ∧ ∀ k, k ≠ key → t.ctxAt k = v.ctxAt k)
               ∧ (task.jv = true → ∃ y : State, t = y.jobSub task.jcl task.job 1 ∧ y = { v with ctxs := y.ctxs, units := y.units }))))
    ∧ (∀ q e, s.unitRuns (cccNo cluster) = true → s.nextQueue cluster = some (q, e, unit) → s.vacancy unit = some key →
        ∀ v, s.acquireAt key e.task.ascope.toNat = (v, true) →
        gives (.taskBind cluster) s fun t =>
          (t.ctxAt key).task = some e.task ∧ (t.ctxAt key).pc = bytesAddr e.task.entry ∧ (t.ctxAt key).done = 0
          ∧ (∀ r, 1 ≤ r → r ≤ 4 → unitOf key = unit → (isCcc unit = true ∨ (v.hdrOf key).gated .s r = false) →
              (t.ctxAt key).bank.s.getD r 0 = e.task.args.getD (r - 1) 0)
          ∧ (∀ r, r < 15 → (t.ctxAt key).bank.a.getD r 0 = 0) ∧ (∀ r, r < 16 → (t.ctxAt key).bank.t.getD r 0 = 0)
          ∧ (t.queueAt cluster q).entries = (v.queueAt cluster q).entries.drop 1)
    ∧ ((s.unitRuns (cccNo cluster) = false ∨ s.nextQueue cluster = none) → exec (.taskBind cluster) s = .next s)
    ∧ (∀ p, s.unitRuns unit = true → (s.unitAt unit).parked.find? (·.ready) = some p → s.vacancy unit = some key → unitOf key = unit →
        ∀ v, s.acquireAt key 5 = (v, true) →
        let l := (v.launchOn (clusterOf unit)).getD Launch.none
        let frame := v.loadFrame l unit p.frame p.ctx
        (frame = none → exec (.parkedTaskRestore unit) s = .next (v.fatalAt l.uid key 15 0x90 (unitsAddr p.ctx.pc) 0 0))
        ∧ ∀ d, frame = some d → d.halt = false → d.stageh = false → v.dbg.halted = [] →
          gives (.parkedTaskRestore unit) s fun t =>
            ((t.ctxAt key).st, (t.ctxAt key).pc, (t.ctxAt key).done, (t.ctxAt key).task, (t.ctxAt key).bank)
              = (.ready, d.pc, d.done, d.task, d.bank)
            ∧ (t.unitAt unit).parked = dropFirst p (v.unitAt unit).parked)
    ∧ ((s.unitRuns unit = false ∨ (∀ p ∈ (s.unitAt unit).parked, p.ready = false) ∨ s.vacancy unit = none) →
        exec (.parkedTaskRestore unit) s = .next s)

/-! ## Events of arrays, caches and tiles -/

/-- R93, R94, R230, R232, R245, R250, R256, R257, R261, R262, R265: an array's operations start and land in queue order; the test of a
drain is decided, counted and charged; a released array goes on; and a fill that PREF started comes.
Times that nothing promises come from the tape (log entry 2). That no stored bit changes by itself is log entry 27. -/
def Obligations.ArrayAndCacheEvents : Prop :=
  ∀ (s : State) (u n r : Nat) (va : Addr) (op : MOp) (rest : List MOp),
    let a := s.arrAt u
    let put := fun (y : State) (b : Arr) => y.updUnit u fun x => { x with arr := b }
    let frozen := (s.launchOn (clusterOf u)).any (·.st == .preempting) = true
    let awaits := ∃ x ∈ a.running, op.kind.awaits x.kind = true
    ((a.queue = [] ∨ frozen ∨ (a.queue = op :: rest ∧ awaits)) → exec (.mOpStart u) s = .next s)
    ∧ (a.queue = op :: rest → ¬ frozen → ¬ awaits → exec (.mOpStart u) s = .next (put s.drawn { a with
        queue := rest, running := a.running ++ [{ op with due := s.cycle + 2 + s.choices.headD 0 }] }))
    ∧ ((∀ x ∈ a.running, x.kind.isPlace = true) → exec (.mOpLand u) s = .next s)
    ∧ (a.running = op :: rest → op.kind.isPlace = false →
        (s.cycle < op.due → exec (.mOpLand u) s = .next s)
        ∧ (op.due ≤ s.cycle → exec (.mOpLand u) s = .next (put s ({ a with running := rest }.land op))))
    ∧ (a.deciding = none → gives (.drainVerdict u) s fun t => t.arrAt u = a ∧ t.mem = s.mem)
    ∧ (∀ ty sat, a.deciding = some (n, ty, sat) → n < 8 →
        (a.acc n).test ty sat = .bad → gives (.drainVerdict u) s fun t =>
          t.arrAt u = { a with
            verdicts := a.verdicts + 1
            deciding := none
            uncorrectable := some (n, ty, sat, ((a.acc n).failing ty sat).1, ((a.acc n).failing ty sat).2) })
    ∧ (∀ ty sat g sums located, a.deciding = some (n, ty, sat) → n < 8 → (a.acc n).test ty sat = .good g sums located →
        gives (.drainVerdict u) s fun t => (t.arrAt u).deciding = none
          ∧ ((t.arrAt u).acc n).verdict = some { ty, sat, rows := g.map fun row => row.map (keptRaw ty) }
          ∧ (∀ m, m ≠ n → (t.arrAt u).acc m = a.acc m) ∧ ((t.arrAt u).acc n).data = (a.acc n).data
          ∧ (t.arrAt u).verdicts = a.verdicts + 1
          ∧ (located = [] → (a.acc n).fixes ty sat located = [] → (t.arrAt u).cnt = a.cnt ∧ (t.arrAt u).retired = a.retired))
    ∧ (let b := (a.charge r)
       let p := (((List.range 132).filter fun q => !(a.retired.take a.applied).contains q)[r]?).getD r
       let old := a.verdicts - a.first.get 0 p
       let again := a.cnt.get 0 p ≠ 0 ∧ old.toNat < 2 ^ 20
       b.cnt.get 0 p = (if again then a.cnt.get 0 p + 1 else 1)
       ∧ (¬ again → b.first.get 0 p = a.verdicts)
       ∧ ((again → a.cnt.get 0 p ≠ 2) → b.retired = a.retired ∧ b.degraded = a.degraded)
       ∧ (again → a.cnt.get 0 p = 2 → p ∉ a.retired →
           (a.retired.length < 3 → b.retired = a.retired ++ [p]) ∧ (3 ≤ a.retired.length → b.retired = a.retired ∧ b.degraded = true)))
    ∧ (let stays := exec (.arrayRelease u) s = .next s
       let held := a.holder ≠ none ∨ a.evaluator ≠ none
       (held → stays)
       ∧ (a.evalWaiting = [] → a.waiting = [] → stays)
       ∧ (∀ e es, ¬ held → a.evalWaiting = e :: es → exec (.arrayRelease u) s = .next (put s
           (if s.evals.any (·.id == e) then { a with applied := a.retired.length, evaluator := some e, evalWaiting := es }
            else { a with evalWaiting := es })))
       ∧ (∀ key keys task, ¬ held → a.evalWaiting = [] → a.waiting = key :: keys → (s.ctxAt key).task = some task →
           exec (.arrayRelease u) s = .next (put s { a with applied := a.retired.length, holder := some task.uid })))
    ∧ (let x := s.unitAt u
       let sec := va.toNat / 128
       ((∀ f ∈ x.fills, f.1 ≠ va) → exec (.l1Fill u va) s = .next s)
       ∧ ∀ f c pg, x.fills.find? (·.1 == va) = some f → s.l1Unit u va.toNat = some c → s.pageOf (s.sessionOf u) (ad va.toNat) = some pg →
         let ok := pg.policy ≠ .uc ∧ s.verdict (s.unitParty u) {} [(va.toNat / 128 * 128, 128)] = .ok
         (f.2 = none → ¬ ok →
           exec (.l1Fill u va) s = .next (s.updUnit u fun x => { x with fills := dropFirst f x.fills }))
         ∧ (ok → (s.unitAt c).l1.find sec = none → victimOf (s.unitAt c).l1 (s.fusedL1 c) sec = none →
             gives (.l1Fill u va) s fun t => (t.unitAt u).fills = dropFirst f x.fills ∧ t.mem = s.mem
               ∧ (∃ l, (t.unitAt c).l1 = (s.unitAt c).l1.put sec l ∧ l.bytes = s.ownerRead u (s.sessionOf u) (ad (128 * sec)) 128
                   ∧ l.dirty = List.replicate 128 false ∧ l.policy = pg.policy ∧ l.readOnly = !pg.writable)
               ∧ ∀ key sb, f.2 = some (key, sb) → sb < 8 → (t.ctxAt key).sb.getD sb 0 = (s.ctxAt key).sb.getD sb 0 - 1))

/-- R113, R235, R246, R275, R285, R286, R289, R291, R292, R295, R296, R302: demands; how an evaluation goes on, what it computes, what it
writes, and how it fails.
Times that nothing promises come from the tape (log entry 2). Readings of the tile graph are log entries 27 and 28, the 16 tiles of an evaluator log entry 58. -/
def Obligations.TileEvaluations : Prop :=
  ∀ (s : State) (i : Nat) (va : Addr) (e : Eval) (n : Node) (session : Nat),
    let sec := va.toNat / 128
    let node := (s.tagNo session sec).node
    let ev := Instr.tileEvaluation i
    let becomes := fun (y : State) (st : EvalState) =>
      ({ y with evals := modifyFirst (·.id == e.id) (fun v => { v with st }) y.evals } : State)
    ((s.tagNo session sec).tag ≠ .suspended → exec (.demand session va) s = .next s)
    ∧ ((s.tagNo session sec).tag = .suspended → s.nodeOf node = some n → n.tiles = [.suspended] → (n.tileSectors 0).contains sec = true →
        n.handle = node → n.session = session → gives (.demand session va) s fun t =>
          t.evals = s.evals ++ [{ id := s.nextUid, node, tile := 0, chain := s.nextUid }]
          ∧ (∀ x ∈ n.tileSectors 0, (t.tagNo session x).tag = .evaluating) ∧ t.mem = s.mem
          ∧ ∃ m, t.nodeOf node = some m ∧ m = { n with tiles := [.evaluating], st := .active })
    ∧ (s.evals[i]? = some e →
      (e.st ≠ .waiting → exec ev s = .next s)
      ∧ (e.st = .waiting → s.nodeOf e.node = none → exec ev s = .next { s with evals := s.evals.filter (·.id != e.id) })
      ∧ (e.st = .waiting → s.nodeOf e.node = some n →
        let p := { s.partyNode n with who := e.id }
        let asks := { p with req := e.id }
        let spans := n.inputSpans e.tile
        let ins := n.inputs e.tile
        let rd := fun (y : State) (b m : Nat) => y.engineBytes p b m
        let turn := s.streamBefore n = none ∧ s.predsToDo e n = [] ∧ s.engs.any (·.isTile e.id) = false ∧ s.working n.cluster < 16
        let free := turn ∧ s.closesCycle asks (s.ancestors 4096 e.id) spans = false
        let tries := s.engineTry asks {} { chain := some e.chain, parent := some e.id } spans
        let ready := fun (y : State) => free ∧ tries = (y, .ready) ∧ { y.partyNode n with who := e.id } = p
        let computes := fun (y : State) as bs t sums fixed => verifyAll (rd y) (ins.map Prod.fst) = .ok as ∧ verifyAll (rd y) (ins.filterMap Prod.snd) = .ok bs
          ∧ evalTile n false (if n.d.ty = 5 then codebookOf (rd y n.d.codebook 32) else []) none as bs = .tile t sums fixed
        let again := fun (y : State) => ({ y with evals := modifyFirst (·.id == e.id) (fun v => { v with tries := v.tries + 1 }) y.evals } : State)
        (∀ m, s.streamBefore n = some m → exec ev s = .next (s.demandTiles m.handle m.suspended (some e.chain) (some e.id) none))
        ∧ (∀ x xs, s.streamBefore n = none → s.predsToDo e n = x :: xs → (∀ v ∈ s.evals, ¬ (v.node = x.1 ∧ v.tile = x.2)) →
            exec ev s = .next { s with
              nextUid := s.nextUid + 1
              evals := s.evals ++ [{ id := s.nextUid, node := x.1, tile := x.2, chain := e.chain, parent := some e.id }] })
        ∧ (s.streamBefore n = none → s.predsToDo e n = [] → (s.engs.any (·.isTile e.id) = true ∨ 16 ≤ s.working n.cluster) → exec ev s = .next s)
        ∧ (turn → s.closesCycle asks (s.ancestors 4096 e.id) spans = true →
            exec ev s = .next (becomes s (.failed { inner := 0x51, code := 2 })))
        ∧ (∀ y c x a, c ≠ 0x33 → free → tries = (y, .fault c x a) →
            exec ev s = .next (becomes y (.failed { inner := c, code := x, addr := ad a })))
        ∧ (∀ y, free → tries = (y, .wait) → exec ev s = .next y)
        ∧ (∀ y, ready y → (∀ unit, (n.op = .txpose ∧ unit = 0) ∨ (n.op = .tcvt ∧ unit = 5) → exec ev s = .next (y.enterUnit e n unit)))
        ∧ (∀ y c, ready y → n.op ≠ .txpose → n.op ≠ .tcvt → verifyAll (rd y) (ins.map Prod.fst) = .error c →
            (e.tries < 2 → exec ev s = .next (again y)) ∧ (2 ≤ e.tries → exec ev s = .next (becomes y (.failed { inner := 0x41, code := c }))))
        ∧ (∀ y as bs t sums fixed, ready y → n.op = .tmap ∨ n.op = .tzip ∨ n.op = .tred ∨ n.op = .tcopy → computes y as bs t sums fixed →
            gives ev s fun z => z.evals = (becomes y (.computed t.rows t.scales sums.rc sums.cc sums.ck none)).evals ∧ z.nodes = y.nodes
              ∧ z.tags = y.tags)
        ∧ (∀ y as bs t sums fixed, ready y → n.op = .tmul → y.spotFor n e.id = .alu → computes y as bs t sums fixed →
            gives ev s fun z => z.evals = (becomes y (.computed t.rows t.scales sums.rc sums.cc sums.ck none)).evals))
      ∧ (∀ f, e.st = .failed f → s.nodeOf e.node = none →
          exec (.evaluationFailed i) s = .next { s with evals := s.evals.filter (·.id != e.id) })
      ∧ (∀ f, e.st = .failed f → s.nodeOf e.node = some n → n.handle = e.node → n.tiles = [.evaluating] → e.tile = 0 → e.parent = none →
          n.preds = [[]] → (∀ x ∈ n.tileSectors 0, (s.tagNo n.session x).node = e.node ∧ (s.tagNo n.session x).waiters = []) →
          let after := fun (z : State) => (∀ x ∈ n.tileSectors 0, z.tagNo n.session x = { tag := .poison })
            ∧ (∀ m ∈ z.nodes, m.handle ≠ e.node) ∧ z.evals = s.evals.filter (·.id != e.id) ∧ z.mem = s.mem
          (e.site = none → gives (.evaluationFailed i) s fun z => after z ∧ z.ctxs = s.ctxs ∧ z.fatals = s.fatals)
          ∧ (∀ d, e.site = some d → d.kind = 2 → d.req = 0 →
              (s.ctxAt d.key).st ≠ .draining → (s.ctxAt d.key).st ≠ .free → (s.ctxAt d.key).faults.length < 4 →
              gives (.evaluationFailed i) s fun z => after z ∧ z.ctxAt d.key = { s.ctxAt d.key with
                faults := (s.ctxAt d.key).faults ++ [{
                  cause := 0x53, inner := f.inner, tcode := BitVec.ofNat 32 f.inner, addr := f.addr, words := deferWords n 0 f d }] })
          ∧ (∀ d, e.site = some d → d.kind = 5 → gives (.evaluationFailed i) s fun z => after z ∧ z.ctxs = s.ctxs
              ∧ z.fatals = s.fatals ++ [{
                launch := n.launch, cause := 0x53, key := n.key, slot := n.slot, addr := n.addr
                code := BitVec.ofNat 32 f.inner, inner := f.inner }]))
      ∧ ((∀ f, e.st ≠ .failed f) → exec (.evaluationFailed i) s = .next s)
      ∧ ((∀ rows scales rc cc ck core, e.st ≠ .computed rows scales rc cc ck core) → exec (.tileEvaluated i) s = .next s)
      ∧ (∀ rows scales rc cc ck, e.st = .computed rows scales rc cc ck none → s.nodeOf e.node = some n → n.handle = e.node →
          n.tiles = [.evaluating] → e.tile = 0 → n.preds = [[]] →
          (∀ x ∈ n.tileSectors 0, (s.tagNo n.session x).node = e.node ∧ (s.tagNo n.session x).waiters = []) →
          let p := s.partyNode n
          let t : RawTile := { ty := n.d.ty, m := n.d.tr, n := n.d.tc, rows, scales }
          let writes := n.d.tileWrites (fun a m => s.engineBytes p a m) (n.coord 0).1 (n.coord 0).2 t { rc, cc, ck }
          let w := s.engineWrite p writes
          (∀ x ∈ n.tileSectors 0, (w.tagNo n.session x).node = e.node ∧ (w.tagNo n.session x).waiters = []) →
          gives (.tileEvaluated i) s fun z => z.mem = w.mem ∧ (∀ x ∈ n.tileSectors 0, z.tagNo n.session x = {})
            ∧ (∀ m ∈ z.nodes, m.handle ≠ e.node) ∧ z.evals = w.evals.filter (·.id != e.id)))
    ∧ (∀ as bs : List (RawTile × Sums), ∀ a b sa sb, as = [(a, sa)] → bs = [(b, sb)] →
        let ty := n.d.ty
        let sat := tyIsInt ty
        let out := fun (g : Nat → Nat → Machine.Num) => (List.range n.d.tr).map fun r => (List.range n.d.tc).map fun c =>
          BitVec.ofNat 32 (roundTo ty 0 sat 0 (g r c))
        let tile := fun (rows : List (List Word)) => ({ ty, m := n.d.tr, n := n.d.tc, rows } : RawTile)
        let computes := fun (rows : List (List Word)) =>
          evalTile n false [] none as bs = .tile (tile rows) (tile rows).regenerate []
        let w := if tyIsInt n.a.ty then Machine.Num.ofInt n.p.toInt else fp32 n.p
        let fn := (n.ctl.extractLsb' 0 3).toNat
        (n.op = .tmap → (fn = 0 → computes (out fun r c => (a.val r c).mul w)) ∧ (fn = 1 → computes (out fun r c => (a.val r c).add w))
          ∧ (fn = 3 → computes (out fun r c => (a.val r c).abs)) ∧ (fn = 4 → computes (out fun r c => (a.val r c).neg))
          ∧ (fn = 5 → computes (out fun r c => (a.val r c).mul (a.val r c)))
          ∧ (fn = 2 → computes (out fun r c => if Machine.Num.zero.lt (a.val r c) then a.val r c else .zero))
          ∧ (fn = 6 → computes (out fun r c => numPick true (a.val r c) w)) ∧ (fn = 7 → computes (out fun r c => numPick false (a.val r c) w)))
        ∧ (n.op = .tzip → (fn = 0 → computes (out fun r c => (a.val r c).add (b.val r c)))
          ∧ (fn = 1 → computes (out fun r c => (a.val r c).sub (b.val r c))) ∧ (fn = 2 → computes (out fun r c => (a.val r c).mul (b.val r c)))
          ∧ (fn = 3 → computes (out fun r c => numPick true (a.val r c) (b.val r c)))
          ∧ (fn = 4 → computes (out fun r c => numPick false (a.val r c) (b.val r c))))
        ∧ (n.op = .tred → computes (out fun r c => redElems (n.ctl.extractLsb' 0 2).toNat n.a.ty
            (if n.ctl.getLsbD 2 then (List.range a.m).map (a.val · c) else (List.range a.n).map (a.val r ·))))
        ∧ (n.op = .tcopy → evalTile n false [] none as bs = .tile a sa [])
        ∧ (n.op = .txpose → ∃ t, evalTile n false [] none as bs = .tile t { rc := sa.cc, cc := sa.rc, ck := sa.ck } []
            ∧ ∀ r c, r < a.m → c < a.n → a.rows.length = a.m → (∀ row ∈ a.rows, row.length = a.n) →
              (t.rows.getD c []).getD r 0 = (a.rows.getD r []).getD c 0))

/-! ## Events of engines -/

/-- R109, R307, R308, R312, R313, R316, R325, R328, R334, R342, R352, R353, R360, R413, R416, R418: a request becomes done; the copy engine's data
phases; the storage sequencer's submission, completion, timeout and lanes; a transform unit's operation; a walk's next tile; and the
pushes of a kernel.
Times that nothing promises come from the tape (log entry 2). When a copy starts is log entry 9, the identifier of an NVMe command log entry 31. -/
def Obligations.EngineEvents : Prop :=
  ∀ (s u w : State) (i cluster unit h : Nat) (r : EngReq) (status : BitVec 15) (data : List Byte) (x : Walk),
    let q := { r with started := true }
    let s1 := s.updEng r.id fun y => { y with started := true }
    let p := s1.partyReq q
    let ends := fun (y : State) (pos : Nat) => modifyFirst (·.id == r.id) (fun z => { z with pos, finished := true }) y.engs
    let tileEnds := fun (y : State) => modifyFirst (·.id == r.id) (fun z => { z with pos := 1, tries := 0, finished := true }) y.engs
    let tries := fun (reads writes : List (Nat × Nat)) => s1.engineTry p {} q.demander reads = (u, .ready)
      ∧ u.engineTry p { write := true } q.demander writes = (w, .ready) ∧ u.partyReq q = p ∧ w.partyReq q = p
      ∧ w.engs.find? (·.id == r.id) = some q ∧ s1.deferred.contains r.id = false ∧ w.deferred.contains r.id = false
    -- R109, R413, R416: done
    (s.engs[i]? = some r →
      let saved := ∃ l, s.launchBy r.launch = some l ∧ l.saved ≠ none
      ((s.engOver r = false ∨ s.turnOf r = false ∨ saved) → exec (.requestDone i) s = .next s)
      ∧ (s.engOver r = true → s.turnOf r = true → ¬ saved →
          let cl := clusterOf (unitOf r.key)
          let c := s.ctxAt r.key
          (∀ j, j < 32 → ((s.clusterAt cl).streamCtl.getD j {}).st = .free) → gives (.requestDone i) s fun t =>
            t.engs = s.engs.filter (·.id != r.id)
            ∧ (t.clusterAt cl).events = (s.clusterAt cl).events
              ++ (if r.ev = true then [(eventA r.cls (match r.handle with
                  | some z => z.toNat
                  | none => r.num % 2 ^ 24), eventB r.key r.unit)] else [])
            ∧ (∀ k, k ≠ r.key → t.ctxAt k = s.ctxAt k)
            ∧ (∀ z : ReqRec, c.reqs = [z] → z.cls = r.cls → z.num = r.num → r.cls < 6 → c.completed.getD r.cls 0 + 1 = r.num →
                (t.ctxAt r.key).reqs = [] ∧ (t.ctxAt r.key).completed.getD r.cls 0 = r.num)))
    -- R308, R312: a byte copy that one piece does
    ∧ (s.copyQueue cluster = [] → exec (.copyDataPhaseStart cluster) s = .next s)
    ∧ (s.copyQueue cluster = [r] → r.started = false →
        (s.cycle < r.ready → s.owes r = false → exec (.copyDataPhaseStart cluster) s = .next s)
        ∧ ((r.ready ≤ s.cycle ∨ s.owes r = true) → r.pos = 0 → s.engs.find? (·.id == r.id) = some r → s1.mustFollow r = false →
          (∀ dst src len, r.work = .bytes dst src len → 0 < len → len ≤ 128 → tries [(src, len)] [(dst, len)] →
            let y := w.engineWrite p [(dst, w.engineBytes p src len)]
            gives (.copyDataPhaseStart cluster) s fun t => t.mem = y.mem ∧ t.engs = ends y len)
          ∧ (∀ d a tile sums, r.work = .tiles d a false → d.gr = 1 → d.gc = 1 → tries (a.tileSpans 0 0 ++ a.codeSpans) (d.tileSpans 0 0) →
            let rd := fun b n => w.engineBytes p b n
            a.verified rd 0 0 = some (tile, sums) → a.fixes rd 0 0 = [] →
            let y := w.engineWrite p (d.tileWrites rd 0 0 tile sums)
            gives (.copyDataPhaseStart cluster) s fun t => t.mem = y.mem ∧ t.engs = tileEnds y)
          ∧ (∀ d a, r.work = .tiles d a false → d.gr = 1 → d.gc = 1 → tries (a.tileSpans 0 0 ++ a.codeSpans) (d.tileSpans 0 0) →
            let rd := fun b n => w.engineBytes p b n
            a.verified rd 0 0 = none →
              (r.tries < 2 → exec (.copyDataPhaseStart cluster) s = .next { w with
                engs := modifyFirst (·.id == r.id) (fun z => { z with tries := z.tries + 1 }) w.engs })
              ∧ (2 ≤ r.tries → exec (.copyDataPhaseStart cluster) s = .next (w.engFault q 0x41 (uncCode a rd 0 0) 0)))))
    -- R325: the storage sequencer
    ∧ (let half := s.halfAt cluster h
       let qp := fun (n : Nat) => s.qpairs.get {} n
       let mine := half.req.bind fun id => s.engs.find? (·.id == id)
       ((∀ k, k < 2 → s.halfAt cluster k ≠ {}) → exec (.storageSubmit cluster) s = .next s)
       ∧ ((∀ y ∈ s.copyQueue cluster, y.cls ≠ 5 ∨ y.started = false) → exec (.storageSubmit cluster) s = .next s)
       ∧ (∀ dst lba nsid count block n tq codec ub pb, s.halfAt cluster 0 = {} → s.copyQueue cluster = [r] → r.cls = 5 → r.started = true →
           s.halfOf r = none → r.cluster = cluster → r.work = .storage dst lba nsid count block n tq codec ub pb → lba < 2 ^ 64 → nsid < 2 ^ 32 →
           0 < count → count ≤ 2 ^ 16 → cluster < 16 → hostAllowed s.hostWins (qp n).sqBell 4 true = true →
           let tail := ((qp n).tail + 1) % 2 ^ (qp n).log2
           gives (.storageSubmit cluster) s fun t => ∃ e : List Byte, e.length = 64
             ∧ (∃ cid, cid < 2 ^ 16 ∧ e.take 8 = leBytes 2 2 ++ leBytes 2 cid ++ leBytes 4 nsid)
             ∧ ((e.drop 8).take 16 = leBytes 16 0 ∧ (e.drop 40).take 8 = leBytes 8 lba ∧ e.drop 48 = leBytes 2 (count - 1) ++ leBytes 14 0)
             ∧ t.mem = memWrite (memWrite s.mem (storeKey ((qp n).sq + 64 * (qp n).tail)) e) (busKey (qp n).sqBell) (leBytes 4 tail)
             ∧ t.qpairs = s.qpairs.put n { qp n with tail } ∧ t.halfAt cluster 0 = { req := some r.id, qp := n, deadline := s.mtc.toNat + 16 * tq }
             ∧ t.engs = s1.engs)
       ∧ (half.lost = true → let n := half.qp
           let head := ((qp n).cqHead + 1) % 2 ^ (qp n).log2
           let y : State := { s with qpairs := s.qpairs.put n { qp n with cqHead := head } }
           exec (.nvmeCompletion cluster h status data) s = .next (
             if hostAllowed s.hostWins (qp n).cqBell 4 true = true then
               ({ y with mem := memWrite s.mem (busKey (qp n).cqBell) (leBytes 4 head) } : State).setHalf cluster h {}
             else y.violate.setHalf cluster h {}))
       ∧ (half.lost = false → (mine = none ∨ half.staged = true) →
           exec (.nvmeCompletion cluster h status data) s = .next s)
       ∧ (∀ dst lba nsid count block n tq codec ub pb, half.lost = false → half.staged = false → mine = some r →
           r.work = .storage dst lba nsid count block n tq codec ub pb → hostAllowed s.hostWins (qp n).cqBell 4 true = true →
           let head := ((qp n).cqHead + 1) % 2 ^ (qp n).log2
           let y : State := { s with
             qpairs := s.qpairs.put n { qp n with cqHead := head }
             mem := memWrite s.mem (busKey (qp n).cqBell) (leBytes 4 head) }
           (status = 0 → data.length = count * block → exec (.nvmeCompletion cluster h status data) s = .next
             (({ y with mem := memWrite y.mem (s.stageKey r h 0) data } : State).setHalf cluster h { half with staged := true }))
           ∧ (status = 0 → data.length ≠ count * block → exec (.nvmeCompletion cluster h status data) s = .next s)
           ∧ (status ≠ 0 → exec (.nvmeCompletion cluster h status data) s
               = .next ((y.engFault r 0x64 (status.setWidth 32) 0).setHalf cluster h {})))
       ∧ (mine = none → exec (.nvmeTimeout cluster h) s = .next s)
       ∧ (mine = some r →
           ((half.staged = true ∨ s.mtc.toNat < half.deadline) → exec (.nvmeTimeout cluster h) s = .next s)
           ∧ (half.staged = false → half.deadline ≤ s.mtc.toNat →
               exec (.nvmeTimeout cluster h) s = .next ((s.engFault r 0x64 0x7FFF 0).setHalf cluster h { half with req := none, lost := true })))
       ∧ ((∀ y ∈ s.copyQueue cluster, ∀ dst lba nsid count block n tq ub pb,
             y.work ≠ .storage dst lba nsid count block n tq (some unit) ub pb) → exec (.storageLaneDecode cluster unit) s = .next s)
       ∧ (∀ dst lba nsid count block n tq ub pb, s.copyQueue cluster = [r] → r.work = .storage dst lba nsid count block n tq (some unit) ub pb →
           s.halfOf r = some h → r.cluster = cluster → s.engs.find? (·.id == r.id) = some r → r.data = [] → s.deferred.contains r.id = false →
           ((half.staged = false ∨ s.mustFollow r = true) → exec (.storageLaneDecode cluster unit) s = .next s)
           ∧ (half.staged = true → s.mustFollow r = false → count * block = pb → 0 < pb →
             let hd := chunkHeadOf (memRead s.mem (s.stageKey r h 0) 16)
             let pay := natsOf (memRead s.mem (s.stageKey r h 0 + 16) hd.clen)
             let ty := BitVec.ofNat 4 (leNat (bytesOf (pay.take 8)) / 2 ^ 48 % 16)
             let fails := fun (c : Nat) =>
               (r.tries < 2 → exec (.storageLaneDecode cluster unit) s = .next { s with
                 engs := modifyFirst (·.id == r.id) (fun z => { z with tries := z.tries + 1 }) s.engs })
               ∧ (2 ≤ r.tries → exec (.storageLaneDecode cluster unit) s
                   = .next ((s.engFault r 0x62 (BitVec.ofNat 32 c) 0).setHalf cluster h {}))
             (hd.bad = true → fails 2)
             ∧ (hd.bad = false → hd.kind ≠ 15 → ub < hd.ulen → fails 4)
             ∧ (hd.bad = false → hd.kind ≠ 15 → hd.ulen ≤ ub → chunkContent ty hd.kind hd.ulen pay = none → fails 3)
             ∧ ∀ bs, hd.bad = false → hd.kind ≠ 15 → hd.ulen ≤ ub → chunkContent ty hd.kind hd.ulen pay = some bs →
                 (crc64 bs ≠ hd.crc → fails 1)
                 ∧ (crc64 bs = hd.crc → r.pos = 0 → s.engineTry (s.partyReq r) {} r.demander [] = (u, .ready) →
                     u.engineTry (s.partyReq r) { write := true } r.demander [(dst, bs.length)] = (w, .ready) →
                     u.partyReq r = s.partyReq r → w.partyReq r = s.partyReq r → w.engs.find? (·.id == r.id) = some r →
                     w.deferred.contains r.id = false →
                     let y := w.engineWrite (s.partyReq r) [(dst, bytesOf bs)]
                     gives (.storageLaneDecode cluster unit) s fun t => t.mem = y.mem ∧ t.halfAt cluster h = {}
                       ∧ t.engs = modifyFirst (·.id == r.id) (fun z => { z with pos := bs.length, tries := 0, data := [1], finished := true }) y.engs))))
    -- R328, R334, R335: a transform unit
    ∧ (s.unitOps cluster unit = [] → exec (.transformOpStart cluster unit) s = .next s)
    ∧ (∀ op n rest, s.unitOps cluster unit = r :: rest → r.work = .xform n op → r.started = false →
        (s.cycle < r.ready → exec (.transformOpStart cluster unit) s = .next s)
        ∧ ∀ d a tile sums, r.ready ≤ s.cycle → r.pos = 0 → s.engs.find? (·.id == r.id) = some r → d.gr = 1 → d.gc = 1 →
            let q := { r with started := true, work := .xform unit op }
            let s1 := s.updEng r.id fun y => { y with started := true, work := .xform unit op }
            let p := s1.partyReq q
            let tries := fun (reads writes : List (Nat × Nat)) => s1.engineTry p {} q.demander reads = (u, .ready)
              ∧ u.engineTry p { write := true } q.demander writes = (w, .ready) ∧ u.partyReq q = p ∧ w.partyReq q = p
              ∧ w.engs.find? (·.id == r.id) = some q ∧ s1.deferred.contains r.id = false ∧ w.deferred.contains r.id = false
            tries (a.tileSpans 0 0 ++ a.codeSpans) (d.tileSpans 0 0) →
            let rd := fun b m => w.engineBytes p b m
            a.verified rd 0 0 = some (tile, sums) → a.fixes rd 0 0 = [] →
            (op = .transpose d a →
              let y := w.engineWrite p (d.tileWrites rd 0 0 { tile with m := d.tr, n := d.tc, rows := transposeRows tile.n tile.rows }
                { rc := sums.cc, cc := sums.rc, ck := sums.ck })
              gives (.transformOpStart cluster unit) s fun t => t.mem = y.mem ∧ t.engs = tileEnds y)
            ∧ ∀ mode sat rw, op = .convert d a mode sat rw → d.ty ≠ 5 →
              let e := encodeTile d.ty (r.data.map (BitVec.ofNat 32)) mode sat rw d.tc tile.grid
              let y := w.engineWrite p (d.tileWrites rd 0 0 e e.regenerate)
              gives (.transformOpStart cluster unit) s fun t => t.mem = y.mem ∧ t.engs = tileEnds y)
    -- R352, R353: walks
    ∧ (let at' := fun (z : Walk) => z.cluster == cluster && z.engine == unit && z.slot == h && s.walkRuns z
       let load := exec (.loaderTile cluster unit h) s
       let store := exec (.storerTile cluster unit h) s
       (s.walks.find? at' = none → load = .next s ∧ store = .next s)
       ∧ (s.walks.find? at' = some x → (x.storer = true → load = .next s) ∧ (x.storer = false → store = .next s)
         ∧ (x.storer = false → s.deferred.contains x.id = false →
           let j := x.nextTile
           let k := j % x.record.n
           (x.record.count ≤ j → load = .next (s.endWalk x))
           ∧ (j < x.record.count → x.batons.getD k .done ≠ .engine → load = .next s)
           ∧ (j + 1 < x.record.count → x.batons.getD k .done = .engine → u.walks.find? (·.id == x.id) = some x → w.walks = u.walks →
               let (a, b) := x.record.tile j
               let party := s.partyWalk x
               s.engineTry party {} x.demander (x.d.tileSpans a b ++ x.d.codeSpans) = (u, .ready) →
               u.engineTry party { write := true } x.demander (x.cores.flatMap fun c => (x.slotRegion c k).tileSpans 0 0) = (w, .ready) →
               let rd := fun m n => w.engineBytes party m n
               (x.d.verified rd a b = none → (x.tries < 2 → load = .next (w.updWalk x.id fun z => { z with tries := z.tries + 1 }))
                 ∧ (2 ≤ x.tries → load = .next (w.failWalk x 0x41 (uncCode x.d rd a b) 0)))
               ∧ ∀ tile sums, x.d.verified rd a b = some (tile, sums) → x.d.fixes rd a b = [] →
                   let y := x.cores.foldl (fun (z : State) c => z.engineWrite party ((x.slotRegion c k).tileWrites rd 0 0 tile sums)) w
                   gives (.loaderTile cluster unit h) s fun t => t.mem = y.mem
                     ∧ ∃ z, t.walks.find? (·.id == x.id) = some z ∧ z.moved = x.moved + 1 ∧ z.st = x.st
                       ∧ (k < x.batons.length → z.batons.getD k .done = .full x.mcast)))
         ∧ (x.storer = true →
           (x.total ≤ x.moved → store = .next (s.endWalk x)) ∧ (x.moved < x.total → x.arrivals = [] → store = .next s)
           ∧ (∀ k rest, x.moved < x.total → x.arrivals = k :: rest → x.record.count ≤ x.nextOf (x.cores.headD 0) k - x.record.n →
               store = .next (s.updWalk x.id fun z => { z with batons := z.batons.set k .done, arrivals := rest }))
           ∧ ∀ k rest, x.moved + 1 < x.total → x.arrivals = k :: rest → s.deferred.contains x.id = false →
               u.walks.find? (·.id == x.id) = some x → w.walks = u.walks →
               let core := x.cores.headD 0
               let j := x.nextOf core k - x.record.n
               j < x.record.count →
               let (a, b) := x.record.tile j
               let party := s.partyWalk x
               let src := x.slotRegion core k
               s.engineTry party {} x.demander (src.tileSpans 0 0 ++ src.codeSpans) = (u, .ready) →
               u.engineTry party { write := true } x.demander (x.d.tileSpans a b) = (w, .ready) →
               let rd := fun m n => w.engineBytes party m n
               ∀ tile sums, src.verified rd 0 0 = some (tile, sums) → src.fixes rd 0 0 = [] →
                 let y := w.engineWrite party (x.d.tileWrites rd a b tile sums)
                 gives (.storerTile cluster unit h) s fun t => t.mem = y.mem
                   ∧ ∃ z, t.walks.find? (·.id == x.id) = some z ∧ z.moved = x.moved + 1 ∧ z.arrivals = rest
                     ∧ z.batons = x.batons.set k (if j + x.record.n < x.record.count then .compute else .done))))
    -- R416, R418: a kernel that pushes
    ∧ (∀ t n count k l, ((s.clusterAt cluster).streamCtl.getD i {}).st = .pushing t n count k → i < 32 → s.launchOn cluster = some l →
        ((s.queueRoom cluster n = false ∨ l.st = .preempting) → exec (.kernelPushing cluster i) s = .next s)
        ∧ (s.queueRoom cluster n = true → l.st ≠ .preempting → gives (.kernelPushing cluster i) s fun y => ∃ e,
            (y.queueAt cluster n).entries = (s.queueAt cluster n).entries ++ [e] ∧ e.launch = l.uid
            ∧ e.task.entry = t.entry ∧ e.task.args = t.args.setIfInBounds 3 (BitVec.ofNat 32 k)
            ∧ ((y.clusterAt cluster).streamCtl.getD i {}).st = (if k + 1 = count then .free else .pushing t n count (k + 1))))
    ∧ ((∀ t n count k, ((s.clusterAt cluster).streamCtl.getD i {}).st ≠ .pushing t n count k) → exec (.kernelPushing cluster i) s = .next s)

/-! ## The module -/

/-- R11, R12, R88, R262, R319, R461, R462: failed flits, the failure of the module, the clock, and the resets. That the running
launches' MODFAIL reports carry coordinate zero is the model's choice (log entry 17).
What a reset keeps is log entry 36, what the array test finds log entry 10, one announcement at a time log entry 35. -/
def Obligations.ModuleEvents : Prop :=
  ∀ (s : State) (b hz c k p : Nat),
    let n := s.boundaryFlits.get 0 b
    let running := s.launches.filter fun l => l.st != .queued && l.ending.isNone
    let reports := running.map fun l => ({ launch := l.uid, cause := 0x94, key := 0, slot := 0, addr := 0 } : FatalReport)
    let fails := fun (y : State) (f : Firmware) => ({ y with firmware := { f with failed := true }, fatals := y.fatals ++ reports } : State)
    -- R11
    (4 ≤ b → exec (.flitCrcFail b) s = .next s)
    ∧ (b < 4 → n < 8 → exec (.flitCrcFail b) s = .next { s with boundaryFlits := s.boundaryFlits.put b (n + 1) })
    ∧ (b < 4 → 8 ≤ n → exec (.flitCrcFail b) s
        = .next (fails { s with boundaryFlits := s.boundaryFlits.del b }
            { s.firmware with bfail := s.firmware.bfail ||| BitVec.ofNat 4 (2 ^ b) }))
    -- R462
    ∧ exec .thermalTrip s = .next (fails s { s.firmware with ttrip := true })
    -- R319, R463
    ∧ (∀ i ∈ [Instr.clockLoweringAnnounce hz, .thermalThrottle hz],
        (s.announced = none → 0 < hz → hz < s.clock → exec i s = .next { s with announced := some (hz, s.mtc.toNat + 4096) })
        ∧ ((s.announced ≠ none ∨ hz = 0 ∨ s.clock ≤ hz) → exec i s = .next s))
    ∧ (s.announced = none → exec .clockLoweringApply s = .next s)
    ∧ (∀ t, s.announced = some (hz, t) →
        (s.mtc.toNat < t → exec .clockLoweringApply s = .next s)
        ∧ (t ≤ s.mtc.toNat → exec .clockLoweringApply s = .next { s with clock := min s.clock hz, announced := none }))
    ∧ (s.clock < hz → hz ≤ 2700000000 → exec (.clockRaise hz) s = .next { s with clock := hz })
    ∧ ((hz ≤ s.clock ∨ 2700000000 < hz) → exec (.clockRaise hz) s = .next s)
    -- R262, R459, R461
    ∧ ∀ i ∈ [Instr.moduleReset, .functionLevelReset, .conventionalReset], gives i s fun t =>
        t = { State.reset with
              inputs := s.inputs, choices := s.choices, freeCount := s.freeCount, nextUid := s.nextUid, signals := s.signals
              firmware := { staged := s.firmware.staged, active := s.firmware.staged }
              mem := t.mem, units := t.units }
        ∧ (∀ a, memGet t.mem a = if busKey 0 ≤ a ∧ a < busKey (2 ^ 64) then memGet s.mem a else 0)
        ∧ (s.memOk = true → t.memOk = true)
        ∧ (c < 16 → k < 8 →
            let x := t.unitAt (unitNo c k)
            let old := s.arrAt (unitNo c k)
            let a := x.arr
            let bad := fun (p : Nat) => Config.arrayTestBad (8 * c + k) p
            x = { UnitSt.reset (unitNo c k) with arr := { Arr.reset with
                    retired := a.retired, degraded := a.degraded, applied := a.retired.length } }
            ∧ a.retired.take old.retired.length = old.retired ∧ (old.degraded = true → a.degraded = true)
            ∧ (old.retired.length ≤ 3 → a.retired.length ≤ 3)
            ∧ (p ∈ a.retired → p ∈ old.retired ∨ (p < 132 ∧ bad p = true))
            ∧ (p < 132 → bad p = true → p ∈ a.retired ∨ a.degraded = true)
            ∧ (a.degraded = true → old.degraded = true ∨ (3 ≤ a.retired.length ∧ ∃ q, q < 132 ∧ bad q = true ∧ q ∉ a.retired)))

/-- R6, R12, R142, R461, R462: the module right after reset: it is ready and at rest; the clock is nominal, no launch runs, every
context is FREE with full, zeroed registers; and s0 reads zero in every state and discards writes. The values that the
manual does not give (MTC 0, memory 0, registers 0) are the model's choices (log entries 3 and 4). -/
def Obligations.ResetValues : Prop :=
  let r := State.reset
  r.atRest = true ∧ r.memOk = true ∧ r.clock = 2700000000 ∧ r.firmware = { ready := true } ∧ r.launches = [] ∧ r.sessions = []
  ∧ (r.firmware.failed = false ∧ r.firmware.bfail = 0 ∧ r.firmware.ttrip = false)
  ∧ (∀ n, (r.ring n).en = false ∧ (r.ring n).chead = (r.ring n).ctail)
  ∧ (∀ key, (r.ctxAt key).st = .free ∧ (r.ctxAt key).pend = []
      ∧ (∀ n, n < 32 → (r.ctxAt key).bank.s.getD n 0 = 0 ∧ (r.ctxAt key).bank.full .s n = true ∧ (r.ctxAt key).bank.full .v n = true)
      ∧ ∀ n, n < 16 → (r.ctxAt key).bank.a.getD n 0 = 0 ∧ (r.ctxAt key).bank.full .a n = true)
  ∧ (∀ k, memGet r.mem k = 0)
  ∧ (∀ s : State, s.rdS 0 = 0 ∧ ∀ (b : Bank) (w : Word), b.land (.s 0 w) = b)

/-- R24 to R29, R58, R60, R76, R173: a step runs what stands at its head: an input, else the first turn of the cycle, else the cycle passes. The
turn of a unit whose ISSUING context may issue runs the instructions of the bundle that its code bytes decode to, in slot
order, each as `exec` says, and the bundle completes when the last is done; a bundle whose precheck takes longer first runs S0
and S1 alone. With one slot: its own outcome. An idle bundle
starts its idle run, and code that ends within a bundle is fatal.
The order of turns is log entry 1. -/
def Obligations.StepRunsDecoded : Prop :=
  (∀ (s : State) (i : Instr) (rest : List Instr), s.inputs = i :: rest → step s = exec i { s with inputs := rest })
  ∧ (∀ (s : State) (t : Turn) (ts : List Turn), s.inputs = [] → s.agenda = t :: ts → step s = perform t { s with agenda := ts })
  ∧ (∀ s : State, s.inputs = [] → s.agenda = [] → step s = .next s.tick
      ∧ s.tick.cycle = s.cycle + 1 ∧ s.tick.mem = s.mem ∧ (s.clock = 2700000000 → s.mtcFrac = 0 → s.tick.mtc = s.mtc + 1 ∧ s.tick.mtcFrac = 0))
  ∧ (∀ (i : Instr) (s : State), encode i ≠ none → runSlot i s = exec i s)
  ∧ ∀ (s : State) (u k : Nat) (ts : List Turn) (bs : List Byte),
    let key := 8 * u + k
    let now : State := ({ s with agenda := ts } : State).retest
    let c := now.ctxAt key
    s.inputs = [] → s.agenda = .issue u :: ts → (s.unitAt u).cur = some k → c.st = .issuing → s.unitRuns u = true →
    (∀ w, c.wait = some w → w.why ≠ .fatal) → c.stopAt = none → c.acquireDue = false →
    (s.unitAt u).mayIssue ≤ s.cycle → c.stopDue = false → c.idle = none → c.nextIssue ≤ s.cycle → c.opened = false → c.done = 0 →
    c.faults = [] → now.isDrowsy key = false → s.codeBytes key c.pc = some bs → 8 ≤ bs.length → (c.ignoreB = true ∨ hdrB (s.headerAt key c.pc) = false) →
      (∀ h n, decodeBundle (isCcc (unitOf key)) c.dly bs 0 = .idle h n →
        ∀ t, exec (.idle n) { now.updCtx key fun c => { c with ignoreB := false } with cur := key } = .next t →
          step s = .next (t.idleCycle key))
      ∧ (decodeBundle (isCcc (unitOf key)) c.dly bs 0 = .truncated → step s = .next (now.fatal key 15 0x03))
      ∧ ∀ b, decodeBundle (isCcc (unitOf key)) c.dly bs 0 = .bundle b → (∀ x ∈ b.slots, encode x.2 ≠ none) →
          let at' : State := { now.setCtx key { c with rd := c.bank } with cur := key }
          let (m, w) := at'.precheckLength b.slots
          let goes := w.updCtx key fun y => y.opens b b.slots (w.emptiedBy b.slots) m w.cycle
          (∀ h, at'.issueHold none b.slots = some h → step s = .next (at'.held key (b.hdr.extractLsb' 0 10) h))
          ∧ (at'.issueHold none b.slots = none →
              (m ≤ 1 → step s = State.afterSlots key (runSlots exec key (goes.bundleSlots key) goes))
              ∧ (1 < m → step s = match runSlots exec key (b.slots.filter fun x => x.1 < 2) goes with
                  | .whole t => .next t
                  | r => State.afterSlots key r)
              ∧ ∀ x i, m ≤ 1 → b.slots = [(x, i)] → profileBad (isCcc (unitOf key)) i = false → ∀ t,
                  exec i { goes with cur := key, slot := x, flow := .done } = .next t →
                  let d := t.updCtx key fun y => { y with done := y.done ||| BitVec.ofNat 10 (2 ^ x), wait := none }
                  (t.flow = .done → step s = .next (d.finishBundle key)) ∧ (t.flow = .trapped → step s = .next t))

/-- R35 to R43, R61: slot words written out from the manual's encodings, for each kind of slot, decode to what they stand for; a
V word with the reserved type code 0xE and the M word 0 are refused. -/
def Obligations.WordsDecode : Prop :=
  let f : SFields := { dst := 5, a := 1, b := 2, w := 0, mA := 0, mB := 0, fA := 0, fB := 0, imm := 0 }
  let v : VFields := { vd := 3, va := 1, vb := 2, sc := 0, q := 0, ty := 1, m := 0, fA := 0, fB := 0, imm := 0 }
  decodeSlot (.s 0x065042000000) = .ok (.mul f) ∧ decodeSlot (.s 0x025042000000) = .ok (.add f)
  ∧ decodeSlot (.s 0x6030DEADBEEF) = .ok (.limm { dst := 3, imm := 0xDEADBEEF })
  ∧ decodeSlot (.s 0x8000FFFFFFF8) = .ok (.br { dst := 0, imm := 0xFFFFFFF8 })
  ∧ decodeSlot (.v 0x023088002000) = .ok (.vadd v) ∧ decodeSlot (.v 0x02308801C000) = .error .fldRsv
  ∧ decodeSlot (.f 0x42588680) = .ok (.fconv { dst := 37, src := 34, ty := 1, rnd := 5, q := 0, f := 0, sr := 0 })
  ∧ decodeSlot (.m 0x400C8001) = .ok (.mdrain { acc := 0, row := 3, d := 2, stream := 0, flags := 1 })
  ∧ decodeSlot (.m 0) = .error .opZero
  ∧ decodeSlot (.l 0x2C0880201000) = .ok (.vstb { reg := 1, base := 1, off := 0x20, ty := 1, sbv := 0, sbs := 0, wait := 0 })
  ∧ decodeSlot (.e 0x404108600000) = .ok (.cpyByte { ps := 4, x := 2, y := 1, len := 3, ev := 0 })
  ∧ decodeSlot (.e 0x111000000000) = .ok (.fence { scope := 4, kind := 1, cls := 0 })
  ∧ decodeSlot (.e 0x310100000000) = .ok (.forceRegion { dn := 4 })

/-- R35 to R43, R58, R61: decoding the word of a well-formed instruction gives back that instruction, every operand with it. -/
def Obligations.WordsRoundTrip : Prop :=
  ∀ (i : Instr) (w : SlotWord), i.wf = true → encode i = some w → decodeSlot w = .ok i

/-- R6, R66, R437: a module at rest (no input, no launch, no command, nothing in progress) stays at rest, and nothing but the clocks
and the flits' failed copies changes.
The turns of a cycle are the model's (log entry 1). -/
def Obligations.RestIsKept : Prop :=
  ∀ s t : State, s.atRest = true → step s = .next t → t.atRest = true ∧ s.sameButTime t

/-- Memory: a write leaves every byte outside it, a read gives the bytes; the canonical form is kept, and in it equal contents
are equal lists (the form and the unlisted zero are the model's, log entry 4). -/
def Obligations.MemoryForm : Prop :=
  ∀ (m m' : List Host.Cell) (k n : Nat) (bs : List Byte),
    (∀ a, memGet (memWrite m k bs) a = if k ≤ a ∧ a < k + bs.length then bs.getD (a - k) 0 else memGet m a)
    ∧ (Memory.wf m = true → Memory.wf (memWrite m k bs) = true ∧ Memory.wf (memClear m k n) = true
        ∧ memRead m k n = (List.range n).map (fun i => memGet m (k + i))
        ∧ (∀ a, memGet (memClear m k n) a = if k ≤ a ∧ a < n then 0 else memGet m a)
        ∧ (Memory.wf m' = true → (∀ a, memGet m a = memGet m' a) → m = m'))

/-- No step stops: no instruction of this hardware is left without an effect by the manual, so in every state a step goes on. -/
def Obligations.NoStepStops : Prop :=
  ∀ s : State, ∃ t, step s = .next t
end

