-- ==== Sys2Proof/Laws/Layout.lean ====
section
/-! SUPPORT. Slot layouts read back what they were written with: opcode, fields and fixed bits. -/

set_option linter.unusedSimpArgs false

namespace Sys2Proof.Laws

theorem extract_skip {m n : Nat} (x : BitVec m) (y : BitVec n) (i k : Nat) (h : n ≤ i) :
    (x ++ y).extractLsb' i k = x.extractLsb' (i - n) k := by
  apply BitVec.eq_of_getLsbD_eq
  intro j hj
  simp only [BitVec.getLsbD_extractLsb', BitVec.getLsbD_append]
  rw [if_neg (by omega), show i + j - n = i - n + j by omega]

theorem extract_last {m n : Nat} (x : BitVec m) (y : BitVec n) : (x ++ y).extractLsb' 0 n = y := by
  apply BitVec.eq_of_getLsbD_eq
  intro j hj
  simp [BitVec.getLsbD_append, hj]

theorem extract_all {n : Nat} (y : BitVec n) : y.extractLsb' 0 n = y := by
  apply BitVec.eq_of_getLsbD_eq
  intro j hj
  simp [hj]

theorem unpackS_pack (op : BitVec 7) (f : SFields) : unpackS (packS op f) = f := by
  let w := op ++ f.dst ++ f.a ++ f.b ++ f.w ++ f.mA ++ f.mB ++ f.fA ++ f.fB ++ f.imm
  have h : (⟨w.extractLsb' 36 5, w.extractLsb' 30 6, w.extractLsb' 24 6, w.extractLsb' 22 2, w.extractLsb' 19 3, w.extractLsb' 16 3, w.extractLsb' 15 1, w.extractLsb' 14 1, w.extractLsb' 0 14⟩ : SFields) = f := by
    simp only [w, extract_skip, extract_last, Nat.reduceLeDiff, Nat.reduceSub]
  exact h
theorem opS_pack (op : BitVec 7) (f : SFields) : (packS op f).extractLsb' 41 7 = op := by
  let w := op ++ f.dst ++ f.a ++ f.b ++ f.w ++ f.mA ++ f.mB ++ f.fA ++ f.fB ++ f.imm
  have h : w.extractLsb' 41 7 = op := by
    simp only [w, extract_skip, extract_all, Nat.reduceLeDiff, Nat.reduceSub]
  exact h

theorem unpackSImm_pack (op : BitVec 7) (f : SImm) : unpackSImm (packSImm op f) = f := by
  let w := op ++ f.dst ++ 0#4 ++ f.imm
  have h : (⟨w.extractLsb' 36 5, w.extractLsb' 0 32⟩ : SImm) = f := by
    simp only [w, extract_skip, extract_last, Nat.reduceLeDiff, Nat.reduceSub]
  exact h
theorem opSImm_pack (op : BitVec 7) (f : SImm) : (packSImm op f).extractLsb' 41 7 = op := by
  let w := op ++ f.dst ++ 0#4 ++ f.imm
  have h : w.extractLsb' 41 7 = op := by
    simp only [w, extract_skip, extract_all, Nat.reduceLeDiff, Nat.reduceSub]
  exact h
theorem fixedSImm_pack (op : BitVec 7) (f : SImm) : fixedSImm (packSImm op f) = true := by
  let w := op ++ f.dst ++ 0#4 ++ f.imm
  have h0 : w.extractLsb' 32 4 = 0 := by
    first
      | (simp only [w, extract_skip, extract_last, Nat.reduceLeDiff, Nat.reduceSub]; done)
      | (simp only [w, extract_skip, extract_last, Nat.reduceLeDiff, Nat.reduceSub]; rfl)
      | (apply BitVec.eq_of_getLsbD_eq
         intro i hi
         simp only [w, BitVec.getLsbD_extractLsb', BitVec.getLsbD_append, Nat.zero_add, hi, decide_true, Bool.true_and]
         repeat' split
         all_goals first | omega | simp)
  simp only [fixedSImm, beq_iff_eq, Bool.and_eq_true]
  exact h0

theorem unpackV_pack (op : BitVec 7) (f : VFields) : unpackV (packV op f) = f := by
  let w := op ++ f.vd ++ f.va ++ f.vb ++ f.sc ++ f.q ++ f.ty ++ f.m ++ f.fA ++ f.fB ++ f.imm
  have h : (⟨w.extractLsb' 36 5, w.extractLsb' 31 5, w.extractLsb' 26 5, w.extractLsb' 20 6, w.extractLsb' 17 3, w.extractLsb' 13 4, w.extractLsb' 10 3, w.extractLsb' 9 1, w.extractLsb' 8 1, w.extractLsb' 0 8⟩ : VFields) = f := by
    simp only [w, extract_skip, extract_last, Nat.reduceLeDiff, Nat.reduceSub]
  exact h
theorem opV_pack (op : BitVec 7) (f : VFields) : (packV op f).extractLsb' 41 7 = op := by
  let w := op ++ f.vd ++ f.va ++ f.vb ++ f.sc ++ f.q ++ f.ty ++ f.m ++ f.fA ++ f.fB ++ f.imm
  have h : w.extractLsb' 41 7 = op := by
    simp only [w, extract_skip, extract_all, Nat.reduceLeDiff, Nat.reduceSub]
  exact h

theorem unpackF_pack (op : BitVec 6) (f : FFields) : unpackF (packF op f) = f := by
  let w := op ++ f.dst ++ f.src ++ f.ty ++ f.rnd ++ f.q ++ f.f ++ f.sr ++ 0#2
  have h : (⟨w.extractLsb' 20 6, w.extractLsb' 14 6, w.extractLsb' 10 4, w.extractLsb' 7 3, w.extractLsb' 4 3, w.extractLsb' 3 1, w.extractLsb' 2 1⟩ : FFields) = f := by
    simp only [w, extract_skip, extract_last, Nat.reduceLeDiff, Nat.reduceSub]
  exact h
theorem opF_pack (op : BitVec 6) (f : FFields) : (packF op f).extractLsb' 26 6 = op := by
  let w := op ++ f.dst ++ f.src ++ f.ty ++ f.rnd ++ f.q ++ f.f ++ f.sr ++ 0#2
  have h : w.extractLsb' 26 6 = op := by
    simp only [w, extract_skip, extract_all, Nat.reduceLeDiff, Nat.reduceSub]
  exact h
theorem fixedF_pack (op : BitVec 6) (f : FFields) : fixedF (packF op f) = true := by
  let w := op ++ f.dst ++ f.src ++ f.ty ++ f.rnd ++ f.q ++ f.f ++ f.sr ++ 0#2
  have h0 : w.extractLsb' 0 2 = 0 := by
    first
      | (simp only [w, extract_skip, extract_last, Nat.reduceLeDiff, Nat.reduceSub]; done)
      | (simp only [w, extract_skip, extract_last, Nat.reduceLeDiff, Nat.reduceSub]; rfl)
      | (apply BitVec.eq_of_getLsbD_eq
         intro i hi
         simp only [w, BitVec.getLsbD_extractLsb', BitVec.getLsbD_append, Nat.zero_add, hi, decide_true, Bool.true_and]
         repeat' split
         all_goals first | omega | simp)
  simp only [fixedF, beq_iff_eq, Bool.and_eq_true]
  exact h0

theorem unpackM_pack (op : BitVec 4) (f : MFields) : unpackM (packM op f) = f := by
  let w := op ++ f.acc ++ f.row ++ f.d ++ f.stream ++ f.flags
  have h : (⟨w.extractLsb' 25 3, w.extractLsb' 18 7, w.extractLsb' 14 4, w.extractLsb' 10 4, w.extractLsb' 0 10⟩ : MFields) = f := by
    simp only [w, extract_skip, extract_last, Nat.reduceLeDiff, Nat.reduceSub]
  exact h
theorem opM_pack (op : BitVec 4) (f : MFields) : (packM op f).extractLsb' 28 4 = op := by
  let w := op ++ f.acc ++ f.row ++ f.d ++ f.stream ++ f.flags
  have h : w.extractLsb' 28 4 = op := by
    simp only [w, extract_skip, extract_all, Nat.reduceLeDiff, Nat.reduceSub]
  exact h

theorem unpackL_pack (op : BitVec 7) (f : LFields) : unpackL (packL op f) = f := by
  let w := op ++ f.reg ++ f.base ++ f.off ++ f.ty ++ f.sbv ++ f.sbs ++ f.wait
  have h : (⟨w.extractLsb' 35 6, w.extractLsb' 31 4, w.extractLsb' 16 15, w.extractLsb' 12 4, w.extractLsb' 11 1, w.extractLsb' 8 3, w.extractLsb' 0 8⟩ : LFields) = f := by
    simp only [w, extract_skip, extract_last, Nat.reduceLeDiff, Nat.reduceSub]
  exact h
theorem opL_pack (op : BitVec 7) (f : LFields) : (packL op f).extractLsb' 41 7 = op := by
  let w := op ++ f.reg ++ f.base ++ f.off ++ f.ty ++ f.sbv ++ f.sbs ++ f.wait
  have h : w.extractLsb' 41 7 = op := by
    simp only [w, extract_skip, extract_all, Nat.reduceLeDiff, Nat.reduceSub]
  exact h

theorem unpackDescMem_pack (op : BitVec 7) (f : DescMem) : unpackDescMem (packDescMem op f) = f := by
  let w := op ++ f.dn ++ f.am ++ f.off ++ 0#18
  have h : (⟨w.extractLsb' 37 4, w.extractLsb' 33 4, w.extractLsb' 18 15⟩ : DescMem) = f := by
    simp only [w, extract_skip, extract_last, Nat.reduceLeDiff, Nat.reduceSub]
  exact h
theorem opDescMem_pack (op : BitVec 7) (f : DescMem) : (packDescMem op f).extractLsb' 41 7 = op := by
  let w := op ++ f.dn ++ f.am ++ f.off ++ 0#18
  have h : w.extractLsb' 41 7 = op := by
    simp only [w, extract_skip, extract_all, Nat.reduceLeDiff, Nat.reduceSub]
  exact h
theorem fixedDescMem_pack (op : BitVec 7) (f : DescMem) : fixedDescMem (packDescMem op f) = true := by
  let w := op ++ f.dn ++ f.am ++ f.off ++ 0#18
  have h0 : w.extractLsb' 0 18 = 0 := by
    first
      | (simp only [w, extract_skip, extract_last, Nat.reduceLeDiff, Nat.reduceSub]; done)
      | (simp only [w, extract_skip, extract_last, Nat.reduceLeDiff, Nat.reduceSub]; rfl)
      | (apply BitVec.eq_of_getLsbD_eq
         intro i hi
         simp only [w, BitVec.getLsbD_extractLsb', BitVec.getLsbD_append, Nat.zero_add, hi, decide_true, Bool.true_and]
         repeat' split
         all_goals first | omega | simp)
  simp only [fixedDescMem, beq_iff_eq, Bool.and_eq_true]
  exact h0

theorem unpackDSetS_pack (op : BitVec 7) (f : DSetS) : unpackDSetS (packDSetS op f) = f := by
  let w := op ++ f.dn ++ f.w ++ 0#1 ++ f.sp ++ 0#26
  have h : (⟨w.extractLsb' 37 4, w.extractLsb' 33 4, w.extractLsb' 26 6⟩ : DSetS) = f := by
    simp only [w, extract_skip, extract_last, Nat.reduceLeDiff, Nat.reduceSub]
  exact h
theorem opDSetS_pack (op : BitVec 7) (f : DSetS) : (packDSetS op f).extractLsb' 41 7 = op := by
  let w := op ++ f.dn ++ f.w ++ 0#1 ++ f.sp ++ 0#26
  have h : w.extractLsb' 41 7 = op := by
    simp only [w, extract_skip, extract_all, Nat.reduceLeDiff, Nat.reduceSub]
  exact h
theorem fixedDSetS_pack (op : BitVec 7) (f : DSetS) : fixedDSetS (packDSetS op f) = true := by
  let w := op ++ f.dn ++ f.w ++ 0#1 ++ f.sp ++ 0#26
  have h0 : w.extractLsb' 32 1 = 0 := by
    first
      | (simp only [w, extract_skip, extract_last, Nat.reduceLeDiff, Nat.reduceSub]; done)
      | (simp only [w, extract_skip, extract_last, Nat.reduceLeDiff, Nat.reduceSub]; rfl)
      | (apply BitVec.eq_of_getLsbD_eq
         intro i hi
         simp only [w, BitVec.getLsbD_extractLsb', BitVec.getLsbD_append, Nat.zero_add, hi, decide_true, Bool.true_and]
         repeat' split
         all_goals first | omega | simp)
  have h1 : w.extractLsb' 0 26 = 0 := by
    first
      | (simp only [w, extract_skip, extract_last, Nat.reduceLeDiff, Nat.reduceSub]; done)
      | (simp only [w, extract_skip, extract_last, Nat.reduceLeDiff, Nat.reduceSub]; rfl)
      | (apply BitVec.eq_of_getLsbD_eq
         intro i hi
         simp only [w, BitVec.getLsbD_extractLsb', BitVec.getLsbD_append, Nat.zero_add, hi, decide_true, Bool.true_and]
         repeat' split
         all_goals first | omega | simp)
  simp only [fixedDSetS, beq_iff_eq, Bool.and_eq_true]
  exact ⟨h0, h1⟩

theorem unpackDSetA_pack (op : BitVec 7) (f : DSetA) : unpackDSetA (packDSetA op f) = f := by
  let w := op ++ f.dn ++ f.w ++ 1#1 ++ 0#2 ++ f.am ++ 0#26
  have h : (⟨w.extractLsb' 37 4, w.extractLsb' 33 4, w.extractLsb' 26 4⟩ : DSetA) = f := by
    simp only [w, extract_skip, extract_last, Nat.reduceLeDiff, Nat.reduceSub]
  exact h
theorem opDSetA_pack (op : BitVec 7) (f : DSetA) : (packDSetA op f).extractLsb' 41 7 = op := by
  let w := op ++ f.dn ++ f.w ++ 1#1 ++ 0#2 ++ f.am ++ 0#26
  have h : w.extractLsb' 41 7 = op := by
    simp only [w, extract_skip, extract_all, Nat.reduceLeDiff, Nat.reduceSub]
  exact h
theorem fixedDSetA_pack (op : BitVec 7) (f : DSetA) : fixedDSetA (packDSetA op f) = true := by
  let w := op ++ f.dn ++ f.w ++ 1#1 ++ 0#2 ++ f.am ++ 0#26
  have h0 : w.extractLsb' 32 1 = 1 := by
    first
      | (simp only [w, extract_skip, extract_last, Nat.reduceLeDiff, Nat.reduceSub]; done)
      | (simp only [w, extract_skip, extract_last, Nat.reduceLeDiff, Nat.reduceSub]; rfl)
      | (apply BitVec.eq_of_getLsbD_eq
         intro i hi
         simp only [w, BitVec.getLsbD_extractLsb', BitVec.getLsbD_append, Nat.zero_add, hi, decide_true, Bool.true_and]
         repeat' split
         all_goals first | omega | simp)
  have h1 : w.extractLsb' 30 2 = 0 := by
    first
      | (simp only [w, extract_skip, extract_last, Nat.reduceLeDiff, Nat.reduceSub]; done)
      | (simp only [w, extract_skip, extract_last, Nat.reduceLeDiff, Nat.reduceSub]; rfl)
      | (apply BitVec.eq_of_getLsbD_eq
         intro i hi
         simp only [w, BitVec.getLsbD_extractLsb', BitVec.getLsbD_append, Nat.zero_add, hi, decide_true, Bool.true_and]
         repeat' split
         all_goals first | omega | simp)
  have h2 : w.extractLsb' 0 26 = 0 := by
    first
      | (simp only [w, extract_skip, extract_last, Nat.reduceLeDiff, Nat.reduceSub]; done)
      | (simp only [w, extract_skip, extract_last, Nat.reduceLeDiff, Nat.reduceSub]; rfl)
      | (apply BitVec.eq_of_getLsbD_eq
         intro i hi
         simp only [w, BitVec.getLsbD_extractLsb', BitVec.getLsbD_append, Nat.zero_add, hi, decide_true, Bool.true_and]
         repeat' split
         all_goals first | omega | simp)
  simp only [fixedDSetA, beq_iff_eq, Bool.and_eq_true]
  exact ⟨⟨h0, h1⟩, h2⟩

theorem unpackDGet_pack (op : BitVec 7) (f : DGetF) : unpackDGet (packDGet op f) = f := by
  let w := op ++ f.sd ++ f.dn ++ f.w ++ 0#28
  have h : (⟨w.extractLsb' 36 5, w.extractLsb' 32 4, w.extractLsb' 28 4⟩ : DGetF) = f := by
    simp only [w, extract_skip, extract_last, Nat.reduceLeDiff, Nat.reduceSub]
  exact h
theorem opDGet_pack (op : BitVec 7) (f : DGetF) : (packDGet op f).extractLsb' 41 7 = op := by
  let w := op ++ f.sd ++ f.dn ++ f.w ++ 0#28
  have h : w.extractLsb' 41 7 = op := by
    simp only [w, extract_skip, extract_all, Nat.reduceLeDiff, Nat.reduceSub]
  exact h
theorem fixedDGet_pack (op : BitVec 7) (f : DGetF) : fixedDGet (packDGet op f) = true := by
  let w := op ++ f.sd ++ f.dn ++ f.w ++ 0#28
  have h0 : w.extractLsb' 0 28 = 0 := by
    first
      | (simp only [w, extract_skip, extract_last, Nat.reduceLeDiff, Nat.reduceSub]; done)
      | (simp only [w, extract_skip, extract_last, Nat.reduceLeDiff, Nat.reduceSub]; rfl)
      | (apply BitVec.eq_of_getLsbD_eq
         intro i hi
         simp only [w, BitVec.getLsbD_extractLsb', BitVec.getLsbD_append, Nat.zero_add, hi, decide_true, Bool.true_and]
         repeat' split
         all_goals first | omega | simp)
  simp only [fixedDGet, beq_iff_eq, Bool.and_eq_true]
  exact h0

theorem unpackFence_pack (op : BitVec 7) (f : FenceF) : unpackFence (packFence op f) = f := by
  let w := op ++ f.scope ++ f.kind ++ f.cls ++ 0#30
  have h : (⟨w.extractLsb' 38 3, w.extractLsb' 36 2, w.extractLsb' 30 6⟩ : FenceF) = f := by
    simp only [w, extract_skip, extract_last, Nat.reduceLeDiff, Nat.reduceSub]
  exact h
theorem opFence_pack (op : BitVec 7) (f : FenceF) : (packFence op f).extractLsb' 41 7 = op := by
  let w := op ++ f.scope ++ f.kind ++ f.cls ++ 0#30
  have h : w.extractLsb' 41 7 = op := by
    simp only [w, extract_skip, extract_all, Nat.reduceLeDiff, Nat.reduceSub]
  exact h
theorem fixedFence_pack (op : BitVec 7) (f : FenceF) : fixedFence (packFence op f) = true := by
  let w := op ++ f.scope ++ f.kind ++ f.cls ++ 0#30
  have h0 : w.extractLsb' 0 30 = 0 := by
    first
      | (simp only [w, extract_skip, extract_last, Nat.reduceLeDiff, Nat.reduceSub]; done)
      | (simp only [w, extract_skip, extract_last, Nat.reduceLeDiff, Nat.reduceSub]; rfl)
      | (apply BitVec.eq_of_getLsbD_eq
         intro i hi
         simp only [w, BitVec.getLsbD_extractLsb', BitVec.getLsbD_append, Nat.zero_add, hi, decide_true, Bool.true_and]
         repeat' split
         all_goals first | omega | simp)
  simp only [fixedFence, beq_iff_eq, Bool.and_eq_true]
  exact h0

theorem unpackWaitTl_pack (op : BitVec 7) (f : WaitTlF) : unpackWaitTl (packWaitTl op f) = f := by
  let w := op ++ f.scope ++ f.cls ++ f.all ++ f.target ++ 0#28
  have h : (⟨w.extractLsb' 38 3, w.extractLsb' 35 3, w.extractLsb' 34 1, w.extractLsb' 28 6⟩ : WaitTlF) = f := by
    simp only [w, extract_skip, extract_last, Nat.reduceLeDiff, Nat.reduceSub]
  exact h
theorem opWaitTl_pack (op : BitVec 7) (f : WaitTlF) : (packWaitTl op f).extractLsb' 41 7 = op := by
  let w := op ++ f.scope ++ f.cls ++ f.all ++ f.target ++ 0#28
  have h : w.extractLsb' 41 7 = op := by
    simp only [w, extract_skip, extract_all, Nat.reduceLeDiff, Nat.reduceSub]
  exact h
theorem fixedWaitTl_pack (op : BitVec 7) (f : WaitTlF) : fixedWaitTl (packWaitTl op f) = true := by
  let w := op ++ f.scope ++ f.cls ++ f.all ++ f.target ++ 0#28
  have h0 : w.extractLsb' 0 28 = 0 := by
    first
      | (simp only [w, extract_skip, extract_last, Nat.reduceLeDiff, Nat.reduceSub]; done)
      | (simp only [w, extract_skip, extract_last, Nat.reduceLeDiff, Nat.reduceSub]; rfl)
      | (apply BitVec.eq_of_getLsbD_eq
         intro i hi
         simp only [w, BitVec.getLsbD_extractLsb', BitVec.getLsbD_append, Nat.zero_add, hi, decide_true, Bool.true_and]
         repeat' split
         all_goals first | omega | simp)
  simp only [fixedWaitTl, beq_iff_eq, Bool.and_eq_true]
  exact h0

theorem unpackTlRead_pack (op : BitVec 7) (f : TlReadF) : unpackTlRead (packTlRead op f) = f := by
  let w := op ++ f.dst ++ f.cls ++ f.sel ++ 0#31
  have h : (⟨w.extractLsb' 36 5, w.extractLsb' 33 3, w.extractLsb' 31 2⟩ : TlReadF) = f := by
    simp only [w, extract_skip, extract_last, Nat.reduceLeDiff, Nat.reduceSub]
  exact h
theorem opTlRead_pack (op : BitVec 7) (f : TlReadF) : (packTlRead op f).extractLsb' 41 7 = op := by
  let w := op ++ f.dst ++ f.cls ++ f.sel ++ 0#31
  have h : w.extractLsb' 41 7 = op := by
    simp only [w, extract_skip, extract_all, Nat.reduceLeDiff, Nat.reduceSub]
  exact h
theorem fixedTlRead_pack (op : BitVec 7) (f : TlReadF) : fixedTlRead (packTlRead op f) = true := by
  let w := op ++ f.dst ++ f.cls ++ f.sel ++ 0#31
  have h0 : w.extractLsb' 0 31 = 0 := by
    first
      | (simp only [w, extract_skip, extract_last, Nat.reduceLeDiff, Nat.reduceSub]; done)
      | (simp only [w, extract_skip, extract_last, Nat.reduceLeDiff, Nat.reduceSub]; rfl)
      | (apply BitVec.eq_of_getLsbD_eq
         intro i hi
         simp only [w, BitVec.getLsbD_extractLsb', BitVec.getLsbD_append, Nat.zero_add, hi, decide_true, Bool.true_and]
         repeat' split
         all_goals first | omega | simp)
  simp only [fixedTlRead, beq_iff_eq, Bool.and_eq_true]
  exact h0

theorem unpackTile_pack (op : BitVec 7) (f : TileF) : unpackTile (packTile op f) = f := by
  let w := op ++ f.hd ++ f.dD ++ f.dA ++ f.dB ++ f.stream ++ f.p ++ f.ctl
  have h : (⟨w.extractLsb' 36 5, w.extractLsb' 32 4, w.extractLsb' 28 4, w.extractLsb' 24 4, w.extractLsb' 20 4, w.extractLsb' 14 6, w.extractLsb' 0 14⟩ : TileF) = f := by
    simp only [w, extract_skip, extract_last, Nat.reduceLeDiff, Nat.reduceSub]
  exact h
theorem opTile_pack (op : BitVec 7) (f : TileF) : (packTile op f).extractLsb' 41 7 = op := by
  let w := op ++ f.hd ++ f.dD ++ f.dA ++ f.dB ++ f.stream ++ f.p ++ f.ctl
  have h : w.extractLsb' 41 7 = op := by
    simp only [w, extract_skip, extract_all, Nat.reduceLeDiff, Nat.reduceSub]
  exact h

theorem unpackForceH_pack (op : BitVec 7) (f : SpecF) : unpackForceH (packForceH op f) = f := by
  let w := op ++ 0#1 ++ f.h ++ 0#4 ++ 0#30
  have h : (⟨w.extractLsb' 34 6⟩ : SpecF) = f := by
    simp only [w, extract_skip, extract_last, Nat.reduceLeDiff, Nat.reduceSub]
  exact h
theorem opForceH_pack (op : BitVec 7) (f : SpecF) : (packForceH op f).extractLsb' 41 7 = op := by
  let w := op ++ 0#1 ++ f.h ++ 0#4 ++ 0#30
  have h : w.extractLsb' 41 7 = op := by
    simp only [w, extract_skip, extract_all, Nat.reduceLeDiff, Nat.reduceSub]
  exact h
theorem fixedForceH_pack (op : BitVec 7) (f : SpecF) : fixedForceH (packForceH op f) = true := by
  let w := op ++ 0#1 ++ f.h ++ 0#4 ++ 0#30
  have h0 : w.extractLsb' 40 1 = 0 := by
    first
      | (simp only [w, extract_skip, extract_last, Nat.reduceLeDiff, Nat.reduceSub]; done)
      | (simp only [w, extract_skip, extract_last, Nat.reduceLeDiff, Nat.reduceSub]; rfl)
      | (apply BitVec.eq_of_getLsbD_eq
         intro i hi
         simp only [w, BitVec.getLsbD_extractLsb', BitVec.getLsbD_append, Nat.zero_add, hi, decide_true, Bool.true_and]
         repeat' split
         all_goals first | omega | simp)
  have h1 : w.extractLsb' 0 34 = 0 := by
    first
      | (simp only [w, extract_skip, extract_last, Nat.reduceLeDiff, Nat.reduceSub]; done)
      | (simp only [w, extract_skip, extract_last, Nat.reduceLeDiff, Nat.reduceSub]; rfl)
      | (apply BitVec.eq_of_getLsbD_eq
         intro i hi
         simp only [w, BitVec.getLsbD_extractLsb', BitVec.getLsbD_append, Nat.zero_add, hi, decide_true, Bool.true_and]
         repeat' split
         all_goals first | omega | simp)
  simp only [fixedForceH, beq_iff_eq, Bool.and_eq_true]
  exact ⟨h0, h1⟩

theorem unpackForceR_pack (op : BitVec 7) (f : DescF) : unpackForceR (packForceR op f) = f := by
  let w := op ++ 1#1 ++ 0#6 ++ f.dn ++ 0#30
  have h : (⟨w.extractLsb' 30 4⟩ : DescF) = f := by
    simp only [w, extract_skip, extract_last, Nat.reduceLeDiff, Nat.reduceSub]
  exact h
theorem opForceR_pack (op : BitVec 7) (f : DescF) : (packForceR op f).extractLsb' 41 7 = op := by
  let w := op ++ 1#1 ++ 0#6 ++ f.dn ++ 0#30
  have h : w.extractLsb' 41 7 = op := by
    simp only [w, extract_skip, extract_all, Nat.reduceLeDiff, Nat.reduceSub]
  exact h
theorem fixedForceR_pack (op : BitVec 7) (f : DescF) : fixedForceR (packForceR op f) = true := by
  let w := op ++ 1#1 ++ 0#6 ++ f.dn ++ 0#30
  have h0 : w.extractLsb' 40 1 = 1 := by
    first
      | (simp only [w, extract_skip, extract_last, Nat.reduceLeDiff, Nat.reduceSub]; done)
      | (simp only [w, extract_skip, extract_last, Nat.reduceLeDiff, Nat.reduceSub]; rfl)
      | (apply BitVec.eq_of_getLsbD_eq
         intro i hi
         simp only [w, BitVec.getLsbD_extractLsb', BitVec.getLsbD_append, Nat.zero_add, hi, decide_true, Bool.true_and]
         repeat' split
         all_goals first | omega | simp)
  have h1 : w.extractLsb' 34 6 = 0 := by
    first
      | (simp only [w, extract_skip, extract_last, Nat.reduceLeDiff, Nat.reduceSub]; done)
      | (simp only [w, extract_skip, extract_last, Nat.reduceLeDiff, Nat.reduceSub]; rfl)
      | (apply BitVec.eq_of_getLsbD_eq
         intro i hi
         simp only [w, BitVec.getLsbD_extractLsb', BitVec.getLsbD_append, Nat.zero_add, hi, decide_true, Bool.true_and]
         repeat' split
         all_goals first | omega | simp)
  have h2 : w.extractLsb' 0 30 = 0 := by
    first
      | (simp only [w, extract_skip, extract_last, Nat.reduceLeDiff, Nat.reduceSub]; done)
      | (simp only [w, extract_skip, extract_last, Nat.reduceLeDiff, Nat.reduceSub]; rfl)
      | (apply BitVec.eq_of_getLsbD_eq
         intro i hi
         simp only [w, BitVec.getLsbD_extractLsb', BitVec.getLsbD_append, Nat.zero_add, hi, decide_true, Bool.true_and]
         repeat' split
         all_goals first | omega | simp)
  simp only [fixedForceR, beq_iff_eq, Bool.and_eq_true]
  exact ⟨⟨h0, h1⟩, h2⟩

theorem unpackTStore_pack (op : BitVec 7) (f : TStoreF) : unpackTStore (packTStore op f) = f := by
  let w := op ++ 0#5 ++ f.dD ++ f.dA ++ 0#28
  have h : (⟨w.extractLsb' 32 4, w.extractLsb' 28 4⟩ : TStoreF) = f := by
    simp only [w, extract_skip, extract_last, Nat.reduceLeDiff, Nat.reduceSub]
  exact h
theorem opTStore_pack (op : BitVec 7) (f : TStoreF) : (packTStore op f).extractLsb' 41 7 = op := by
  let w := op ++ 0#5 ++ f.dD ++ f.dA ++ 0#28
  have h : w.extractLsb' 41 7 = op := by
    simp only [w, extract_skip, extract_all, Nat.reduceLeDiff, Nat.reduceSub]
  exact h
theorem fixedTStore_pack (op : BitVec 7) (f : TStoreF) : fixedTStore (packTStore op f) = true := by
  let w := op ++ 0#5 ++ f.dD ++ f.dA ++ 0#28
  have h0 : w.extractLsb' 36 5 = 0 := by
    first
      | (simp only [w, extract_skip, extract_last, Nat.reduceLeDiff, Nat.reduceSub]; done)
      | (simp only [w, extract_skip, extract_last, Nat.reduceLeDiff, Nat.reduceSub]; rfl)
      | (apply BitVec.eq_of_getLsbD_eq
         intro i hi
         simp only [w, BitVec.getLsbD_extractLsb', BitVec.getLsbD_append, Nat.zero_add, hi, decide_true, Bool.true_and]
         repeat' split
         all_goals first | omega | simp)
  have h1 : w.extractLsb' 0 28 = 0 := by
    first
      | (simp only [w, extract_skip, extract_last, Nat.reduceLeDiff, Nat.reduceSub]; done)
      | (simp only [w, extract_skip, extract_last, Nat.reduceLeDiff, Nat.reduceSub]; rfl)
      | (apply BitVec.eq_of_getLsbD_eq
         intro i hi
         simp only [w, BitVec.getLsbD_extractLsb', BitVec.getLsbD_append, Nat.zero_add, hi, decide_true, Bool.true_and]
         repeat' split
         all_goals first | omega | simp)
  simp only [fixedTStore, beq_iff_eq, Bool.and_eq_true]
  exact ⟨h0, h1⟩

theorem unpackTDrop_pack (op : BitVec 7) (f : SpecF) : unpackTDrop (packTDrop op f) = f := by
  let w := op ++ f.h ++ 0#35
  have h : (⟨w.extractLsb' 35 6⟩ : SpecF) = f := by
    simp only [w, extract_skip, extract_last, Nat.reduceLeDiff, Nat.reduceSub]
  exact h
theorem opTDrop_pack (op : BitVec 7) (f : SpecF) : (packTDrop op f).extractLsb' 41 7 = op := by
  let w := op ++ f.h ++ 0#35
  have h : w.extractLsb' 41 7 = op := by
    simp only [w, extract_skip, extract_all, Nat.reduceLeDiff, Nat.reduceSub]
  exact h
theorem fixedTDrop_pack (op : BitVec 7) (f : SpecF) : fixedTDrop (packTDrop op f) = true := by
  let w := op ++ f.h ++ 0#35
  have h0 : w.extractLsb' 0 35 = 0 := by
    first
      | (simp only [w, extract_skip, extract_last, Nat.reduceLeDiff, Nat.reduceSub]; done)
      | (simp only [w, extract_skip, extract_last, Nat.reduceLeDiff, Nat.reduceSub]; rfl)
      | (apply BitVec.eq_of_getLsbD_eq
         intro i hi
         simp only [w, BitVec.getLsbD_extractLsb', BitVec.getLsbD_append, Nat.zero_add, hi, decide_true, Bool.true_and]
         repeat' split
         all_goals first | omega | simp)
  simp only [fixedTDrop, beq_iff_eq, Bool.and_eq_true]
  exact h0

theorem unpackTStatN_pack (op : BitVec 7) (f : DstSpec) : unpackTStatN (packTStatN op f) = f := by
  let w := op ++ f.sd ++ f.h ++ 0#2 ++ 0#4 ++ 0#24
  have h : (⟨w.extractLsb' 36 5, w.extractLsb' 30 6⟩ : DstSpec) = f := by
    simp only [w, extract_skip, extract_last, Nat.reduceLeDiff, Nat.reduceSub]
  exact h
theorem opTStatN_pack (op : BitVec 7) (f : DstSpec) : (packTStatN op f).extractLsb' 41 7 = op := by
  let w := op ++ f.sd ++ f.h ++ 0#2 ++ 0#4 ++ 0#24
  have h : w.extractLsb' 41 7 = op := by
    simp only [w, extract_skip, extract_all, Nat.reduceLeDiff, Nat.reduceSub]
  exact h
theorem fixedTStatN_pack (op : BitVec 7) (f : DstSpec) : fixedTStatN (packTStatN op f) = true := by
  let w := op ++ f.sd ++ f.h ++ 0#2 ++ 0#4 ++ 0#24
  have h0 : w.extractLsb' 0 30 = 0 := by
    first
      | (simp only [w, extract_skip, extract_last, Nat.reduceLeDiff, Nat.reduceSub]; done)
      | (simp only [w, extract_skip, extract_last, Nat.reduceLeDiff, Nat.reduceSub]; rfl)
      | (apply BitVec.eq_of_getLsbD_eq
         intro i hi
         simp only [w, BitVec.getLsbD_extractLsb', BitVec.getLsbD_append, Nat.zero_add, hi, decide_true, Bool.true_and]
         repeat' split
         all_goals first | omega | simp)
  simp only [fixedTStatN, beq_iff_eq, Bool.and_eq_true]
  exact h0

theorem unpackTStatT_pack (op : BitVec 7) (f : DstOnly) : unpackTStatT (packTStatT op f) = f := by
  let w := op ++ f.sd ++ 0#6 ++ 1#2 ++ 0#4 ++ 0#24
  have h : (⟨w.extractLsb' 36 5⟩ : DstOnly) = f := by
    simp only [w, extract_skip, extract_last, Nat.reduceLeDiff, Nat.reduceSub]
  exact h
theorem opTStatT_pack (op : BitVec 7) (f : DstOnly) : (packTStatT op f).extractLsb' 41 7 = op := by
  let w := op ++ f.sd ++ 0#6 ++ 1#2 ++ 0#4 ++ 0#24
  have h : w.extractLsb' 41 7 = op := by
    simp only [w, extract_skip, extract_all, Nat.reduceLeDiff, Nat.reduceSub]
  exact h
theorem fixedTStatT_pack (op : BitVec 7) (f : DstOnly) : fixedTStatT (packTStatT op f) = true := by
  let w := op ++ f.sd ++ 0#6 ++ 1#2 ++ 0#4 ++ 0#24
  have h0 : w.extractLsb' 30 6 = 0 := by
    first
      | (simp only [w, extract_skip, extract_last, Nat.reduceLeDiff, Nat.reduceSub]; done)
      | (simp only [w, extract_skip, extract_last, Nat.reduceLeDiff, Nat.reduceSub]; rfl)
      | (apply BitVec.eq_of_getLsbD_eq
         intro i hi
         simp only [w, BitVec.getLsbD_extractLsb', BitVec.getLsbD_append, Nat.zero_add, hi, decide_true, Bool.true_and]
         repeat' split
         all_goals first | omega | simp)
  have h1 : w.extractLsb' 28 2 = 1 := by
    first
      | (simp only [w, extract_skip, extract_last, Nat.reduceLeDiff, Nat.reduceSub]; done)
      | (simp only [w, extract_skip, extract_last, Nat.reduceLeDiff, Nat.reduceSub]; rfl)
      | (apply BitVec.eq_of_getLsbD_eq
         intro i hi
         simp only [w, BitVec.getLsbD_extractLsb', BitVec.getLsbD_append, Nat.zero_add, hi, decide_true, Bool.true_and]
         repeat' split
         all_goals first | omega | simp)
  have h2 : w.extractLsb' 0 28 = 0 := by
    first
      | (simp only [w, extract_skip, extract_last, Nat.reduceLeDiff, Nat.reduceSub]; done)
      | (simp only [w, extract_skip, extract_last, Nat.reduceLeDiff, Nat.reduceSub]; rfl)
      | (apply BitVec.eq_of_getLsbD_eq
         intro i hi
         simp only [w, BitVec.getLsbD_extractLsb', BitVec.getLsbD_append, Nat.zero_add, hi, decide_true, Bool.true_and]
         repeat' split
         all_goals first | omega | simp)
  simp only [fixedTStatT, beq_iff_eq, Bool.and_eq_true]
  exact ⟨⟨h0, h1⟩, h2⟩

theorem unpackTStatD_pack (op : BitVec 7) (f : DstWord) : unpackTStatD (packTStatD op f) = f := by
  let w := op ++ f.sd ++ 0#6 ++ 2#2 ++ f.w ++ 0#24
  have h : (⟨w.extractLsb' 36 5, w.extractLsb' 24 4⟩ : DstWord) = f := by
    simp only [w, extract_skip, extract_last, Nat.reduceLeDiff, Nat.reduceSub]
  exact h
theorem opTStatD_pack (op : BitVec 7) (f : DstWord) : (packTStatD op f).extractLsb' 41 7 = op := by
  let w := op ++ f.sd ++ 0#6 ++ 2#2 ++ f.w ++ 0#24
  have h : w.extractLsb' 41 7 = op := by
    simp only [w, extract_skip, extract_all, Nat.reduceLeDiff, Nat.reduceSub]
  exact h
theorem fixedTStatD_pack (op : BitVec 7) (f : DstWord) : fixedTStatD (packTStatD op f) = true := by
  let w := op ++ f.sd ++ 0#6 ++ 2#2 ++ f.w ++ 0#24
  have h0 : w.extractLsb' 30 6 = 0 := by
    first
      | (simp only [w, extract_skip, extract_last, Nat.reduceLeDiff, Nat.reduceSub]; done)
      | (simp only [w, extract_skip, extract_last, Nat.reduceLeDiff, Nat.reduceSub]; rfl)
      | (apply BitVec.eq_of_getLsbD_eq
         intro i hi
         simp only [w, BitVec.getLsbD_extractLsb', BitVec.getLsbD_append, Nat.zero_add, hi, decide_true, Bool.true_and]
         repeat' split
         all_goals first | omega | simp)
  have h1 : w.extractLsb' 28 2 = 2 := by
    first
      | (simp only [w, extract_skip, extract_last, Nat.reduceLeDiff, Nat.reduceSub]; done)
      | (simp only [w, extract_skip, extract_last, Nat.reduceLeDiff, Nat.reduceSub]; rfl)
      | (apply BitVec.eq_of_getLsbD_eq
         intro i hi
         simp only [w, BitVec.getLsbD_extractLsb', BitVec.getLsbD_append, Nat.zero_add, hi, decide_true, Bool.true_and]
         repeat' split
         all_goals first | omega | simp)
  have h2 : w.extractLsb' 0 24 = 0 := by
    first
      | (simp only [w, extract_skip, extract_last, Nat.reduceLeDiff, Nat.reduceSub]; done)
      | (simp only [w, extract_skip, extract_last, Nat.reduceLeDiff, Nat.reduceSub]; rfl)
      | (apply BitVec.eq_of_getLsbD_eq
         intro i hi
         simp only [w, BitVec.getLsbD_extractLsb', BitVec.getLsbD_append, Nat.zero_add, hi, decide_true, Bool.true_and]
         repeat' split
         all_goals first | omega | simp)
  simp only [fixedTStatD, beq_iff_eq, Bool.and_eq_true]
  exact ⟨⟨h0, h1⟩, h2⟩

theorem unpackCpyB_pack (op : BitVec 7) (f : CpyByteF) : unpackCpyB (packCpyB op f) = f := by
  let w := op ++ f.ps ++ 0#1 ++ f.x ++ f.y ++ f.len ++ f.ev ++ 0#20
  have h : (⟨w.extractLsb' 36 5, w.extractLsb' 31 4, w.extractLsb' 27 4, w.extractLsb' 21 6, w.extractLsb' 20 1⟩ : CpyByteF) = f := by
    simp only [w, extract_skip, extract_last, Nat.reduceLeDiff, Nat.reduceSub]
  exact h
theorem opCpyB_pack (op : BitVec 7) (f : CpyByteF) : (packCpyB op f).extractLsb' 41 7 = op := by
  let w := op ++ f.ps ++ 0#1 ++ f.x ++ f.y ++ f.len ++ f.ev ++ 0#20
  have h : w.extractLsb' 41 7 = op := by
    simp only [w, extract_skip, extract_all, Nat.reduceLeDiff, Nat.reduceSub]
  exact h
theorem fixedCpyB_pack (op : BitVec 7) (f : CpyByteF) : fixedCpyB (packCpyB op f) = true := by
  let w := op ++ f.ps ++ 0#1 ++ f.x ++ f.y ++ f.len ++ f.ev ++ 0#20
  have h0 : w.extractLsb' 35 1 = 0 := by
    first
      | (simp only [w, extract_skip, extract_last, Nat.reduceLeDiff, Nat.reduceSub]; done)
      | (simp only [w, extract_skip, extract_last, Nat.reduceLeDiff, Nat.reduceSub]; rfl)
      | (apply BitVec.eq_of_getLsbD_eq
         intro i hi
         simp only [w, BitVec.getLsbD_extractLsb', BitVec.getLsbD_append, Nat.zero_add, hi, decide_true, Bool.true_and]
         repeat' split
         all_goals first | omega | simp)
  have h1 : w.extractLsb' 0 20 = 0 := by
    first
      | (simp only [w, extract_skip, extract_last, Nat.reduceLeDiff, Nat.reduceSub]; done)
      | (simp only [w, extract_skip, extract_last, Nat.reduceLeDiff, Nat.reduceSub]; rfl)
      | (apply BitVec.eq_of_getLsbD_eq
         intro i hi
         simp only [w, BitVec.getLsbD_extractLsb', BitVec.getLsbD_append, Nat.zero_add, hi, decide_true, Bool.true_and]
         repeat' split
         all_goals first | omega | simp)
  simp only [fixedCpyB, beq_iff_eq, Bool.and_eq_true]
  exact ⟨h0, h1⟩

theorem unpackCpyT_pack (op : BitVec 7) (f : CpyTileF) : unpackCpyT (packCpyT op f) = f := by
  let w := op ++ f.ps ++ 1#1 ++ f.x ++ f.y ++ 0#6 ++ f.ev ++ 0#20
  have h : (⟨w.extractLsb' 36 5, w.extractLsb' 31 4, w.extractLsb' 27 4, w.extractLsb' 20 1⟩ : CpyTileF) = f := by
    simp only [w, extract_skip, extract_last, Nat.reduceLeDiff, Nat.reduceSub]
  exact h
theorem opCpyT_pack (op : BitVec 7) (f : CpyTileF) : (packCpyT op f).extractLsb' 41 7 = op := by
  let w := op ++ f.ps ++ 1#1 ++ f.x ++ f.y ++ 0#6 ++ f.ev ++ 0#20
  have h : w.extractLsb' 41 7 = op := by
    simp only [w, extract_skip, extract_all, Nat.reduceLeDiff, Nat.reduceSub]
  exact h
theorem fixedCpyT_pack (op : BitVec 7) (f : CpyTileF) : fixedCpyT (packCpyT op f) = true := by
  let w := op ++ f.ps ++ 1#1 ++ f.x ++ f.y ++ 0#6 ++ f.ev ++ 0#20
  have h0 : w.extractLsb' 35 1 = 1 := by
    first
      | (simp only [w, extract_skip, extract_last, Nat.reduceLeDiff, Nat.reduceSub]; done)
      | (simp only [w, extract_skip, extract_last, Nat.reduceLeDiff, Nat.reduceSub]; rfl)
      | (apply BitVec.eq_of_getLsbD_eq
         intro i hi
         simp only [w, BitVec.getLsbD_extractLsb', BitVec.getLsbD_append, Nat.zero_add, hi, decide_true, Bool.true_and]
         repeat' split
         all_goals first | omega | simp)
  have h1 : w.extractLsb' 21 6 = 0 := by
    first
      | (simp only [w, extract_skip, extract_last, Nat.reduceLeDiff, Nat.reduceSub]; done)
      | (simp only [w, extract_skip, extract_last, Nat.reduceLeDiff, Nat.reduceSub]; rfl)
      | (apply BitVec.eq_of_getLsbD_eq
         intro i hi
         simp only [w, BitVec.getLsbD_extractLsb', BitVec.getLsbD_append, Nat.zero_add, hi, decide_true, Bool.true_and]
         repeat' split
         all_goals first | omega | simp)
  have h2 : w.extractLsb' 0 20 = 0 := by
    first
      | (simp only [w, extract_skip, extract_last, Nat.reduceLeDiff, Nat.reduceSub]; done)
      | (simp only [w, extract_skip, extract_last, Nat.reduceLeDiff, Nat.reduceSub]; rfl)
      | (apply BitVec.eq_of_getLsbD_eq
         intro i hi
         simp only [w, BitVec.getLsbD_extractLsb', BitVec.getLsbD_append, Nat.zero_add, hi, decide_true, Bool.true_and]
         repeat' split
         all_goals first | omega | simp)
  simp only [fixedCpyT, beq_iff_eq, Bool.and_eq_true]
  exact ⟨⟨h0, h1⟩, h2⟩

theorem unpackCpyIdx_pack (op : BitVec 7) (f : CpyIdxF) : unpackCpyIdx (packCpyIdx op f) = f := by
  let w := op ++ f.ps ++ f.dD ++ f.dA ++ f.ai ++ f.n ++ f.ev ++ 0#17
  have h : (⟨w.extractLsb' 36 5, w.extractLsb' 32 4, w.extractLsb' 28 4, w.extractLsb' 24 4, w.extractLsb' 18 6, w.extractLsb' 17 1⟩ : CpyIdxF) = f := by
    simp only [w, extract_skip, extract_last, Nat.reduceLeDiff, Nat.reduceSub]
  exact h
theorem opCpyIdx_pack (op : BitVec 7) (f : CpyIdxF) : (packCpyIdx op f).extractLsb' 41 7 = op := by
  let w := op ++ f.ps ++ f.dD ++ f.dA ++ f.ai ++ f.n ++ f.ev ++ 0#17
  have h : w.extractLsb' 41 7 = op := by
    simp only [w, extract_skip, extract_all, Nat.reduceLeDiff, Nat.reduceSub]
  exact h
theorem fixedCpyIdx_pack (op : BitVec 7) (f : CpyIdxF) : fixedCpyIdx (packCpyIdx op f) = true := by
  let w := op ++ f.ps ++ f.dD ++ f.dA ++ f.ai ++ f.n ++ f.ev ++ 0#17
  have h0 : w.extractLsb' 0 17 = 0 := by
    first
      | (simp only [w, extract_skip, extract_last, Nat.reduceLeDiff, Nat.reduceSub]; done)
      | (simp only [w, extract_skip, extract_last, Nat.reduceLeDiff, Nat.reduceSub]; rfl)
      | (apply BitVec.eq_of_getLsbD_eq
         intro i hi
         simp only [w, BitVec.getLsbD_extractLsb', BitVec.getLsbD_append, Nat.zero_add, hi, decide_true, Bool.true_and]
         repeat' split
         all_goals first | omega | simp)
  simp only [fixedCpyIdx, beq_iff_eq, Bool.and_eq_true]
  exact h0

theorem unpackCpStor_pack (op : BitVec 7) (f : CpStorF) : unpackCpStor (packCpStor op f) = f := by
  let w := op ++ f.ps ++ f.ad ++ f.al ++ f.ns ++ f.count ++ f.codec ++ f.ev ++ 0#15
  have h : (⟨w.extractLsb' 36 5, w.extractLsb' 32 4, w.extractLsb' 28 4, w.extractLsb' 24 4, w.extractLsb' 18 6, w.extractLsb' 16 2, w.extractLsb' 15 1⟩ : CpStorF) = f := by
    simp only [w, extract_skip, extract_last, Nat.reduceLeDiff, Nat.reduceSub]
  exact h
theorem opCpStor_pack (op : BitVec 7) (f : CpStorF) : (packCpStor op f).extractLsb' 41 7 = op := by
  let w := op ++ f.ps ++ f.ad ++ f.al ++ f.ns ++ f.count ++ f.codec ++ f.ev ++ 0#15
  have h : w.extractLsb' 41 7 = op := by
    simp only [w, extract_skip, extract_all, Nat.reduceLeDiff, Nat.reduceSub]
  exact h
theorem fixedCpStor_pack (op : BitVec 7) (f : CpStorF) : fixedCpStor (packCpStor op f) = true := by
  let w := op ++ f.ps ++ f.ad ++ f.al ++ f.ns ++ f.count ++ f.codec ++ f.ev ++ 0#15
  have h0 : w.extractLsb' 0 15 = 0 := by
    first
      | (simp only [w, extract_skip, extract_last, Nat.reduceLeDiff, Nat.reduceSub]; done)
      | (simp only [w, extract_skip, extract_last, Nat.reduceLeDiff, Nat.reduceSub]; rfl)
      | (apply BitVec.eq_of_getLsbD_eq
         intro i hi
         simp only [w, BitVec.getLsbD_extractLsb', BitVec.getLsbD_append, Nat.zero_add, hi, decide_true, Bool.true_and]
         repeat' split
         all_goals first | omega | simp)
  simp only [fixedCpStor, beq_iff_eq, Bool.and_eq_true]
  exact h0

theorem unpackSleep_pack (op : BitVec 7) (f : SleepF) : unpackSleep (packSleep op f) = f := by
  let w := op ++ f.scope ++ f.c ++ f.s ++ f.time ++ 0#30
  have h : (⟨w.extractLsb' 38 3, w.extractLsb' 37 1, w.extractLsb' 36 1, w.extractLsb' 30 6⟩ : SleepF) = f := by
    simp only [w, extract_skip, extract_last, Nat.reduceLeDiff, Nat.reduceSub]
  exact h
theorem opSleep_pack (op : BitVec 7) (f : SleepF) : (packSleep op f).extractLsb' 41 7 = op := by
  let w := op ++ f.scope ++ f.c ++ f.s ++ f.time ++ 0#30
  have h : w.extractLsb' 41 7 = op := by
    simp only [w, extract_skip, extract_all, Nat.reduceLeDiff, Nat.reduceSub]
  exact h
theorem fixedSleep_pack (op : BitVec 7) (f : SleepF) : fixedSleep (packSleep op f) = true := by
  let w := op ++ f.scope ++ f.c ++ f.s ++ f.time ++ 0#30
  have h0 : w.extractLsb' 0 30 = 0 := by
    first
      | (simp only [w, extract_skip, extract_last, Nat.reduceLeDiff, Nat.reduceSub]; done)
      | (simp only [w, extract_skip, extract_last, Nat.reduceLeDiff, Nat.reduceSub]; rfl)
      | (apply BitVec.eq_of_getLsbD_eq
         intro i hi
         simp only [w, BitVec.getLsbD_extractLsb', BitVec.getLsbD_append, Nat.zero_add, hi, decide_true, Bool.true_and]
         repeat' split
         all_goals first | omega | simp)
  simp only [fixedSleep, beq_iff_eq, Bool.and_eq_true]
  exact h0

theorem unpackPmov_pack (op : BitVec 7) (f : PmovF) : unpackPmov (packPmov op f) = f := by
  let w := op ++ f.port ++ f.dD ++ f.dA ++ f.sc ++ f.ev ++ 0#14
  have h : (⟨w.extractLsb' 29 12, w.extractLsb' 25 4, w.extractLsb' 21 4, w.extractLsb' 15 6, w.extractLsb' 14 1⟩ : PmovF) = f := by
    simp only [w, extract_skip, extract_last, Nat.reduceLeDiff, Nat.reduceSub]
  exact h
theorem opPmov_pack (op : BitVec 7) (f : PmovF) : (packPmov op f).extractLsb' 41 7 = op := by
  let w := op ++ f.port ++ f.dD ++ f.dA ++ f.sc ++ f.ev ++ 0#14
  have h : w.extractLsb' 41 7 = op := by
    simp only [w, extract_skip, extract_all, Nat.reduceLeDiff, Nat.reduceSub]
  exact h
theorem fixedPmov_pack (op : BitVec 7) (f : PmovF) : fixedPmov (packPmov op f) = true := by
  let w := op ++ f.port ++ f.dD ++ f.dA ++ f.sc ++ f.ev ++ 0#14
  have h0 : w.extractLsb' 0 14 = 0 := by
    first
      | (simp only [w, extract_skip, extract_last, Nat.reduceLeDiff, Nat.reduceSub]; done)
      | (simp only [w, extract_skip, extract_last, Nat.reduceLeDiff, Nat.reduceSub]; rfl)
      | (apply BitVec.eq_of_getLsbD_eq
         intro i hi
         simp only [w, BitVec.getLsbD_extractLsb', BitVec.getLsbD_append, Nat.zero_add, hi, decide_true, Bool.true_and]
         repeat' split
         all_goals first | omega | simp)
  simp only [fixedPmov, beq_iff_eq, Bool.and_eq_true]
  exact h0

theorem unpackPrd_pack (op : BitVec 7) (f : PrdF) : unpackPrd (packPrd op f) = f := by
  let w := op ++ f.sd ++ f.port ++ 0#24
  have h : (⟨w.extractLsb' 36 5, w.extractLsb' 24 12⟩ : PrdF) = f := by
    simp only [w, extract_skip, extract_last, Nat.reduceLeDiff, Nat.reduceSub]
  exact h
theorem opPrd_pack (op : BitVec 7) (f : PrdF) : (packPrd op f).extractLsb' 41 7 = op := by
  let w := op ++ f.sd ++ f.port ++ 0#24
  have h : w.extractLsb' 41 7 = op := by
    simp only [w, extract_skip, extract_all, Nat.reduceLeDiff, Nat.reduceSub]
  exact h
theorem fixedPrd_pack (op : BitVec 7) (f : PrdF) : fixedPrd (packPrd op f) = true := by
  let w := op ++ f.sd ++ f.port ++ 0#24
  have h0 : w.extractLsb' 0 24 = 0 := by
    first
      | (simp only [w, extract_skip, extract_last, Nat.reduceLeDiff, Nat.reduceSub]; done)
      | (simp only [w, extract_skip, extract_last, Nat.reduceLeDiff, Nat.reduceSub]; rfl)
      | (apply BitVec.eq_of_getLsbD_eq
         intro i hi
         simp only [w, BitVec.getLsbD_extractLsb', BitVec.getLsbD_append, Nat.zero_add, hi, decide_true, Bool.true_and]
         repeat' split
         all_goals first | omega | simp)
  simp only [fixedPrd, beq_iff_eq, Bool.and_eq_true]
  exact h0

theorem unpackWalk_pack (op : BitVec 7) (f : WalkF) : unpackWalk (packWalk op f) = f := by
  let w := op ++ f.hd ++ f.dn ++ f.aw ++ f.engine ++ f.st ++ f.ev ++ 0#24
  have h : (⟨w.extractLsb' 36 5, w.extractLsb' 32 4, w.extractLsb' 28 4, w.extractLsb' 26 2, w.extractLsb' 25 1, w.extractLsb' 24 1⟩ : WalkF) = f := by
    simp only [w, extract_skip, extract_last, Nat.reduceLeDiff, Nat.reduceSub]
  exact h
theorem opWalk_pack (op : BitVec 7) (f : WalkF) : (packWalk op f).extractLsb' 41 7 = op := by
  let w := op ++ f.hd ++ f.dn ++ f.aw ++ f.engine ++ f.st ++ f.ev ++ 0#24
  have h : w.extractLsb' 41 7 = op := by
    simp only [w, extract_skip, extract_all, Nat.reduceLeDiff, Nat.reduceSub]
  exact h
theorem fixedWalk_pack (op : BitVec 7) (f : WalkF) : fixedWalk (packWalk op f) = true := by
  let w := op ++ f.hd ++ f.dn ++ f.aw ++ f.engine ++ f.st ++ f.ev ++ 0#24
  have h0 : w.extractLsb' 0 24 = 0 := by
    first
      | (simp only [w, extract_skip, extract_last, Nat.reduceLeDiff, Nat.reduceSub]; done)
      | (simp only [w, extract_skip, extract_last, Nat.reduceLeDiff, Nat.reduceSub]; rfl)
      | (apply BitVec.eq_of_getLsbD_eq
         intro i hi
         simp only [w, BitVec.getLsbD_extractLsb', BitVec.getLsbD_append, Nat.zero_add, hi, decide_true, Bool.true_and]
         repeat' split
         all_goals first | omega | simp)
  simp only [fixedWalk, beq_iff_eq, Bool.and_eq_true]
  exact h0

theorem unpackBatonW_pack (op : BitVec 7) (f : BatonF) : unpackBatonW (packBatonW op f) = f := by
  let w := op ++ f.sd ++ f.h ++ f.k ++ 0#2 ++ 0#22
  have h : (⟨w.extractLsb' 36 5, w.extractLsb' 30 6, w.extractLsb' 24 6⟩ : BatonF) = f := by
    simp only [w, extract_skip, extract_last, Nat.reduceLeDiff, Nat.reduceSub]
  exact h
theorem opBatonW_pack (op : BitVec 7) (f : BatonF) : (packBatonW op f).extractLsb' 41 7 = op := by
  let w := op ++ f.sd ++ f.h ++ f.k ++ 0#2 ++ 0#22
  have h : w.extractLsb' 41 7 = op := by
    simp only [w, extract_skip, extract_all, Nat.reduceLeDiff, Nat.reduceSub]
  exact h
theorem fixedBatonW_pack (op : BitVec 7) (f : BatonF) : fixedBatonW (packBatonW op f) = true := by
  let w := op ++ f.sd ++ f.h ++ f.k ++ 0#2 ++ 0#22
  have h0 : w.extractLsb' 0 24 = 0 := by
    first
      | (simp only [w, extract_skip, extract_last, Nat.reduceLeDiff, Nat.reduceSub]; done)
      | (simp only [w, extract_skip, extract_last, Nat.reduceLeDiff, Nat.reduceSub]; rfl)
      | (apply BitVec.eq_of_getLsbD_eq
         intro i hi
         simp only [w, BitVec.getLsbD_extractLsb', BitVec.getLsbD_append, Nat.zero_add, hi, decide_true, Bool.true_and]
         repeat' split
         all_goals first | omega | simp)
  simp only [fixedBatonW, beq_iff_eq, Bool.and_eq_true]
  exact h0

theorem unpackBatonG_pack (op : BitVec 7) (f : BatonF) : unpackBatonG (packBatonG op f) = f := by
  let w := op ++ f.sd ++ f.h ++ f.k ++ 1#2 ++ 0#22
  have h : (⟨w.extractLsb' 36 5, w.extractLsb' 30 6, w.extractLsb' 24 6⟩ : BatonF) = f := by
    simp only [w, extract_skip, extract_last, Nat.reduceLeDiff, Nat.reduceSub]
  exact h
theorem opBatonG_pack (op : BitVec 7) (f : BatonF) : (packBatonG op f).extractLsb' 41 7 = op := by
  let w := op ++ f.sd ++ f.h ++ f.k ++ 1#2 ++ 0#22
  have h : w.extractLsb' 41 7 = op := by
    simp only [w, extract_skip, extract_all, Nat.reduceLeDiff, Nat.reduceSub]
  exact h
theorem fixedBatonG_pack (op : BitVec 7) (f : BatonF) : fixedBatonG (packBatonG op f) = true := by
  let w := op ++ f.sd ++ f.h ++ f.k ++ 1#2 ++ 0#22
  have h0 : w.extractLsb' 22 2 = 1 := by
    first
      | (simp only [w, extract_skip, extract_last, Nat.reduceLeDiff, Nat.reduceSub]; done)
      | (simp only [w, extract_skip, extract_last, Nat.reduceLeDiff, Nat.reduceSub]; rfl)
      | (apply BitVec.eq_of_getLsbD_eq
         intro i hi
         simp only [w, BitVec.getLsbD_extractLsb', BitVec.getLsbD_append, Nat.zero_add, hi, decide_true, Bool.true_and]
         repeat' split
         all_goals first | omega | simp)
  have h1 : w.extractLsb' 0 22 = 0 := by
    first
      | (simp only [w, extract_skip, extract_last, Nat.reduceLeDiff, Nat.reduceSub]; done)
      | (simp only [w, extract_skip, extract_last, Nat.reduceLeDiff, Nat.reduceSub]; rfl)
      | (apply BitVec.eq_of_getLsbD_eq
         intro i hi
         simp only [w, BitVec.getLsbD_extractLsb', BitVec.getLsbD_append, Nat.zero_add, hi, decide_true, Bool.true_and]
         repeat' split
         all_goals first | omega | simp)
  simp only [fixedBatonG, beq_iff_eq, Bool.and_eq_true]
  exact ⟨h0, h1⟩

theorem unpackBatonS_pack (op : BitVec 7) (f : BatonF) : unpackBatonS (packBatonS op f) = f := by
  let w := op ++ f.sd ++ f.h ++ f.k ++ 2#2 ++ 0#22
  have h : (⟨w.extractLsb' 36 5, w.extractLsb' 30 6, w.extractLsb' 24 6⟩ : BatonF) = f := by
    simp only [w, extract_skip, extract_last, Nat.reduceLeDiff, Nat.reduceSub]
  exact h
theorem opBatonS_pack (op : BitVec 7) (f : BatonF) : (packBatonS op f).extractLsb' 41 7 = op := by
  let w := op ++ f.sd ++ f.h ++ f.k ++ 2#2 ++ 0#22
  have h : w.extractLsb' 41 7 = op := by
    simp only [w, extract_skip, extract_all, Nat.reduceLeDiff, Nat.reduceSub]
  exact h
theorem fixedBatonS_pack (op : BitVec 7) (f : BatonF) : fixedBatonS (packBatonS op f) = true := by
  let w := op ++ f.sd ++ f.h ++ f.k ++ 2#2 ++ 0#22
  have h0 : w.extractLsb' 22 2 = 2 := by
    first
      | (simp only [w, extract_skip, extract_last, Nat.reduceLeDiff, Nat.reduceSub]; done)
      | (simp only [w, extract_skip, extract_last, Nat.reduceLeDiff, Nat.reduceSub]; rfl)
      | (apply BitVec.eq_of_getLsbD_eq
         intro i hi
         simp only [w, BitVec.getLsbD_extractLsb', BitVec.getLsbD_append, Nat.zero_add, hi, decide_true, Bool.true_and]
         repeat' split
         all_goals first | omega | simp)
  have h1 : w.extractLsb' 0 22 = 0 := by
    first
      | (simp only [w, extract_skip, extract_last, Nat.reduceLeDiff, Nat.reduceSub]; done)
      | (simp only [w, extract_skip, extract_last, Nat.reduceLeDiff, Nat.reduceSub]; rfl)
      | (apply BitVec.eq_of_getLsbD_eq
         intro i hi
         simp only [w, BitVec.getLsbD_extractLsb', BitVec.getLsbD_append, Nat.zero_add, hi, decide_true, Bool.true_and]
         repeat' split
         all_goals first | omega | simp)
  simp only [fixedBatonS, beq_iff_eq, Bool.and_eq_true]
  exact ⟨h0, h1⟩

theorem unpackNSend_pack (op : BitVec 7) (f : NSendF) : unpackNSend (packNSend op f) = f := by
  let w := op ++ 0#5 ++ f.peer ++ f.dD ++ f.dA ++ f.ev ++ 0#21
  have h : (⟨w.extractLsb' 30 6, w.extractLsb' 26 4, w.extractLsb' 22 4, w.extractLsb' 21 1⟩ : NSendF) = f := by
    simp only [w, extract_skip, extract_last, Nat.reduceLeDiff, Nat.reduceSub]
  exact h
theorem opNSend_pack (op : BitVec 7) (f : NSendF) : (packNSend op f).extractLsb' 41 7 = op := by
  let w := op ++ 0#5 ++ f.peer ++ f.dD ++ f.dA ++ f.ev ++ 0#21
  have h : w.extractLsb' 41 7 = op := by
    simp only [w, extract_skip, extract_all, Nat.reduceLeDiff, Nat.reduceSub]
  exact h
theorem fixedNSend_pack (op : BitVec 7) (f : NSendF) : fixedNSend (packNSend op f) = true := by
  let w := op ++ 0#5 ++ f.peer ++ f.dD ++ f.dA ++ f.ev ++ 0#21
  have h0 : w.extractLsb' 36 5 = 0 := by
    first
      | (simp only [w, extract_skip, extract_last, Nat.reduceLeDiff, Nat.reduceSub]; done)
      | (simp only [w, extract_skip, extract_last, Nat.reduceLeDiff, Nat.reduceSub]; rfl)
      | (apply BitVec.eq_of_getLsbD_eq
         intro i hi
         simp only [w, BitVec.getLsbD_extractLsb', BitVec.getLsbD_append, Nat.zero_add, hi, decide_true, Bool.true_and]
         repeat' split
         all_goals first | omega | simp)
  have h1 : w.extractLsb' 0 21 = 0 := by
    first
      | (simp only [w, extract_skip, extract_last, Nat.reduceLeDiff, Nat.reduceSub]; done)
      | (simp only [w, extract_skip, extract_last, Nat.reduceLeDiff, Nat.reduceSub]; rfl)
      | (apply BitVec.eq_of_getLsbD_eq
         intro i hi
         simp only [w, BitVec.getLsbD_extractLsb', BitVec.getLsbD_append, Nat.zero_add, hi, decide_true, Bool.true_and]
         repeat' split
         all_goals first | omega | simp)
  simp only [fixedNSend, beq_iff_eq, Bool.and_eq_true]
  exact ⟨h0, h1⟩

theorem unpackNMcast_pack (op : BitVec 7) (f : NMcastF) : unpackNMcast (packNMcast op f) = f := by
  let w := op ++ f.count ++ f.al ++ f.dD ++ f.dA ++ f.ev ++ 0#22
  have h : (⟨w.extractLsb' 35 6, w.extractLsb' 31 4, w.extractLsb' 27 4, w.extractLsb' 23 4, w.extractLsb' 22 1⟩ : NMcastF) = f := by
    simp only [w, extract_skip, extract_last, Nat.reduceLeDiff, Nat.reduceSub]
  exact h
theorem opNMcast_pack (op : BitVec 7) (f : NMcastF) : (packNMcast op f).extractLsb' 41 7 = op := by
  let w := op ++ f.count ++ f.al ++ f.dD ++ f.dA ++ f.ev ++ 0#22
  have h : w.extractLsb' 41 7 = op := by
    simp only [w, extract_skip, extract_all, Nat.reduceLeDiff, Nat.reduceSub]
  exact h
theorem fixedNMcast_pack (op : BitVec 7) (f : NMcastF) : fixedNMcast (packNMcast op f) = true := by
  let w := op ++ f.count ++ f.al ++ f.dD ++ f.dA ++ f.ev ++ 0#22
  have h0 : w.extractLsb' 0 22 = 0 := by
    first
      | (simp only [w, extract_skip, extract_last, Nat.reduceLeDiff, Nat.reduceSub]; done)
      | (simp only [w, extract_skip, extract_last, Nat.reduceLeDiff, Nat.reduceSub]; rfl)
      | (apply BitVec.eq_of_getLsbD_eq
         intro i hi
         simp only [w, BitVec.getLsbD_extractLsb', BitVec.getLsbD_append, Nat.zero_add, hi, decide_true, Bool.true_and]
         repeat' split
         all_goals first | omega | simp)
  simp only [fixedNMcast, beq_iff_eq, Bool.and_eq_true]
  exact h0

theorem unpackRelay_pack (op : BitVec 7) (f : RelayF) : unpackRelay (packRelay op f) = f := by
  let w := op ++ f.hd ++ f.u ++ f.ar ++ f.ev ++ 0#29
  have h : (⟨w.extractLsb' 36 5, w.extractLsb' 34 2, w.extractLsb' 30 4, w.extractLsb' 29 1⟩ : RelayF) = f := by
    simp only [w, extract_skip, extract_last, Nat.reduceLeDiff, Nat.reduceSub]
  exact h
theorem opRelay_pack (op : BitVec 7) (f : RelayF) : (packRelay op f).extractLsb' 41 7 = op := by
  let w := op ++ f.hd ++ f.u ++ f.ar ++ f.ev ++ 0#29
  have h : w.extractLsb' 41 7 = op := by
    simp only [w, extract_skip, extract_all, Nat.reduceLeDiff, Nat.reduceSub]
  exact h
theorem fixedRelay_pack (op : BitVec 7) (f : RelayF) : fixedRelay (packRelay op f) = true := by
  let w := op ++ f.hd ++ f.u ++ f.ar ++ f.ev ++ 0#29
  have h0 : w.extractLsb' 0 29 = 0 := by
    first
      | (simp only [w, extract_skip, extract_last, Nat.reduceLeDiff, Nat.reduceSub]; done)
      | (simp only [w, extract_skip, extract_last, Nat.reduceLeDiff, Nat.reduceSub]; rfl)
      | (apply BitVec.eq_of_getLsbD_eq
         intro i hi
         simp only [w, BitVec.getLsbD_extractLsb', BitVec.getLsbD_append, Nat.zero_add, hi, decide_true, Bool.true_and]
         repeat' split
         all_goals first | omega | simp)
  simp only [fixedRelay, beq_iff_eq, Bool.and_eq_true]
  exact h0

theorem unpackRlStat_pack (op : BitVec 7) (f : DstSpec) : unpackRlStat (packRlStat op f) = f := by
  let w := op ++ f.sd ++ f.h ++ 0#2 ++ 0#28
  have h : (⟨w.extractLsb' 36 5, w.extractLsb' 30 6⟩ : DstSpec) = f := by
    simp only [w, extract_skip, extract_last, Nat.reduceLeDiff, Nat.reduceSub]
  exact h
theorem opRlStat_pack (op : BitVec 7) (f : DstSpec) : (packRlStat op f).extractLsb' 41 7 = op := by
  let w := op ++ f.sd ++ f.h ++ 0#2 ++ 0#28
  have h : w.extractLsb' 41 7 = op := by
    simp only [w, extract_skip, extract_all, Nat.reduceLeDiff, Nat.reduceSub]
  exact h
theorem fixedRlStat_pack (op : BitVec 7) (f : DstSpec) : fixedRlStat (packRlStat op f) = true := by
  let w := op ++ f.sd ++ f.h ++ 0#2 ++ 0#28
  have h0 : w.extractLsb' 0 30 = 0 := by
    first
      | (simp only [w, extract_skip, extract_last, Nat.reduceLeDiff, Nat.reduceSub]; done)
      | (simp only [w, extract_skip, extract_last, Nat.reduceLeDiff, Nat.reduceSub]; rfl)
      | (apply BitVec.eq_of_getLsbD_eq
         intro i hi
         simp only [w, BitVec.getLsbD_extractLsb', BitVec.getLsbD_append, Nat.zero_add, hi, decide_true, Bool.true_and]
         repeat' split
         all_goals first | omega | simp)
  simp only [fixedRlStat, beq_iff_eq, Bool.and_eq_true]
  exact h0

theorem unpackRlWhy_pack (op : BitVec 7) (f : DstSpec) : unpackRlWhy (packRlWhy op f) = f := by
  let w := op ++ f.sd ++ f.h ++ 1#2 ++ 0#28
  have h : (⟨w.extractLsb' 36 5, w.extractLsb' 30 6⟩ : DstSpec) = f := by
    simp only [w, extract_skip, extract_last, Nat.reduceLeDiff, Nat.reduceSub]
  exact h
theorem opRlWhy_pack (op : BitVec 7) (f : DstSpec) : (packRlWhy op f).extractLsb' 41 7 = op := by
  let w := op ++ f.sd ++ f.h ++ 1#2 ++ 0#28
  have h : w.extractLsb' 41 7 = op := by
    simp only [w, extract_skip, extract_all, Nat.reduceLeDiff, Nat.reduceSub]
  exact h
theorem fixedRlWhy_pack (op : BitVec 7) (f : DstSpec) : fixedRlWhy (packRlWhy op f) = true := by
  let w := op ++ f.sd ++ f.h ++ 1#2 ++ 0#28
  have h0 : w.extractLsb' 28 2 = 1 := by
    first
      | (simp only [w, extract_skip, extract_last, Nat.reduceLeDiff, Nat.reduceSub]; done)
      | (simp only [w, extract_skip, extract_last, Nat.reduceLeDiff, Nat.reduceSub]; rfl)
      | (apply BitVec.eq_of_getLsbD_eq
         intro i hi
         simp only [w, BitVec.getLsbD_extractLsb', BitVec.getLsbD_append, Nat.zero_add, hi, decide_true, Bool.true_and]
         repeat' split
         all_goals first | omega | simp)
  have h1 : w.extractLsb' 0 28 = 0 := by
    first
      | (simp only [w, extract_skip, extract_last, Nat.reduceLeDiff, Nat.reduceSub]; done)
      | (simp only [w, extract_skip, extract_last, Nat.reduceLeDiff, Nat.reduceSub]; rfl)
      | (apply BitVec.eq_of_getLsbD_eq
         intro i hi
         simp only [w, BitVec.getLsbD_extractLsb', BitVec.getLsbD_append, Nat.zero_add, hi, decide_true, Bool.true_and]
         repeat' split
         all_goals first | omega | simp)
  simp only [fixedRlWhy, beq_iff_eq, Bool.and_eq_true]
  exact ⟨h0, h1⟩

theorem unpackHurdle_pack (op : BitVec 7) (f : HurdleF) : unpackHurdle (packHurdle op f) = f := by
  let w := op ++ f.scope ++ f.sd ++ f.ah ++ f.q ++ f.off ++ 0#11
  have h : (⟨w.extractLsb' 38 3, w.extractLsb' 33 5, w.extractLsb' 29 4, w.extractLsb' 23 6, w.extractLsb' 11 12⟩ : HurdleF) = f := by
    simp only [w, extract_skip, extract_last, Nat.reduceLeDiff, Nat.reduceSub]
  exact h
theorem opHurdle_pack (op : BitVec 7) (f : HurdleF) : (packHurdle op f).extractLsb' 41 7 = op := by
  let w := op ++ f.scope ++ f.sd ++ f.ah ++ f.q ++ f.off ++ 0#11
  have h : w.extractLsb' 41 7 = op := by
    simp only [w, extract_skip, extract_all, Nat.reduceLeDiff, Nat.reduceSub]
  exact h
theorem fixedHurdle_pack (op : BitVec 7) (f : HurdleF) : fixedHurdle (packHurdle op f) = true := by
  let w := op ++ f.scope ++ f.sd ++ f.ah ++ f.q ++ f.off ++ 0#11
  have h0 : w.extractLsb' 0 11 = 0 := by
    first
      | (simp only [w, extract_skip, extract_last, Nat.reduceLeDiff, Nat.reduceSub]; done)
      | (simp only [w, extract_skip, extract_last, Nat.reduceLeDiff, Nat.reduceSub]; rfl)
      | (apply BitVec.eq_of_getLsbD_eq
         intro i hi
         simp only [w, BitVec.getLsbD_extractLsb', BitVec.getLsbD_append, Nat.zero_add, hi, decide_true, Bool.true_and]
         repeat' split
         all_goals first | omega | simp)
  simp only [fixedHurdle, beq_iff_eq, Bool.and_eq_true]
  exact h0

theorem unpackTqPush_pack (op : BitVec 7) (f : TqPushF) : unpackTqPush (packTqPush op f) = f := by
  let w := op ++ f.sd ++ f.at' ++ f.q ++ f.off ++ 0#16
  have h : (⟨w.extractLsb' 36 5, w.extractLsb' 32 4, w.extractLsb' 26 6, w.extractLsb' 16 10⟩ : TqPushF) = f := by
    simp only [w, extract_skip, extract_last, Nat.reduceLeDiff, Nat.reduceSub]
  exact h
theorem opTqPush_pack (op : BitVec 7) (f : TqPushF) : (packTqPush op f).extractLsb' 41 7 = op := by
  let w := op ++ f.sd ++ f.at' ++ f.q ++ f.off ++ 0#16
  have h : w.extractLsb' 41 7 = op := by
    simp only [w, extract_skip, extract_all, Nat.reduceLeDiff, Nat.reduceSub]
  exact h
theorem fixedTqPush_pack (op : BitVec 7) (f : TqPushF) : fixedTqPush (packTqPush op f) = true := by
  let w := op ++ f.sd ++ f.at' ++ f.q ++ f.off ++ 0#16
  have h0 : w.extractLsb' 0 16 = 0 := by
    first
      | (simp only [w, extract_skip, extract_last, Nat.reduceLeDiff, Nat.reduceSub]; done)
      | (simp only [w, extract_skip, extract_last, Nat.reduceLeDiff, Nat.reduceSub]; rfl)
      | (apply BitVec.eq_of_getLsbD_eq
         intro i hi
         simp only [w, BitVec.getLsbD_extractLsb', BitVec.getLsbD_append, Nat.zero_add, hi, decide_true, Bool.true_and]
         repeat' split
         all_goals first | omega | simp)
  simp only [fixedTqPush, beq_iff_eq, Bool.and_eq_true]
  exact h0

theorem unpackTqCancel_pack (op : BitVec 7) (f : DstSpec) : unpackTqCancel (packTqCancel op f) = f := by
  let w := op ++ f.sd ++ f.h ++ 0#30
  have h : (⟨w.extractLsb' 36 5, w.extractLsb' 30 6⟩ : DstSpec) = f := by
    simp only [w, extract_skip, extract_last, Nat.reduceLeDiff, Nat.reduceSub]
  exact h
theorem opTqCancel_pack (op : BitVec 7) (f : DstSpec) : (packTqCancel op f).extractLsb' 41 7 = op := by
  let w := op ++ f.sd ++ f.h ++ 0#30
  have h : w.extractLsb' 41 7 = op := by
    simp only [w, extract_skip, extract_all, Nat.reduceLeDiff, Nat.reduceSub]
  exact h
theorem fixedTqCancel_pack (op : BitVec 7) (f : DstSpec) : fixedTqCancel (packTqCancel op f) = true := by
  let w := op ++ f.sd ++ f.h ++ 0#30
  have h0 : w.extractLsb' 0 30 = 0 := by
    first
      | (simp only [w, extract_skip, extract_last, Nat.reduceLeDiff, Nat.reduceSub]; done)
      | (simp only [w, extract_skip, extract_last, Nat.reduceLeDiff, Nat.reduceSub]; rfl)
      | (apply BitVec.eq_of_getLsbD_eq
         intro i hi
         simp only [w, BitVec.getLsbD_extractLsb', BitVec.getLsbD_append, Nat.zero_add, hi, decide_true, Bool.true_and]
         repeat' split
         all_goals first | omega | simp)
  simp only [fixedTqCancel, beq_iff_eq, Bool.and_eq_true]
  exact h0

theorem unpackJobWait_pack (op : BitVec 7) (f : JobWaitF) : unpackJobWait (packJobWait op f) = f := by
  let w := op ++ 0#5 ++ f.j ++ 0#2 ++ f.scope ++ 0#25
  have h : (⟨w.extractLsb' 30 6, w.extractLsb' 25 3⟩ : JobWaitF) = f := by
    simp only [w, extract_skip, extract_last, Nat.reduceLeDiff, Nat.reduceSub]
  exact h
theorem opJobWait_pack (op : BitVec 7) (f : JobWaitF) : (packJobWait op f).extractLsb' 41 7 = op := by
  let w := op ++ 0#5 ++ f.j ++ 0#2 ++ f.scope ++ 0#25
  have h : w.extractLsb' 41 7 = op := by
    simp only [w, extract_skip, extract_all, Nat.reduceLeDiff, Nat.reduceSub]
  exact h
theorem fixedJobWait_pack (op : BitVec 7) (f : JobWaitF) : fixedJobWait (packJobWait op f) = true := by
  let w := op ++ 0#5 ++ f.j ++ 0#2 ++ f.scope ++ 0#25
  have h0 : w.extractLsb' 36 5 = 0 := by
    first
      | (simp only [w, extract_skip, extract_last, Nat.reduceLeDiff, Nat.reduceSub]; done)
      | (simp only [w, extract_skip, extract_last, Nat.reduceLeDiff, Nat.reduceSub]; rfl)
      | (apply BitVec.eq_of_getLsbD_eq
         intro i hi
         simp only [w, BitVec.getLsbD_extractLsb', BitVec.getLsbD_append, Nat.zero_add, hi, decide_true, Bool.true_and]
         repeat' split
         all_goals first | omega | simp)
  have h1 : w.extractLsb' 28 2 = 0 := by
    first
      | (simp only [w, extract_skip, extract_last, Nat.reduceLeDiff, Nat.reduceSub]; done)
      | (simp only [w, extract_skip, extract_last, Nat.reduceLeDiff, Nat.reduceSub]; rfl)
      | (apply BitVec.eq_of_getLsbD_eq
         intro i hi
         simp only [w, BitVec.getLsbD_extractLsb', BitVec.getLsbD_append, Nat.zero_add, hi, decide_true, Bool.true_and]
         repeat' split
         all_goals first | omega | simp)
  have h2 : w.extractLsb' 0 25 = 0 := by
    first
      | (simp only [w, extract_skip, extract_last, Nat.reduceLeDiff, Nat.reduceSub]; done)
      | (simp only [w, extract_skip, extract_last, Nat.reduceLeDiff, Nat.reduceSub]; rfl)
      | (apply BitVec.eq_of_getLsbD_eq
         intro i hi
         simp only [w, BitVec.getLsbD_extractLsb', BitVec.getLsbD_append, Nat.zero_add, hi, decide_true, Bool.true_and]
         repeat' split
         all_goals first | omega | simp)
  simp only [fixedJobWait, beq_iff_eq, Bool.and_eq_true]
  exact ⟨⟨h0, h1⟩, h2⟩

theorem unpackJobRd_pack (op : BitVec 7) (f : DstSpec) : unpackJobRd (packJobRd op f) = f := by
  let w := op ++ f.sd ++ f.h ++ 1#2 ++ 0#3 ++ 0#25
  have h : (⟨w.extractLsb' 36 5, w.extractLsb' 30 6⟩ : DstSpec) = f := by
    simp only [w, extract_skip, extract_last, Nat.reduceLeDiff, Nat.reduceSub]
  exact h
theorem opJobRd_pack (op : BitVec 7) (f : DstSpec) : (packJobRd op f).extractLsb' 41 7 = op := by
  let w := op ++ f.sd ++ f.h ++ 1#2 ++ 0#3 ++ 0#25
  have h : w.extractLsb' 41 7 = op := by
    simp only [w, extract_skip, extract_all, Nat.reduceLeDiff, Nat.reduceSub]
  exact h
theorem fixedJobRd_pack (op : BitVec 7) (f : DstSpec) : fixedJobRd (packJobRd op f) = true := by
  let w := op ++ f.sd ++ f.h ++ 1#2 ++ 0#3 ++ 0#25
  have h0 : w.extractLsb' 28 2 = 1 := by
    first
      | (simp only [w, extract_skip, extract_last, Nat.reduceLeDiff, Nat.reduceSub]; done)
      | (simp only [w, extract_skip, extract_last, Nat.reduceLeDiff, Nat.reduceSub]; rfl)
      | (apply BitVec.eq_of_getLsbD_eq
         intro i hi
         simp only [w, BitVec.getLsbD_extractLsb', BitVec.getLsbD_append, Nat.zero_add, hi, decide_true, Bool.true_and]
         repeat' split
         all_goals first | omega | simp)
  have h1 : w.extractLsb' 0 28 = 0 := by
    first
      | (simp only [w, extract_skip, extract_last, Nat.reduceLeDiff, Nat.reduceSub]; done)
      | (simp only [w, extract_skip, extract_last, Nat.reduceLeDiff, Nat.reduceSub]; rfl)
      | (apply BitVec.eq_of_getLsbD_eq
         intro i hi
         simp only [w, BitVec.getLsbD_extractLsb', BitVec.getLsbD_append, Nat.zero_add, hi, decide_true, Bool.true_and]
         repeat' split
         all_goals first | omega | simp)
  simp only [fixedJobRd, beq_iff_eq, Bool.and_eq_true]
  exact ⟨h0, h1⟩

theorem unpackEvPost_pack (op : BitVec 7) (f : EvPostF) : unpackEvPost (packEvPost op f) = f := by
  let w := op ++ f.c ++ f.v ++ 0#29
  have h : (⟨w.extractLsb' 35 6, w.extractLsb' 29 6⟩ : EvPostF) = f := by
    simp only [w, extract_skip, extract_last, Nat.reduceLeDiff, Nat.reduceSub]
  exact h
theorem opEvPost_pack (op : BitVec 7) (f : EvPostF) : (packEvPost op f).extractLsb' 41 7 = op := by
  let w := op ++ f.c ++ f.v ++ 0#29
  have h : w.extractLsb' 41 7 = op := by
    simp only [w, extract_skip, extract_all, Nat.reduceLeDiff, Nat.reduceSub]
  exact h
theorem fixedEvPost_pack (op : BitVec 7) (f : EvPostF) : fixedEvPost (packEvPost op f) = true := by
  let w := op ++ f.c ++ f.v ++ 0#29
  have h0 : w.extractLsb' 0 29 = 0 := by
    first
      | (simp only [w, extract_skip, extract_last, Nat.reduceLeDiff, Nat.reduceSub]; done)
      | (simp only [w, extract_skip, extract_last, Nat.reduceLeDiff, Nat.reduceSub]; rfl)
      | (apply BitVec.eq_of_getLsbD_eq
         intro i hi
         simp only [w, BitVec.getLsbD_extractLsb', BitVec.getLsbD_append, Nat.zero_add, hi, decide_true, Bool.true_and]
         repeat' split
         all_goals first | omega | simp)
  simp only [fixedEvPost, beq_iff_eq, Bool.and_eq_true]
  exact h0

theorem unpackEvWait_pack (op : BitVec 7) (f : EvWaitF) : unpackEvWait (packEvWait op f) = f := by
  let w := op ++ f.sd ++ f.nb ++ 0#35
  have h : (⟨w.extractLsb' 36 5, w.extractLsb' 35 1⟩ : EvWaitF) = f := by
    simp only [w, extract_skip, extract_last, Nat.reduceLeDiff, Nat.reduceSub]
  exact h
theorem opEvWait_pack (op : BitVec 7) (f : EvWaitF) : (packEvWait op f).extractLsb' 41 7 = op := by
  let w := op ++ f.sd ++ f.nb ++ 0#35
  have h : w.extractLsb' 41 7 = op := by
    simp only [w, extract_skip, extract_all, Nat.reduceLeDiff, Nat.reduceSub]
  exact h
theorem fixedEvWait_pack (op : BitVec 7) (f : EvWaitF) : fixedEvWait (packEvWait op f) = true := by
  let w := op ++ f.sd ++ f.nb ++ 0#35
  have h0 : w.extractLsb' 0 35 = 0 := by
    first
      | (simp only [w, extract_skip, extract_last, Nat.reduceLeDiff, Nat.reduceSub]; done)
      | (simp only [w, extract_skip, extract_last, Nat.reduceLeDiff, Nat.reduceSub]; rfl)
      | (apply BitVec.eq_of_getLsbD_eq
         intro i hi
         simp only [w, BitVec.getLsbD_extractLsb', BitVec.getLsbD_append, Nat.zero_add, hi, decide_true, Bool.true_and]
         repeat' split
         all_goals first | omega | simp)
  simp only [fixedEvWait, beq_iff_eq, Bool.and_eq_true]
  exact h0

theorem unpackKLaunchX_pack (op : BitVec 7) (f : KLaunchF) : unpackKLaunchX (packKLaunchX op f) = f := by
  let w := op ++ f.sd ++ 0#2 ++ f.ar ++ f.sp ++ 0#24
  have h : (⟨w.extractLsb' 36 5, w.extractLsb' 30 4, w.extractLsb' 24 6⟩ : KLaunchF) = f := by
    simp only [w, extract_skip, extract_last, Nat.reduceLeDiff, Nat.reduceSub]
  exact h
theorem opKLaunchX_pack (op : BitVec 7) (f : KLaunchF) : (packKLaunchX op f).extractLsb' 41 7 = op := by
  let w := op ++ f.sd ++ 0#2 ++ f.ar ++ f.sp ++ 0#24
  have h : w.extractLsb' 41 7 = op := by
    simp only [w, extract_skip, extract_all, Nat.reduceLeDiff, Nat.reduceSub]
  exact h
theorem fixedKLaunchX_pack (op : BitVec 7) (f : KLaunchF) : fixedKLaunchX (packKLaunchX op f) = true := by
  let w := op ++ f.sd ++ 0#2 ++ f.ar ++ f.sp ++ 0#24
  have h0 : w.extractLsb' 34 2 = 0 := by
    first
      | (simp only [w, extract_skip, extract_last, Nat.reduceLeDiff, Nat.reduceSub]; done)
      | (simp only [w, extract_skip, extract_last, Nat.reduceLeDiff, Nat.reduceSub]; rfl)
      | (apply BitVec.eq_of_getLsbD_eq
         intro i hi
         simp only [w, BitVec.getLsbD_extractLsb', BitVec.getLsbD_append, Nat.zero_add, hi, decide_true, Bool.true_and]
         repeat' split
         all_goals first | omega | simp)
  have h1 : w.extractLsb' 0 24 = 0 := by
    first
      | (simp only [w, extract_skip, extract_last, Nat.reduceLeDiff, Nat.reduceSub]; done)
      | (simp only [w, extract_skip, extract_last, Nat.reduceLeDiff, Nat.reduceSub]; rfl)
      | (apply BitVec.eq_of_getLsbD_eq
         intro i hi
         simp only [w, BitVec.getLsbD_extractLsb', BitVec.getLsbD_append, Nat.zero_add, hi, decide_true, Bool.true_and]
         repeat' split
         all_goals first | omega | simp)
  simp only [fixedKLaunchX, beq_iff_eq, Bool.and_eq_true]
  exact ⟨h0, h1⟩

theorem unpackKLaunchK_pack (op : BitVec 7) (f : KLaunchF) : unpackKLaunchK (packKLaunchK op f) = f := by
  let w := op ++ f.sd ++ 1#2 ++ f.ar ++ f.sp ++ 0#24
  have h : (⟨w.extractLsb' 36 5, w.extractLsb' 30 4, w.extractLsb' 24 6⟩ : KLaunchF) = f := by
    simp only [w, extract_skip, extract_last, Nat.reduceLeDiff, Nat.reduceSub]
  exact h
theorem opKLaunchK_pack (op : BitVec 7) (f : KLaunchF) : (packKLaunchK op f).extractLsb' 41 7 = op := by
  let w := op ++ f.sd ++ 1#2 ++ f.ar ++ f.sp ++ 0#24
  have h : w.extractLsb' 41 7 = op := by
    simp only [w, extract_skip, extract_all, Nat.reduceLeDiff, Nat.reduceSub]
  exact h
theorem fixedKLaunchK_pack (op : BitVec 7) (f : KLaunchF) : fixedKLaunchK (packKLaunchK op f) = true := by
  let w := op ++ f.sd ++ 1#2 ++ f.ar ++ f.sp ++ 0#24
  have h0 : w.extractLsb' 34 2 = 1 := by
    first
      | (simp only [w, extract_skip, extract_last, Nat.reduceLeDiff, Nat.reduceSub]; done)
      | (simp only [w, extract_skip, extract_last, Nat.reduceLeDiff, Nat.reduceSub]; rfl)
      | (apply BitVec.eq_of_getLsbD_eq
         intro i hi
         simp only [w, BitVec.getLsbD_extractLsb', BitVec.getLsbD_append, Nat.zero_add, hi, decide_true, Bool.true_and]
         repeat' split
         all_goals first | omega | simp)
  have h1 : w.extractLsb' 0 24 = 0 := by
    first
      | (simp only [w, extract_skip, extract_last, Nat.reduceLeDiff, Nat.reduceSub]; done)
      | (simp only [w, extract_skip, extract_last, Nat.reduceLeDiff, Nat.reduceSub]; rfl)
      | (apply BitVec.eq_of_getLsbD_eq
         intro i hi
         simp only [w, BitVec.getLsbD_extractLsb', BitVec.getLsbD_append, Nat.zero_add, hi, decide_true, Bool.true_and]
         repeat' split
         all_goals first | omega | simp)
  simp only [fixedKLaunchK, beq_iff_eq, Bool.and_eq_true]
  exact ⟨h0, h1⟩

theorem unpackKLaunchR_pack (op : BitVec 7) (f : KLaunchF) : unpackKLaunchR (packKLaunchR op f) = f := by
  let w := op ++ f.sd ++ 2#2 ++ f.ar ++ f.sp ++ 0#24
  have h : (⟨w.extractLsb' 36 5, w.extractLsb' 30 4, w.extractLsb' 24 6⟩ : KLaunchF) = f := by
    simp only [w, extract_skip, extract_last, Nat.reduceLeDiff, Nat.reduceSub]
  exact h
theorem opKLaunchR_pack (op : BitVec 7) (f : KLaunchF) : (packKLaunchR op f).extractLsb' 41 7 = op := by
  let w := op ++ f.sd ++ 2#2 ++ f.ar ++ f.sp ++ 0#24
  have h : w.extractLsb' 41 7 = op := by
    simp only [w, extract_skip, extract_all, Nat.reduceLeDiff, Nat.reduceSub]
  exact h
theorem fixedKLaunchR_pack (op : BitVec 7) (f : KLaunchF) : fixedKLaunchR (packKLaunchR op f) = true := by
  let w := op ++ f.sd ++ 2#2 ++ f.ar ++ f.sp ++ 0#24
  have h0 : w.extractLsb' 34 2 = 2 := by
    first
      | (simp only [w, extract_skip, extract_last, Nat.reduceLeDiff, Nat.reduceSub]; done)
      | (simp only [w, extract_skip, extract_last, Nat.reduceLeDiff, Nat.reduceSub]; rfl)
      | (apply BitVec.eq_of_getLsbD_eq
         intro i hi
         simp only [w, BitVec.getLsbD_extractLsb', BitVec.getLsbD_append, Nat.zero_add, hi, decide_true, Bool.true_and]
         repeat' split
         all_goals first | omega | simp)
  have h1 : w.extractLsb' 0 24 = 0 := by
    first
      | (simp only [w, extract_skip, extract_last, Nat.reduceLeDiff, Nat.reduceSub]; done)
      | (simp only [w, extract_skip, extract_last, Nat.reduceLeDiff, Nat.reduceSub]; rfl)
      | (apply BitVec.eq_of_getLsbD_eq
         intro i hi
         simp only [w, BitVec.getLsbD_extractLsb', BitVec.getLsbD_append, Nat.zero_add, hi, decide_true, Bool.true_and]
         repeat' split
         all_goals first | omega | simp)
  simp only [fixedKLaunchR, beq_iff_eq, Bool.and_eq_true]
  exact ⟨h0, h1⟩

theorem unpackEmit_pack (op : BitVec 7) (f : EmitF) : unpackEmit (packEmit op f) = f := by
  let w := op ++ f.sd ++ f.value ++ f.stream ++ f.ring ++ 0#2 ++ f.nb ++ 0#17
  have h : (⟨w.extractLsb' 36 5, w.extractLsb' 30 6, w.extractLsb' 24 6, w.extractLsb' 20 4, w.extractLsb' 17 1⟩ : EmitF) = f := by
    simp only [w, extract_skip, extract_last, Nat.reduceLeDiff, Nat.reduceSub]
  exact h
theorem opEmit_pack (op : BitVec 7) (f : EmitF) : (packEmit op f).extractLsb' 41 7 = op := by
  let w := op ++ f.sd ++ f.value ++ f.stream ++ f.ring ++ 0#2 ++ f.nb ++ 0#17
  have h : w.extractLsb' 41 7 = op := by
    simp only [w, extract_skip, extract_all, Nat.reduceLeDiff, Nat.reduceSub]
  exact h
theorem fixedEmit_pack (op : BitVec 7) (f : EmitF) : fixedEmit (packEmit op f) = true := by
  let w := op ++ f.sd ++ f.value ++ f.stream ++ f.ring ++ 0#2 ++ f.nb ++ 0#17
  have h0 : w.extractLsb' 18 2 = 0 := by
    first
      | (simp only [w, extract_skip, extract_last, Nat.reduceLeDiff, Nat.reduceSub]; done)
      | (simp only [w, extract_skip, extract_last, Nat.reduceLeDiff, Nat.reduceSub]; rfl)
      | (apply BitVec.eq_of_getLsbD_eq
         intro i hi
         simp only [w, BitVec.getLsbD_extractLsb', BitVec.getLsbD_append, Nat.zero_add, hi, decide_true, Bool.true_and]
         repeat' split
         all_goals first | omega | simp)
  have h1 : w.extractLsb' 0 17 = 0 := by
    first
      | (simp only [w, extract_skip, extract_last, Nat.reduceLeDiff, Nat.reduceSub]; done)
      | (simp only [w, extract_skip, extract_last, Nat.reduceLeDiff, Nat.reduceSub]; rfl)
      | (apply BitVec.eq_of_getLsbD_eq
         intro i hi
         simp only [w, BitVec.getLsbD_extractLsb', BitVec.getLsbD_append, Nat.zero_add, hi, decide_true, Bool.true_and]
         repeat' split
         all_goals first | omega | simp)
  simp only [fixedEmit, beq_iff_eq, Bool.and_eq_true]
  exact ⟨h0, h1⟩

theorem unpackFlush_pack (op : BitVec 7) (f : FlushF) : unpackFlush (packFlush op f) = f := by
  let w := op ++ 0#5 ++ 0#6 ++ 0#6 ++ f.ring ++ 1#2 ++ 0#1 ++ 0#17
  have h : (⟨w.extractLsb' 20 4⟩ : FlushF) = f := by
    simp only [w, extract_skip, extract_last, Nat.reduceLeDiff, Nat.reduceSub]
  exact h
theorem opFlush_pack (op : BitVec 7) (f : FlushF) : (packFlush op f).extractLsb' 41 7 = op := by
  let w := op ++ 0#5 ++ 0#6 ++ 0#6 ++ f.ring ++ 1#2 ++ 0#1 ++ 0#17
  have h : w.extractLsb' 41 7 = op := by
    simp only [w, extract_skip, extract_all, Nat.reduceLeDiff, Nat.reduceSub]
  exact h
theorem fixedFlush_pack (op : BitVec 7) (f : FlushF) : fixedFlush (packFlush op f) = true := by
  let w := op ++ 0#5 ++ 0#6 ++ 0#6 ++ f.ring ++ 1#2 ++ 0#1 ++ 0#17
  have h0 : w.extractLsb' 24 17 = 0 := by
    first
      | (simp only [w, extract_skip, extract_last, Nat.reduceLeDiff, Nat.reduceSub]; done)
      | (simp only [w, extract_skip, extract_last, Nat.reduceLeDiff, Nat.reduceSub]; rfl)
      | (apply BitVec.eq_of_getLsbD_eq
         intro i hi
         simp only [w, BitVec.getLsbD_extractLsb', BitVec.getLsbD_append, Nat.zero_add, hi, decide_true, Bool.true_and]
         repeat' split
         all_goals first | omega | simp)
  have h1 : w.extractLsb' 18 2 = 1 := by
    first
      | (simp only [w, extract_skip, extract_last, Nat.reduceLeDiff, Nat.reduceSub]; done)
      | (simp only [w, extract_skip, extract_last, Nat.reduceLeDiff, Nat.reduceSub]; rfl)
      | (apply BitVec.eq_of_getLsbD_eq
         intro i hi
         simp only [w, BitVec.getLsbD_extractLsb', BitVec.getLsbD_append, Nat.zero_add, hi, decide_true, Bool.true_and]
         repeat' split
         all_goals first | omega | simp)
  have h2 : w.extractLsb' 0 18 = 0 := by
    first
      | (simp only [w, extract_skip, extract_last, Nat.reduceLeDiff, Nat.reduceSub]; done)
      | (simp only [w, extract_skip, extract_last, Nat.reduceLeDiff, Nat.reduceSub]; rfl)
      | (apply BitVec.eq_of_getLsbD_eq
         intro i hi
         simp only [w, BitVec.getLsbD_extractLsb', BitVec.getLsbD_append, Nat.zero_add, hi, decide_true, Bool.true_and]
         repeat' split
         all_goals first | omega | simp)
  simp only [fixedFlush, beq_iff_eq, Bool.and_eq_true]
  exact ⟨⟨h0, h1⟩, h2⟩

theorem unpackFree_pack (op : BitVec 7) (f : FreeF) : unpackFree (packFree op f) = f := by
  let w := op ++ f.sd ++ 0#6 ++ 0#6 ++ f.ring ++ 2#2 ++ 0#1 ++ 0#17
  have h : (⟨w.extractLsb' 36 5, w.extractLsb' 20 4⟩ : FreeF) = f := by
    simp only [w, extract_skip, extract_last, Nat.reduceLeDiff, Nat.reduceSub]
  exact h
theorem opFree_pack (op : BitVec 7) (f : FreeF) : (packFree op f).extractLsb' 41 7 = op := by
  let w := op ++ f.sd ++ 0#6 ++ 0#6 ++ f.ring ++ 2#2 ++ 0#1 ++ 0#17
  have h : w.extractLsb' 41 7 = op := by
    simp only [w, extract_skip, extract_all, Nat.reduceLeDiff, Nat.reduceSub]
  exact h
theorem fixedFree_pack (op : BitVec 7) (f : FreeF) : fixedFree (packFree op f) = true := by
  let w := op ++ f.sd ++ 0#6 ++ 0#6 ++ f.ring ++ 2#2 ++ 0#1 ++ 0#17
  have h0 : w.extractLsb' 24 12 = 0 := by
    first
      | (simp only [w, extract_skip, extract_last, Nat.reduceLeDiff, Nat.reduceSub]; done)
      | (simp only [w, extract_skip, extract_last, Nat.reduceLeDiff, Nat.reduceSub]; rfl)
      | (apply BitVec.eq_of_getLsbD_eq
         intro i hi
         simp only [w, BitVec.getLsbD_extractLsb', BitVec.getLsbD_append, Nat.zero_add, hi, decide_true, Bool.true_and]
         repeat' split
         all_goals first | omega | simp)
  have h1 : w.extractLsb' 18 2 = 2 := by
    first
      | (simp only [w, extract_skip, extract_last, Nat.reduceLeDiff, Nat.reduceSub]; done)
      | (simp only [w, extract_skip, extract_last, Nat.reduceLeDiff, Nat.reduceSub]; rfl)
      | (apply BitVec.eq_of_getLsbD_eq
         intro i hi
         simp only [w, BitVec.getLsbD_extractLsb', BitVec.getLsbD_append, Nat.zero_add, hi, decide_true, Bool.true_and]
         repeat' split
         all_goals first | omega | simp)
  have h2 : w.extractLsb' 0 18 = 0 := by
    first
      | (simp only [w, extract_skip, extract_last, Nat.reduceLeDiff, Nat.reduceSub]; done)
      | (simp only [w, extract_skip, extract_last, Nat.reduceLeDiff, Nat.reduceSub]; rfl)
      | (apply BitVec.eq_of_getLsbD_eq
         intro i hi
         simp only [w, BitVec.getLsbD_extractLsb', BitVec.getLsbD_append, Nat.zero_add, hi, decide_true, Bool.true_and]
         repeat' split
         all_goals first | omega | simp)
  simp only [fixedFree, beq_iff_eq, Bool.and_eq_true]
  exact ⟨⟨h0, h1⟩, h2⟩

theorem unpackSrGen_pack (op : BitVec 7) (f : SrGenF) : unpackSrGen (packSrGen op f) = f := by
  let w := op ++ f.ak ++ f.ac ++ 0#33
  have h : (⟨w.extractLsb' 37 4, w.extractLsb' 33 4⟩ : SrGenF) = f := by
    simp only [w, extract_skip, extract_last, Nat.reduceLeDiff, Nat.reduceSub]
  exact h
theorem opSrGen_pack (op : BitVec 7) (f : SrGenF) : (packSrGen op f).extractLsb' 41 7 = op := by
  let w := op ++ f.ak ++ f.ac ++ 0#33
  have h : w.extractLsb' 41 7 = op := by
    simp only [w, extract_skip, extract_all, Nat.reduceLeDiff, Nat.reduceSub]
  exact h
theorem fixedSrGen_pack (op : BitVec 7) (f : SrGenF) : fixedSrGen (packSrGen op f) = true := by
  let w := op ++ f.ak ++ f.ac ++ 0#33
  have h0 : w.extractLsb' 0 33 = 0 := by
    first
      | (simp only [w, extract_skip, extract_last, Nat.reduceLeDiff, Nat.reduceSub]; done)
      | (simp only [w, extract_skip, extract_last, Nat.reduceLeDiff, Nat.reduceSub]; rfl)
      | (apply BitVec.eq_of_getLsbD_eq
         intro i hi
         simp only [w, BitVec.getLsbD_extractLsb', BitVec.getLsbD_append, Nat.zero_add, hi, decide_true, Bool.true_and]
         repeat' split
         all_goals first | omega | simp)
  simp only [fixedSrGen, beq_iff_eq, Bool.and_eq_true]
  exact h0
theorem selDSetS_pack (op : BitVec 7) (f : DSetS) : (packDSetS op f).extractLsb' 32 1 = 0#1 := by
  let w := op ++ f.dn ++ f.w ++ 0#1 ++ f.sp ++ 0#26
  have h : w.extractLsb' 32 1 = 0#1 := by
    simp only [w, extract_skip, extract_last, Nat.reduceLeDiff, Nat.reduceSub]
  exact h
theorem selDSetA_pack (op : BitVec 7) (f : DSetA) : (packDSetA op f).extractLsb' 32 1 = 1#1 := by
  let w := op ++ f.dn ++ f.w ++ 1#1 ++ 0#2 ++ f.am ++ 0#26
  have h : w.extractLsb' 32 1 = 1#1 := by
    simp only [w, extract_skip, extract_last, Nat.reduceLeDiff, Nat.reduceSub]
  exact h
theorem selForceH_pack (op : BitVec 7) (f : SpecF) : (packForceH op f).extractLsb' 40 1 = 0#1 := by
  let w := op ++ 0#1 ++ f.h ++ 0#4 ++ 0#30
  have h : w.extractLsb' 40 1 = 0#1 := by
    simp only [w, extract_skip, extract_last, Nat.reduceLeDiff, Nat.reduceSub]
  exact h
theorem selForceR_pack (op : BitVec 7) (f : DescF) : (packForceR op f).extractLsb' 40 1 = 1#1 := by
  let w := op ++ 1#1 ++ 0#6 ++ f.dn ++ 0#30
  have h : w.extractLsb' 40 1 = 1#1 := by
    simp only [w, extract_skip, extract_last, Nat.reduceLeDiff, Nat.reduceSub]
  exact h
theorem selTStatN_pack (op : BitVec 7) (f : DstSpec) : (packTStatN op f).extractLsb' 28 2 = 0#2 := by
  let w := op ++ f.sd ++ f.h ++ 0#2 ++ 0#4 ++ 0#24
  have h : w.extractLsb' 28 2 = 0#2 := by
    simp only [w, extract_skip, extract_last, Nat.reduceLeDiff, Nat.reduceSub]
  exact h
theorem selTStatT_pack (op : BitVec 7) (f : DstOnly) : (packTStatT op f).extractLsb' 28 2 = 1#2 := by
  let w := op ++ f.sd ++ 0#6 ++ 1#2 ++ 0#4 ++ 0#24
  have h : w.extractLsb' 28 2 = 1#2 := by
    simp only [w, extract_skip, extract_last, Nat.reduceLeDiff, Nat.reduceSub]
  exact h
theorem selTStatD_pack (op : BitVec 7) (f : DstWord) : (packTStatD op f).extractLsb' 28 2 = 2#2 := by
  let w := op ++ f.sd ++ 0#6 ++ 2#2 ++ f.w ++ 0#24
  have h : w.extractLsb' 28 2 = 2#2 := by
    simp only [w, extract_skip, extract_last, Nat.reduceLeDiff, Nat.reduceSub]
  exact h
theorem selCpyB_pack (op : BitVec 7) (f : CpyByteF) : (packCpyB op f).extractLsb' 35 1 = 0#1 := by
  let w := op ++ f.ps ++ 0#1 ++ f.x ++ f.y ++ f.len ++ f.ev ++ 0#20
  have h : w.extractLsb' 35 1 = 0#1 := by
    simp only [w, extract_skip, extract_last, Nat.reduceLeDiff, Nat.reduceSub]
  exact h
theorem selCpyT_pack (op : BitVec 7) (f : CpyTileF) : (packCpyT op f).extractLsb' 35 1 = 1#1 := by
  let w := op ++ f.ps ++ 1#1 ++ f.x ++ f.y ++ 0#6 ++ f.ev ++ 0#20
  have h : w.extractLsb' 35 1 = 1#1 := by
    simp only [w, extract_skip, extract_last, Nat.reduceLeDiff, Nat.reduceSub]
  exact h
theorem selBatonW_pack (op : BitVec 7) (f : BatonF) : (packBatonW op f).extractLsb' 22 2 = 0#2 := by
  let w := op ++ f.sd ++ f.h ++ f.k ++ 0#2 ++ 0#22
  have h : w.extractLsb' 22 2 = 0#2 := by
    simp only [w, extract_skip, extract_last, Nat.reduceLeDiff, Nat.reduceSub]
  exact h
theorem selBatonG_pack (op : BitVec 7) (f : BatonF) : (packBatonG op f).extractLsb' 22 2 = 1#2 := by
  let w := op ++ f.sd ++ f.h ++ f.k ++ 1#2 ++ 0#22
  have h : w.extractLsb' 22 2 = 1#2 := by
    simp only [w, extract_skip, extract_last, Nat.reduceLeDiff, Nat.reduceSub]
  exact h
theorem selBatonS_pack (op : BitVec 7) (f : BatonF) : (packBatonS op f).extractLsb' 22 2 = 2#2 := by
  let w := op ++ f.sd ++ f.h ++ f.k ++ 2#2 ++ 0#22
  have h : w.extractLsb' 22 2 = 2#2 := by
    simp only [w, extract_skip, extract_last, Nat.reduceLeDiff, Nat.reduceSub]
  exact h
theorem selRlStat_pack (op : BitVec 7) (f : DstSpec) : (packRlStat op f).extractLsb' 28 2 = 0#2 := by
  let w := op ++ f.sd ++ f.h ++ 0#2 ++ 0#28
  have h : w.extractLsb' 28 2 = 0#2 := by
    simp only [w, extract_skip, extract_last, Nat.reduceLeDiff, Nat.reduceSub]
  exact h
theorem selRlWhy_pack (op : BitVec 7) (f : DstSpec) : (packRlWhy op f).extractLsb' 28 2 = 1#2 := by
  let w := op ++ f.sd ++ f.h ++ 1#2 ++ 0#28
  have h : w.extractLsb' 28 2 = 1#2 := by
    simp only [w, extract_skip, extract_last, Nat.reduceLeDiff, Nat.reduceSub]
  exact h
theorem selJobWait_pack (op : BitVec 7) (f : JobWaitF) : (packJobWait op f).extractLsb' 28 2 = 0#2 := by
  let w := op ++ 0#5 ++ f.j ++ 0#2 ++ f.scope ++ 0#25
  have h : w.extractLsb' 28 2 = 0#2 := by
    simp only [w, extract_skip, extract_last, Nat.reduceLeDiff, Nat.reduceSub]
  exact h
theorem selJobRd_pack (op : BitVec 7) (f : DstSpec) : (packJobRd op f).extractLsb' 28 2 = 1#2 := by
  let w := op ++ f.sd ++ f.h ++ 1#2 ++ 0#3 ++ 0#25
  have h : w.extractLsb' 28 2 = 1#2 := by
    simp only [w, extract_skip, extract_last, Nat.reduceLeDiff, Nat.reduceSub]
  exact h
theorem selKLaunchX_pack (op : BitVec 7) (f : KLaunchF) : (packKLaunchX op f).extractLsb' 34 2 = 0#2 := by
  let w := op ++ f.sd ++ 0#2 ++ f.ar ++ f.sp ++ 0#24
  have h : w.extractLsb' 34 2 = 0#2 := by
    simp only [w, extract_skip, extract_last, Nat.reduceLeDiff, Nat.reduceSub]
  exact h
theorem selKLaunchK_pack (op : BitVec 7) (f : KLaunchF) : (packKLaunchK op f).extractLsb' 34 2 = 1#2 := by
  let w := op ++ f.sd ++ 1#2 ++ f.ar ++ f.sp ++ 0#24
  have h : w.extractLsb' 34 2 = 1#2 := by
    simp only [w, extract_skip, extract_last, Nat.reduceLeDiff, Nat.reduceSub]
  exact h
theorem selKLaunchR_pack (op : BitVec 7) (f : KLaunchF) : (packKLaunchR op f).extractLsb' 34 2 = 2#2 := by
  let w := op ++ f.sd ++ 2#2 ++ f.ar ++ f.sp ++ 0#24
  have h : w.extractLsb' 34 2 = 2#2 := by
    simp only [w, extract_skip, extract_last, Nat.reduceLeDiff, Nat.reduceSub]
  exact h
theorem selEmit_pack (op : BitVec 7) (f : EmitF) : (packEmit op f).extractLsb' 18 2 = 0#2 := by
  let w := op ++ f.sd ++ f.value ++ f.stream ++ f.ring ++ 0#2 ++ f.nb ++ 0#17
  have h : w.extractLsb' 18 2 = 0#2 := by
    simp only [w, extract_skip, extract_last, Nat.reduceLeDiff, Nat.reduceSub]
  exact h
theorem selFlush_pack (op : BitVec 7) (f : FlushF) : (packFlush op f).extractLsb' 18 2 = 1#2 := by
  let w := op ++ 0#5 ++ 0#6 ++ 0#6 ++ f.ring ++ 1#2 ++ 0#1 ++ 0#17
  have h : w.extractLsb' 18 2 = 1#2 := by
    simp only [w, extract_skip, extract_last, Nat.reduceLeDiff, Nat.reduceSub]
  exact h
theorem selFree_pack (op : BitVec 7) (f : FreeF) : (packFree op f).extractLsb' 18 2 = 2#2 := by
  let w := op ++ f.sd ++ 0#6 ++ 0#6 ++ f.ring ++ 2#2 ++ 0#1 ++ 0#17
  have h : w.extractLsb' 18 2 = 2#2 := by
    simp only [w, extract_skip, extract_last, Nat.reduceLeDiff, Nat.reduceSub]
  exact h

end Sys2Proof.Laws
end

