-- ==== Sys2Proof/Laws/Memory.lean ====
section
/-! SUPPORT. Memory: every operation keeps the canonical form, a read after a write gives what was
written, and equal contents are equal lists (log entry 4). -/

namespace Sys2Proof.Machine

/-! ## Bounds -/

theorem memAbove_trans {k j : Nat} (h : k < j) : ∀ {m : List Host.Cell}, memAbove j m = true → memAbove k m = true
  | [], _ => rfl
  | (i, _) :: _, hm => by simp only [memAbove, decide_eq_true_eq] at *; omega

theorem wf_cons {j : Nat} {b : Byte} {m : List Host.Cell} :
    Memory.wf ((j, b) :: m) = true ↔ memAbove j m = true ∧ b ≠ memDefault ∧ Memory.wf m = true := by
  simp [Memory.wf, and_assoc]

theorem memGet_above {k : Nat} : ∀ {m : List Host.Cell}, Memory.wf m = true → memAbove k m = true → memGet m k = memDefault
  | [], _, _ => rfl
  | (j, b) :: m, hw, ha => by
    have hw := wf_cons.mp hw
    simp only [memAbove, decide_eq_true_eq] at ha
    rw [memGet, if_neg (by omega)]
    exact memGet_above hw.2.2 (memAbove_trans ha hw.1)

/-! ## One byte -/

/-! ## Ranges -/

theorem memFrom_above {k j : Nat} : ∀ {m : List Host.Cell}, Memory.wf m = true → memAbove j m = true →
    memAbove j (memFrom k m) = true
  | [], _, _ => rfl
  | (i, b) :: m, hw, ha => by
    have h := wf_cons.mp hw
    unfold memFrom
    split
    · exact memFrom_above h.2.2 (memAbove_trans (by simpa [memAbove] using ha) h.1)
    · exact ha

theorem memFrom_wf {k : Nat} : ∀ {m : List Host.Cell}, Memory.wf m = true → Memory.wf (memFrom k m) = true
  | [], _ => rfl
  | (i, b) :: m, hw => by
    have h := wf_cons.mp hw
    unfold memFrom
    split
    · exact memFrom_wf h.2.2
    · exact wf_cons.mpr ⟨memFrom_above h.2.2 h.1, h.2.1, memFrom_wf h.2.2⟩

theorem memUpto_above {k j : Nat} : ∀ {m : List Host.Cell}, Memory.wf m = true → memAbove j m = true →
    memAbove j (memUpto k m) = true
  | [], _, _ => rfl
  | (i, b) :: m, hw, ha => by
    have h := wf_cons.mp hw
    unfold memUpto
    split
    · exact ha
    · exact memUpto_above h.2.2 (memAbove_trans (by simpa [memAbove] using ha) h.1)

theorem memGet_memFrom {k a : Nat} : ∀ {m : List Host.Cell},
    memGet (memFrom k m) a = if a < k then memDefault else memGet m a
  | [] => by simp [memFrom, memGet]
  | (i, b) :: m => by
    unfold memFrom
    split
    · rw [memGet_memFrom]
      split
      · rfl
      · rw [memGet, if_neg (by omega)]
    · rw [memGet, memGet_memFrom, memGet]
      split
      · rw [if_neg (by omega)]
      · rfl

theorem memGet_append_left {a : Nat} {m' : List Host.Cell} : ∀ {m : List Host.Cell}, (∀ p ∈ m, p.1 ≠ a) →
    memGet (m ++ m') a = memGet m' a
  | [], _ => rfl
  | (i, b) :: m, h => by
    rw [List.cons_append, memGet, if_neg (h (i, b) (by simp)), memGet_append_left fun p hp => h p (by simp [hp])]

theorem memGet_append_right {a : Nat} {m' : List Host.Cell} : ∀ {m : List Host.Cell}, (∀ p ∈ m', p.1 ≠ a) →
    memGet (m ++ m') a = memGet m a
  | [], h => by
    induction m' with
    | nil => rfl
    | cons p m' ih =>
      obtain ⟨i, b⟩ := p
      show (if i = a then b else memGet m' a) = _
      rw [if_neg (h (i, b) (by simp))]
      exact ih fun p hp => h p (by simp [hp])
  | (i, b) :: m, h => by
    rw [List.cons_append, memGet, memGet, memGet_append_right h]

theorem memUpto_lt {k : Nat} : ∀ {m : List Host.Cell}, ∀ p ∈ memUpto k m, p.1 < k
  | [], p, hp => by simp [memUpto] at hp
  | (i, b) :: m, p, hp => by
    unfold memUpto at hp
    split at hp
    · rcases List.mem_cons.mp hp with rfl | hp
      · assumption
      · exact memUpto_lt p hp
    · exact memUpto_lt p hp

theorem wf_mem_gt {j : Nat} : ∀ {m : List Host.Cell}, Memory.wf m = true → memAbove j m = true → ∀ p ∈ m, j < p.1
  | [], _, _, p, hp => by simp at hp
  | (i, b) :: m, hw, ha, p, hp => by
    have h := wf_cons.mp hw
    have hi : j < i := by simpa [memAbove] using ha
    rcases List.mem_cons.mp hp with rfl | hp
    · exact hi
    · exact Nat.lt_trans hi (wf_mem_gt h.2.2 h.1 p hp)

theorem memFrom_ge {k : Nat} : ∀ {m : List Host.Cell}, ∀ p ∈ memFrom k m, k ≤ p.1
  | [], p, hp => by simp [memFrom] at hp
  | (i, b) :: m, p, hp => by
    unfold memFrom at hp
    split at hp
    · exact memFrom_ge p hp
    · rcases List.mem_cons.mp hp with rfl | hp
      · exact Nat.le_of_not_lt ‹_›
      · exact memFrom_ge p hp

theorem memCells_bounds : ∀ {k : Nat} {bs : List Byte}, ∀ p ∈ memCells k bs, k ≤ p.1 ∧ p.1 < k + bs.length
  | _, [], p, hp => by simp [memCells] at hp
  | k, b :: bs, p, hp => by
    have tail : p ∈ memCells (k + 1) bs → k ≤ p.1 ∧ p.1 < k + (b :: bs).length := fun hp => by
      have := memCells_bounds p hp
      simp only [List.length_cons]; omega
    unfold memCells at hp
    split at hp
    · exact tail hp
    · rcases List.mem_cons.mp hp with rfl | hp
      · simp
      · exact tail hp

theorem memGet_memUpto {k a : Nat} : ∀ {m : List Host.Cell},
    memGet (memUpto k m) a = if a < k then memGet m a else memDefault
  | [] => by simp [memUpto, memGet]
  | (i, b) :: m => by
    unfold memUpto
    split
    · rw [memGet, memGet_memUpto, memGet]
      split
      · next e => subst e; rw [if_pos (by assumption)]
      · rfl
    · rw [memGet_memUpto]
      split
      · rw [memGet, if_neg (by omega)]
      · rfl

theorem memGet_memCells {a : Nat} : ∀ {k : Nat} {bs : List Byte},
    memGet (memCells k bs) a = if k ≤ a then bs.getD (a - k) memDefault else memDefault
  | k, [] => by simp [memCells, memGet]
  | k, b :: bs => by
    have step : memGet (memCells (k + 1) bs) a = if k + 1 ≤ a then bs.getD (a - (k + 1)) memDefault else memDefault :=
      memGet_memCells
    rcases Nat.lt_trichotomy a k with h | h | h
    · rw [if_neg (by omega : ¬ k ≤ a)]
      unfold memCells
      split
      · rw [step, if_neg (by omega)]
      · rw [memGet, if_neg (by omega), step, if_neg (by omega)]
    · subst h
      rw [if_pos (Nat.le_refl a), Nat.sub_self]
      unfold memCells
      split
      · next e => rw [step, if_neg (by omega), List.getD_cons_zero, e]
      · rw [memGet, if_pos rfl, List.getD_cons_zero]
    · rw [if_pos (by omega : k ≤ a), show a - k = (a - (k + 1)) + 1 by omega, List.getD_cons_succ]
      unfold memCells
      split
      · rw [step, if_pos (by omega)]
      · rw [memGet, if_neg (by omega), step, if_pos (by omega)]

/-- A byte after a write of a range: what was written there, and elsewhere what stood before. -/
theorem memGet_memWrite (m : List Host.Cell) (k : Nat) (bs : List Byte) (a : Nat) :
    memGet (memWrite m k bs) a
      = if k ≤ a ∧ a < k + bs.length then bs.getD (a - k) memDefault else memGet m a := by
  have hu := memGet_memUpto (k := k) (a := a) (m := m)
  have hc := memGet_memCells (a := a) (k := k) (bs := bs)
  have hf := memGet_memFrom (k := k + bs.length) (a := a) (m := m)
  unfold memWrite
  rcases Nat.lt_or_ge a k with h1 | h1
  · rw [if_neg (by omega), List.append_assoc, memGet_append_right, hu, if_pos h1]
    intro p hp
    rcases List.mem_append.mp hp with hp | hp
    · have := memCells_bounds p hp; omega
    · have := memFrom_ge p hp; omega
  · rw [List.append_assoc, memGet_append_left fun p hp => by have := memUpto_lt p hp; omega]
    rcases Nat.lt_or_ge a (k + bs.length) with h2 | h2
    · rw [if_pos ⟨h1, h2⟩, memGet_append_right fun p hp => by have := memFrom_ge p hp; omega, hc, if_pos h1]
    · rw [if_neg (by omega), memGet_append_left fun p hp => by have := memCells_bounds p hp; omega, hf,
        if_neg (by omega)]

theorem wf_append {k : Nat} : ∀ {m m' : List Host.Cell}, Memory.wf m = true → Memory.wf m' = true →
    (∀ p ∈ m, p.1 < k) → (∀ p ∈ m', k ≤ p.1) → Memory.wf (m ++ m') = true
  | [], _, _, h', _, _ => h'
  | (i, b) :: m, m', h, h', hl, hr => by
    have hc := wf_cons.mp h
    rw [List.cons_append]
    refine wf_cons.mpr ⟨?_, hc.2.1, wf_append hc.2.2 h' (fun p hp => hl p (by simp [hp])) hr⟩
    cases m with
    | cons q m => exact hc.1
    | nil =>
      cases m' with
      | nil => rfl
      | cons q m' =>
        have h1 := hl (i, b) (by simp)
        have h2 := hr q (by simp)
        simp only [List.nil_append, memAbove, decide_eq_true_eq]
        exact Nat.lt_of_lt_of_le h1 h2

theorem memUpto_wf {k : Nat} : ∀ {m : List Host.Cell}, Memory.wf m = true → Memory.wf (memUpto k m) = true
  | [], _ => rfl
  | (i, b) :: m, hw => by
    have h := wf_cons.mp hw
    unfold memUpto
    split
    · exact wf_cons.mpr ⟨memUpto_above h.2.2 h.1, h.2.1, memUpto_wf h.2.2⟩
    · exact memUpto_wf h.2.2

theorem memCells_above : ∀ {k : Nat} {bs : List Byte} {j : Nat}, j < k → memAbove j (memCells k bs) = true
  | _, [], _, _ => rfl
  | k, b :: bs, j, h => by
    unfold memCells
    split
    · exact memCells_above (by omega)
    · simpa [memAbove] using h

theorem memCells_wf : ∀ {k : Nat} {bs : List Byte}, Memory.wf (memCells k bs) = true
  | _, [] => rfl
  | k, b :: bs => by
    unfold memCells
    split
    · exact memCells_wf
    · exact wf_cons.mpr ⟨memCells_above (by omega), ‹_›, memCells_wf⟩

/-- A write of a range keeps the canonical form. -/
theorem memWrite_wf {m : List Host.Cell} (h : Memory.wf m = true) (k : Nat) (bs : List Byte) :
    Memory.wf (memWrite m k bs) = true := by
  unfold memWrite
  rw [List.append_assoc]
  refine wf_append (k := k) (memUpto_wf h)
    (wf_append (k := k + bs.length) memCells_wf (memFrom_wf h) (fun p hp => (memCells_bounds p hp).2) memFrom_ge)
    memUpto_lt ?_
  intro p hp
  rcases List.mem_append.mp hp with hp | hp
  · exact (memCells_bounds p hp).1
  · exact Nat.le_trans (Nat.le_add_right _ _) (memFrom_ge p hp)

theorem memTake_eq : ∀ {n k : Nat} {m : List Host.Cell}, Memory.wf m = true → (∀ p ∈ m, k ≤ p.1) →
    memTake m k n = (List.range n).map fun i => memGet m (k + i)
  | 0, _, m, _, _ => by cases m <;> simp [memTake]
  | n + 1, k, [], _, _ => by
    simp only [memTake, memTake_eq (n := n) (k := k + 1) (m := []) rfl (by simp), List.range_succ_eq_map, List.map_cons,
      List.map_map, memGet, List.cons.injEq, true_and]
    rfl
  | n + 1, k, (j, b) :: m, hw, hge => by
    have h := wf_cons.mp hw
    have hj : k ≤ j := hge (j, b) (by simp)
    have gt := wf_mem_gt h.2.2 h.1
    have tail (i : Nat) : k + (i + 1) = k + 1 + i := by omega
    unfold memTake
    split
    · next e =>
      subst e
      rw [memTake_eq h.2.2 fun p hp => gt p hp, List.range_succ_eq_map, List.map_cons, List.map_map]
      simp only [memGet, Nat.add_zero, if_true, List.cons.injEq, true_and]
      refine List.map_congr_left fun i _ => ?_
      show memGet m (j + 1 + i) = if j = j + (i + 1) then b else memGet m (j + (i + 1))
      rw [if_neg (by omega), tail i]
    · next e =>
      rw [memTake_eq hw fun p hp => by
        rcases List.mem_cons.mp hp with rfl | hp
        · show k + 1 ≤ j
          omega
        · have := gt p hp
          omega]
      rw [List.range_succ_eq_map, List.map_cons, List.map_map, Nat.add_zero,
        memGet_above hw (by simp only [memAbove, decide_eq_true_eq]; omega)]
      simp only [List.cons.injEq, true_and]
      refine List.map_congr_left fun i _ => ?_
      show memGet ((j, b) :: m) (k + 1 + i) = memGet ((j, b) :: m) (k + (i + 1))
      rw [tail i]

/-- A read of a range is the bytes of its addresses. -/
theorem memRead_eq {m : List Host.Cell} (h : Memory.wf m = true) (k n : Nat) :
    memRead m k n = (List.range n).map fun i => memGet m (k + i) := by
  unfold memRead
  rw [memTake_eq (memFrom_wf h) memFrom_ge]
  refine List.map_congr_left fun i _ => ?_
  rw [memGet_memFrom, if_neg (by omega)]

/-- Equal contents are equal lists. -/
theorem mem_ext : ∀ {m m' : List Host.Cell}, Memory.wf m = true → Memory.wf m' = true →
    (∀ a, memGet m a = memGet m' a) → m = m'
  | [], [], _, _, _ => rfl
  | [], (j, b) :: m', _, h', e => by
    have := e j
    simp only [memGet, if_true] at this
    exact absurd this.symm (wf_cons.mp h').2.1
  | (j, b) :: m, [], h, _, e => by
    have := e j
    simp only [memGet, if_true] at this
    exact absurd this (wf_cons.mp h).2.1
  | (i, b) :: m, (j, c) :: m', h, h', e => by
    have hi := wf_cons.mp h
    have hj := wf_cons.mp h'
    have hij : i = j := by
      rcases Nat.lt_trichotomy i j with g | g | g
      · have := e i
        rw [memGet, if_pos rfl, memGet_above h' (by simpa [memAbove] using g)] at this
        exact absurd this hi.2.1
      · exact g
      · have := e j
        rw [memGet_above h (by simpa [memAbove] using g), memGet, if_pos rfl] at this
        exact absurd this.symm hj.2.1
    subst hij
    have hb : b = c := by have := e i; simpa [memGet] using this
    subst hb
    rw [mem_ext hi.2.2 hj.2.2 fun a => ?_]
    by_cases g : i = a
    · subst g
      rw [memGet_above hi.2.2 hi.1, memGet_above hj.2.2 hj.1]
    · have := e a
      simpa [memGet, g] using this

end Sys2Proof.Machine
end

