-- ==== Sys2Proof/Laws/PerInstr.lean ====
section
/-! SUPPORT. Statements about every instruction as syntax, one lemma per constructor: RoundTrip, that
decoding the word of a well-formed instruction gives it back (R35 to R44). -/

section

set_option Elab.async false

namespace Sys2Proof.Laws.RoundTrip

/-- Decoding the slot word of a well-formed instruction gives the instruction back; the events of the
table have no word. -/
def Statement (i : Instr) : Prop := ∀ w, i.wf = true → encode i = some w → decodeSlot w = .ok i

/-- An event of the table has no word. -/
theorem wordless {i : Instr} (e : encode i = none) : Statement i := fun _ _ h => nomatch e.symm.trans h

/-- An instruction with a word: decoding that word is all there is to show. -/
theorem worded {i : Instr} {w : SlotWord} (e : encode i = some w) (h : i.wf = true → decodeSlot w = .ok i) : Statement i :=
  fun _ good e' => Option.some.inj (e.symm.trans e') ▸ h good

/-- R58: a well-formed instruction with its fixed bits right is legal. -/
theorem legal_ok {i : Instr} (h : i.wf = true) : legal true i = .ok i := by simp [legal, h]

theorem wrsysOf_wrsys {f : SFields} (h : (Instr.wrsys f).wf = true) : wrsysOf f = .wrsys f := by
  have k : sysWritable f.sysNum = true := by
    have h' : (f.wfWrsysAny && sysWritable f.sysNum) = true := h
    exact (Bool.and_eq_true_iff.mp h').2
  have h1 : (f.sysNum == 0x11) = false := by
    cases e : f.sysNum == 0x11
    · rfl
    · rw [beq_iff_eq.mp e] at k; exact absurd k (by decide)
  have h2 : (f.sysNum == 0x150) = false := by
    cases e : f.sysNum == 0x150
    · rfl
    · rw [beq_iff_eq.mp e] at k; exact absurd k (by decide)
  unfold wrsysOf; rw [h1, h2]; rfl
theorem wrsysOf_taddrWrite {f : SFields} (h : (Instr.taddrWrite f).wf = true) : wrsysOf f = .taddrWrite f := by
  have h' : (f.wfWrsysAny && f.sysNum == 0x11) = true := h
  have k := beq_iff_eq.mp (Bool.and_eq_true_iff.mp h').2
  unfold wrsysOf; rw [k]; rfl
theorem wrsysOf_rtgtWrite {f : SFields} (h : (Instr.rtgtWrite f).wf = true) : wrsysOf f = .rtgtWrite f := by
  have h' : (f.wfWrsysAny && f.sysNum == 0x150) = true := h
  have k := beq_iff_eq.mp (Bool.and_eq_true_iff.mp h').2
  unfold wrsysOf; rw [k]; rfl

theorem pmovOf_pmovTranspose {f : PmovF} (h : (Instr.pmovTranspose f).wf = true) :
    pmovOf true f = .ok (.pmovTranspose f) := by
  have k : portKind f.port = .transpose := by
    have h' : (not63 f.sc && isTranspose f.port && f.sc == 0) = true := h
    simp only [isTranspose, Bool.and_eq_true, beq_iff_eq] at h'; exact h'.1.2
  unfold pmovOf; rw [k]; exact legal_ok h
theorem pmovOf_pmovConvert {f : PmovF} (h : (Instr.pmovConvert f).wf = true) : pmovOf true f = .ok (.pmovConvert f) := by
  have h' : (not63 f.sc && isConvert f.port && f.sc == 0) = true := h
  have k : isConvert f.port = true := by
    simp only [Bool.and_eq_true] at h'; exact h'.1.2
  unfold isConvert at k
  unfold pmovOf
  cases e : portKind f.port <;> rw [e] at k <;> first | exact legal_ok h | cases k
theorem pmovOf_pmovEncode {f : PmovF} (h : (Instr.pmovEncode f).wf = true) : pmovOf true f = .ok (.pmovEncode f) := by
  have h' : (not63 f.sc && isEncode f.port) = true := h
  have k : isEncode f.port = true := by
    simp only [Bool.and_eq_true] at h'; exact h'.2
  unfold isEncode at k
  unfold pmovOf
  cases e : portKind f.port <;> rw [e] at k <;> first | exact legal_ok h | cases k
theorem pmovOf_pmovDecode {f : PmovF} (h : (Instr.pmovDecode f).wf = true) : pmovOf true f = .ok (.pmovDecode f) := by
  have h' : (not63 f.sc && isDecode f.port && f.sc == 0) = true := h
  have k : isDecode f.port = true := by
    simp only [Bool.and_eq_true] at h'; exact h'.1.2
  unfold isDecode at k
  unfold pmovOf
  cases e : portKind f.port <;> rw [e] at k <;> first | exact legal_ok h | cases k
theorem pmovOf_pmovConfig {f : PmovF} (h : (Instr.pmovConfig f).wf = true) : pmovOf true f = .ok (.pmovConfig f) := by
  have h' : (not63 f.sc && isConfig f.port && f.dD == 0 && f.dA == 0 && f.ev == 0) = true := h
  have k : isConfig f.port = true := by
    simp only [Bool.and_eq_true] at h'; exact h'.1.1.1.2
  unfold isConfig at k
  unfold pmovOf
  cases e : portKind f.port <;> rw [e] at k <;> first | exact legal_ok h | cases k

theorem add (f : SFields) : Statement (.add f) := worded rfl fun h => by
  show decodeS _ = _
  unfold decodeS
  rw [opS_pack, unpackS_pack]
  exact legal_ok h

theorem sub (f : SFields) : Statement (.sub f) := worded rfl fun h => by
  show decodeS _ = _
  unfold decodeS
  rw [opS_pack, unpackS_pack]
  exact legal_ok h

theorem mul (f : SFields) : Statement (.mul f) := worded rfl fun h => by
  show decodeS _ = _
  unfold decodeS
  rw [opS_pack, unpackS_pack]
  exact legal_ok h

theorem mulh (f : SFields) : Statement (.mulh f) := worded rfl fun h => by
  show decodeS _ = _
  unfold decodeS
  rw [opS_pack, unpackS_pack]
  exact legal_ok h

theorem mulhu (f : SFields) : Statement (.mulhu f) := worded rfl fun h => by
  show decodeS _ = _
  unfold decodeS
  rw [opS_pack, unpackS_pack]
  exact legal_ok h

theorem div (f : SFields) : Statement (.div f) := worded rfl fun h => by
  show decodeS _ = _
  unfold decodeS
  rw [opS_pack, unpackS_pack]
  exact legal_ok h

theorem divu (f : SFields) : Statement (.divu f) := worded rfl fun h => by
  show decodeS _ = _
  unfold decodeS
  rw [opS_pack, unpackS_pack]
  exact legal_ok h

theorem rem (f : SFields) : Statement (.rem f) := worded rfl fun h => by
  show decodeS _ = _
  unfold decodeS
  rw [opS_pack, unpackS_pack]
  exact legal_ok h

theorem remu (f : SFields) : Statement (.remu f) := worded rfl fun h => by
  show decodeS _ = _
  unfold decodeS
  rw [opS_pack, unpackS_pack]
  exact legal_ok h

theorem and (f : SFields) : Statement (.and f) := worded rfl fun h => by
  show decodeS _ = _
  unfold decodeS
  rw [opS_pack, unpackS_pack]
  exact legal_ok h

theorem or (f : SFields) : Statement (.or f) := worded rfl fun h => by
  show decodeS _ = _
  unfold decodeS
  rw [opS_pack, unpackS_pack]
  exact legal_ok h

theorem xor (f : SFields) : Statement (.xor f) := worded rfl fun h => by
  show decodeS _ = _
  unfold decodeS
  rw [opS_pack, unpackS_pack]
  exact legal_ok h

theorem andn (f : SFields) : Statement (.andn f) := worded rfl fun h => by
  show decodeS _ = _
  unfold decodeS
  rw [opS_pack, unpackS_pack]
  exact legal_ok h

theorem shl (f : SFields) : Statement (.shl f) := worded rfl fun h => by
  show decodeS _ = _
  unfold decodeS
  rw [opS_pack, unpackS_pack]
  exact legal_ok h

theorem shr (f : SFields) : Statement (.shr f) := worded rfl fun h => by
  show decodeS _ = _
  unfold decodeS
  rw [opS_pack, unpackS_pack]
  exact legal_ok h

theorem sra (f : SFields) : Statement (.sra f) := worded rfl fun h => by
  show decodeS _ = _
  unfold decodeS
  rw [opS_pack, unpackS_pack]
  exact legal_ok h

theorem rot (f : SFields) : Statement (.rot f) := worded rfl fun h => by
  show decodeS _ = _
  unfold decodeS
  rw [opS_pack, unpackS_pack]
  exact legal_ok h

theorem min (f : SFields) : Statement (.min f) := worded rfl fun h => by
  show decodeS _ = _
  unfold decodeS
  rw [opS_pack, unpackS_pack]
  exact legal_ok h

theorem max (f : SFields) : Statement (.max f) := worded rfl fun h => by
  show decodeS _ = _
  unfold decodeS
  rw [opS_pack, unpackS_pack]
  exact legal_ok h

theorem minu (f : SFields) : Statement (.minu f) := worded rfl fun h => by
  show decodeS _ = _
  unfold decodeS
  rw [opS_pack, unpackS_pack]
  exact legal_ok h

theorem maxu (f : SFields) : Statement (.maxu f) := worded rfl fun h => by
  show decodeS _ = _
  unfold decodeS
  rw [opS_pack, unpackS_pack]
  exact legal_ok h

theorem clz (f : SFields) : Statement (.clz f) := worded rfl fun h => by
  show decodeS _ = _
  unfold decodeS
  rw [opS_pack, unpackS_pack]
  exact legal_ok h

theorem popc (f : SFields) : Statement (.popc f) := worded rfl fun h => by
  show decodeS _ = _
  unfold decodeS
  rw [opS_pack, unpackS_pack]
  exact legal_ok h

theorem cmpeq (f : SFields) : Statement (.cmpeq f) := worded rfl fun h => by
  show decodeS _ = _
  unfold decodeS
  rw [opS_pack, unpackS_pack]
  exact legal_ok h

theorem cmpne (f : SFields) : Statement (.cmpne f) := worded rfl fun h => by
  show decodeS _ = _
  unfold decodeS
  rw [opS_pack, unpackS_pack]
  exact legal_ok h

theorem cmplt (f : SFields) : Statement (.cmplt f) := worded rfl fun h => by
  show decodeS _ = _
  unfold decodeS
  rw [opS_pack, unpackS_pack]
  exact legal_ok h

theorem cmpltu (f : SFields) : Statement (.cmpltu f) := worded rfl fun h => by
  show decodeS _ = _
  unfold decodeS
  rw [opS_pack, unpackS_pack]
  exact legal_ok h

theorem cmple (f : SFields) : Statement (.cmple f) := worded rfl fun h => by
  show decodeS _ = _
  unfold decodeS
  rw [opS_pack, unpackS_pack]
  exact legal_ok h

theorem cmpleu (f : SFields) : Statement (.cmpleu f) := worded rfl fun h => by
  show decodeS _ = _
  unfold decodeS
  rw [opS_pack, unpackS_pack]
  exact legal_ok h

theorem sel (f : SFields) : Statement (.sel f) := worded rfl fun h => by
  show decodeS _ = _
  unfold decodeS
  rw [opS_pack, unpackS_pack]
  exact legal_ok h

theorem mov (f : SFields) : Statement (.mov f) := worded rfl fun h => by
  show decodeS _ = _
  unfold decodeS
  rw [opS_pack, unpackS_pack]
  exact legal_ok h

theorem padd (f : SFields) : Statement (.padd f) := worded rfl fun h => by
  show decodeS _ = _
  unfold decodeS
  rw [opS_pack, unpackS_pack]
  exact legal_ok h

theorem psub (f : SFields) : Statement (.psub f) := worded rfl fun h => by
  show decodeS _ = _
  unfold decodeS
  rw [opS_pack, unpackS_pack]
  exact legal_ok h

theorem padds (f : SFields) : Statement (.padds f) := worded rfl fun h => by
  show decodeS _ = _
  unfold decodeS
  rw [opS_pack, unpackS_pack]
  exact legal_ok h

theorem psubs (f : SFields) : Statement (.psubs f) := worded rfl fun h => by
  show decodeS _ = _
  unfold decodeS
  rw [opS_pack, unpackS_pack]
  exact legal_ok h

theorem paddsn (f : SFields) : Statement (.paddsn f) := worded rfl fun h => by
  show decodeS _ = _
  unfold decodeS
  rw [opS_pack, unpackS_pack]
  exact legal_ok h

theorem psubsn (f : SFields) : Statement (.psubsn f) := worded rfl fun h => by
  show decodeS _ = _
  unfold decodeS
  rw [opS_pack, unpackS_pack]
  exact legal_ok h

theorem pmul (f : SFields) : Statement (.pmul f) := worded rfl fun h => by
  show decodeS _ = _
  unfold decodeS
  rw [opS_pack, unpackS_pack]
  exact legal_ok h

theorem pmulh (f : SFields) : Statement (.pmulh f) := worded rfl fun h => by
  show decodeS _ = _
  unfold decodeS
  rw [opS_pack, unpackS_pack]
  exact legal_ok h

theorem pmin (f : SFields) : Statement (.pmin f) := worded rfl fun h => by
  show decodeS _ = _
  unfold decodeS
  rw [opS_pack, unpackS_pack]
  exact legal_ok h

theorem pmax (f : SFields) : Statement (.pmax f) := worded rfl fun h => by
  show decodeS _ = _
  unfold decodeS
  rw [opS_pack, unpackS_pack]
  exact legal_ok h

theorem pabsd (f : SFields) : Statement (.pabsd f) := worded rfl fun h => by
  show decodeS _ = _
  unfold decodeS
  rw [opS_pack, unpackS_pack]
  exact legal_ok h

theorem pdot (f : SFields) : Statement (.pdot f) := worded rfl fun h => by
  show decodeS _ = _
  unfold decodeS
  rw [opS_pack, unpackS_pack]
  exact legal_ok h

theorem pavg (f : SFields) : Statement (.pavg f) := worded rfl fun h => by
  show decodeS _ = _
  unfold decodeS
  rw [opS_pack, unpackS_pack]
  exact legal_ok h

theorem ppack (f : SFields) : Statement (.ppack f) := worded rfl fun h => by
  show decodeS _ = _
  unfold decodeS
  rw [opS_pack, unpackS_pack]
  exact legal_ok h

theorem pwiden (f : SFields) : Statement (.pwiden f) := worded rfl fun h => by
  show decodeS _ = _
  unfold decodeS
  rw [opS_pack, unpackS_pack]
  exact legal_ok h

theorem pshuf (f : SFields) : Statement (.pshuf f) := worded rfl fun h => by
  show decodeS _ = _
  unfold decodeS
  rw [opS_pack, unpackS_pack]
  exact legal_ok h

theorem limm (f : SImm) : Statement (.limm f) := worded rfl fun h => by
  show decodeS _ = _
  unfold decodeS
  rw [opSImm_pack, unpackSImm_pack, fixedSImm_pack]
  exact legal_ok h

theorem limmh (f : SImm) : Statement (.limmh f) := worded rfl fun h => by
  show decodeS _ = _
  unfold decodeS
  rw [opSImm_pack, unpackSImm_pack, fixedSImm_pack]
  exact legal_ok h

theorem aadd (f : SFields) : Statement (.aadd f) := worded rfl fun h => by
  show decodeS _ = _
  unfold decodeS
  rw [opS_pack, unpackS_pack]
  exact legal_ok h

theorem asub (f : SFields) : Statement (.asub f) := worded rfl fun h => by
  show decodeS _ = _
  unfold decodeS
  rw [opS_pack, unpackS_pack]
  exact legal_ok h

theorem amov (f : SFields) : Statement (.amov f) := worded rfl fun h => by
  show decodeS _ = _
  unfold decodeS
  rw [opS_pack, unpackS_pack]
  exact legal_ok h

theorem ajoin (f : SFields) : Statement (.ajoin f) := worded rfl fun h => by
  show decodeS _ = _
  unfold decodeS
  rw [opS_pack, unpackS_pack]
  exact legal_ok h

theorem asplit (f : SFields) : Statement (.asplit f) := worded rfl fun h => by
  show decodeS _ = _
  unfold decodeS
  rw [opS_pack, unpackS_pack]
  exact legal_ok h

theorem aimm (f : SImm) : Statement (.aimm f) := worded rfl fun h => by
  show decodeS _ = _
  unfold decodeS
  rw [opSImm_pack, unpackSImm_pack, fixedSImm_pack]
  exact legal_ok h

theorem fadd (f : SFields) : Statement (.fadd f) := worded rfl fun h => by
  show decodeS _ = _
  unfold decodeS
  rw [opS_pack, unpackS_pack]
  exact legal_ok h

theorem fsub (f : SFields) : Statement (.fsub f) := worded rfl fun h => by
  show decodeS _ = _
  unfold decodeS
  rw [opS_pack, unpackS_pack]
  exact legal_ok h

theorem fmul (f : SFields) : Statement (.fmul f) := worded rfl fun h => by
  show decodeS _ = _
  unfold decodeS
  rw [opS_pack, unpackS_pack]
  exact legal_ok h

theorem fmin (f : SFields) : Statement (.fmin f) := worded rfl fun h => by
  show decodeS _ = _
  unfold decodeS
  rw [opS_pack, unpackS_pack]
  exact legal_ok h

theorem fmax (f : SFields) : Statement (.fmax f) := worded rfl fun h => by
  show decodeS _ = _
  unfold decodeS
  rw [opS_pack, unpackS_pack]
  exact legal_ok h

theorem fcmplt (f : SFields) : Statement (.fcmplt f) := worded rfl fun h => by
  show decodeS _ = _
  unfold decodeS
  rw [opS_pack, unpackS_pack]
  exact legal_ok h

theorem fcmpeq (f : SFields) : Statement (.fcmpeq f) := worded rfl fun h => by
  show decodeS _ = _
  unfold decodeS
  rw [opS_pack, unpackS_pack]
  exact legal_ok h

theorem fcvt (f : SFields) : Statement (.fcvt f) := worded rfl fun h => by
  show decodeS _ = _
  unfold decodeS
  rw [opS_pack, unpackS_pack]
  exact legal_ok h

theorem br (f : SImm) : Statement (.br f) := worded rfl fun h => by
  show decodeS _ = _
  unfold decodeS
  rw [opSImm_pack, unpackSImm_pack, fixedSImm_pack]
  exact legal_ok h

theorem brz (f : SImm) : Statement (.brz f) := worded rfl fun h => by
  show decodeS _ = _
  unfold decodeS
  rw [opSImm_pack, unpackSImm_pack, fixedSImm_pack]
  exact legal_ok h

theorem brnz (f : SImm) : Statement (.brnz f) := worded rfl fun h => by
  show decodeS _ = _
  unfold decodeS
  rw [opSImm_pack, unpackSImm_pack, fixedSImm_pack]
  exact legal_ok h

theorem call (f : SImm) : Statement (.call f) := worded rfl fun h => by
  show decodeS _ = _
  unfold decodeS
  rw [opSImm_pack, unpackSImm_pack, fixedSImm_pack]
  exact legal_ok h

theorem ret (f : SImm) : Statement (.ret f) := worded rfl fun h => by
  show decodeS _ = _
  unfold decodeS
  rw [opSImm_pack, unpackSImm_pack, fixedSImm_pack]
  exact legal_ok h

theorem loop (f : SFields) : Statement (.loop f) := worded rfl fun h => by
  show decodeS _ = _
  unfold decodeS
  rw [opS_pack, unpackS_pack]
  exact legal_ok h

theorem trap (f : SFields) : Statement (.trap f) := worded rfl fun h => by
  show decodeS _ = _
  unfold decodeS
  rw [opS_pack, unpackS_pack]
  exact legal_ok h

theorem tret (f : SFields) : Statement (.tret f) := worded rfl fun h => by
  show decodeS _ = _
  unfold decodeS
  rw [opS_pack, unpackS_pack]
  exact legal_ok h

theorem rdsys (f : SFields) : Statement (.rdsys f) := worded rfl fun h => by
  show decodeS _ = _
  unfold decodeS
  rw [opS_pack, unpackS_pack]
  exact legal_ok h

theorem wrsys (f : SFields) : Statement (.wrsys f) := worded rfl fun h => by
  show decodeS _ = _
  unfold decodeS
  rw [opS_pack, unpackS_pack]
  have e : wrsysOf f = .wrsys f := wrsysOf_wrsys h
  rw [e]
  exact legal_ok h

theorem taddrWrite (f : SFields) : Statement (.taddrWrite f) := worded rfl fun h => by
  show decodeS _ = _
  unfold decodeS
  rw [opS_pack, unpackS_pack]
  have e : wrsysOf f = .taddrWrite f := wrsysOf_taddrWrite h
  rw [e]
  exact legal_ok h

theorem rtgtWrite (f : SFields) : Statement (.rtgtWrite f) := worded rfl fun h => by
  show decodeS _ = _
  unfold decodeS
  rw [opS_pack, unpackS_pack]
  have e : wrsysOf f = .rtgtWrite f := wrsysOf_rtgtWrite h
  rw [e]
  exact legal_ok h

theorem rdtime (f : SFields) : Statement (.rdtime f) := worded rfl fun h => by
  show decodeS _ = _
  unfold decodeS
  rw [opS_pack, unpackS_pack]
  exact legal_ok h

theorem fetest (f : SFields) : Statement (.fetest f) := worded rfl fun h => by
  show decodeS _ = _
  unfold decodeS
  rw [opS_pack, unpackS_pack]
  exact legal_ok h

theorem setempty (f : SFields) : Statement (.setempty f) := worded rfl fun h => by
  show decodeS _ = _
  unfold decodeS
  rw [opS_pack, unpackS_pack]
  exact legal_ok h

theorem laprd (f : SFields) : Statement (.laprd f) := worded rfl fun h => by
  show decodeS _ = _
  unfold decodeS
  rw [opS_pack, unpackS_pack]
  exact legal_ok h

theorem vadd (f : VFields) : Statement (.vadd f) := worded rfl fun h => by
  show decodeV _ = _
  unfold decodeV
  rw [opV_pack, unpackV_pack]
  exact legal_ok h

theorem vsub (f : VFields) : Statement (.vsub f) := worded rfl fun h => by
  show decodeV _ = _
  unfold decodeV
  rw [opV_pack, unpackV_pack]
  exact legal_ok h

theorem vmul (f : VFields) : Statement (.vmul f) := worded rfl fun h => by
  show decodeV _ = _
  unfold decodeV
  rw [opV_pack, unpackV_pack]
  exact legal_ok h

theorem vfma (f : VFields) : Statement (.vfma f) := worded rfl fun h => by
  show decodeV _ = _
  unfold decodeV
  rw [opV_pack, unpackV_pack]
  exact legal_ok h

theorem vmin (f : VFields) : Statement (.vmin f) := worded rfl fun h => by
  show decodeV _ = _
  unfold decodeV
  rw [opV_pack, unpackV_pack]
  exact legal_ok h

theorem vmax (f : VFields) : Statement (.vmax f) := worded rfl fun h => by
  show decodeV _ = _
  unfold decodeV
  rw [opV_pack, unpackV_pack]
  exact legal_ok h

theorem vabs (f : VFields) : Statement (.vabs f) := worded rfl fun h => by
  show decodeV _ = _
  unfold decodeV
  rw [opV_pack, unpackV_pack]
  exact legal_ok h

theorem vneg (f : VFields) : Statement (.vneg f) := worded rfl fun h => by
  show decodeV _ = _
  unfold decodeV
  rw [opV_pack, unpackV_pack]
  exact legal_ok h

theorem vand (f : VFields) : Statement (.vand f) := worded rfl fun h => by
  show decodeV _ = _
  unfold decodeV
  rw [opV_pack, unpackV_pack]
  exact legal_ok h

theorem vor (f : VFields) : Statement (.vor f) := worded rfl fun h => by
  show decodeV _ = _
  unfold decodeV
  rw [opV_pack, unpackV_pack]
  exact legal_ok h

theorem vxor (f : VFields) : Statement (.vxor f) := worded rfl fun h => by
  show decodeV _ = _
  unfold decodeV
  rw [opV_pack, unpackV_pack]
  exact legal_ok h

theorem vshl (f : VFields) : Statement (.vshl f) := worded rfl fun h => by
  show decodeV _ = _
  unfold decodeV
  rw [opV_pack, unpackV_pack]
  exact legal_ok h

theorem vshr (f : VFields) : Statement (.vshr f) := worded rfl fun h => by
  show decodeV _ = _
  unfold decodeV
  rw [opV_pack, unpackV_pack]
  exact legal_ok h

theorem vsra (f : VFields) : Statement (.vsra f) := worded rfl fun h => by
  show decodeV _ = _
  unfold decodeV
  rw [opV_pack, unpackV_pack]
  exact legal_ok h

theorem vcmpeq (f : VFields) : Statement (.vcmpeq f) := worded rfl fun h => by
  show decodeV _ = _
  unfold decodeV
  rw [opV_pack, unpackV_pack]
  exact legal_ok h

theorem vcmplt (f : VFields) : Statement (.vcmplt f) := worded rfl fun h => by
  show decodeV _ = _
  unfold decodeV
  rw [opV_pack, unpackV_pack]
  exact legal_ok h

theorem vcmple (f : VFields) : Statement (.vcmple f) := worded rfl fun h => by
  show decodeV _ = _
  unfold decodeV
  rw [opV_pack, unpackV_pack]
  exact legal_ok h

theorem vsel (f : VFields) : Statement (.vsel f) := worded rfl fun h => by
  show decodeV _ = _
  unfold decodeV
  rw [opV_pack, unpackV_pack]
  exact legal_ok h

theorem vrsum (f : VFields) : Statement (.vrsum f) := worded rfl fun h => by
  show decodeV _ = _
  unfold decodeV
  rw [opV_pack, unpackV_pack]
  exact legal_ok h

theorem vrmax (f : VFields) : Statement (.vrmax f) := worded rfl fun h => by
  show decodeV _ = _
  unfold decodeV
  rw [opV_pack, unpackV_pack]
  exact legal_ok h

theorem vrmin (f : VFields) : Statement (.vrmin f) := worded rfl fun h => by
  show decodeV _ = _
  unfold decodeV
  rw [opV_pack, unpackV_pack]
  exact legal_ok h

theorem vrcnt (f : VFields) : Statement (.vrcnt f) := worded rfl fun h => by
  show decodeV _ = _
  unfold decodeV
  rw [opV_pack, unpackV_pack]
  exact legal_ok h

theorem vcoal (f : VFields) : Statement (.vcoal f) := worded rfl fun h => by
  show decodeV _ = _
  unfold decodeV
  rw [opV_pack, unpackV_pack]
  exact legal_ok h

theorem vruns (f : VFields) : Statement (.vruns f) := worded rfl fun h => by
  show decodeV _ = _
  unfold decodeV
  rw [opV_pack, unpackV_pack]
  exact legal_ok h

theorem vsplat (f : VFields) : Statement (.vsplat f) := worded rfl fun h => by
  show decodeV _ = _
  unfold decodeV
  rw [opV_pack, unpackV_pack]
  exact legal_ok h

theorem viota (f : VFields) : Statement (.viota f) := worded rfl fun h => by
  show decodeV _ = _
  unfold decodeV
  rw [opV_pack, unpackV_pack]
  exact legal_ok h

theorem vslide (f : VFields) : Statement (.vslide f) := worded rfl fun h => by
  show decodeV _ = _
  unfold decodeV
  rw [opV_pack, unpackV_pack]
  exact legal_ok h

theorem vscan (f : VFields) : Statement (.vscan f) := worded rfl fun h => by
  show decodeV _ = _
  unfold decodeV
  rw [opV_pack, unpackV_pack]
  exact legal_ok h

theorem vmov (f : VFields) : Statement (.vmov f) := worded rfl fun h => by
  show decodeV _ = _
  unfold decodeV
  rw [opV_pack, unpackV_pack]
  exact legal_ok h

theorem vext (f : VFields) : Statement (.vext f) := worded rfl fun h => by
  show decodeV _ = _
  unfold decodeV
  rw [opV_pack, unpackV_pack]
  exact legal_ok h

theorem vins (f : VFields) : Statement (.vins f) := worded rfl fun h => by
  show decodeV _ = _
  unfold decodeV
  rw [opV_pack, unpackV_pack]
  exact legal_ok h

theorem vlen (f : VFields) : Statement (.vlen f) := worded rfl fun h => by
  show decodeV _ = _
  unfold decodeV
  rw [opV_pack, unpackV_pack]
  exact legal_ok h

theorem vtrim (f : VFields) : Statement (.vtrim f) := worded rfl fun h => by
  show decodeV _ = _
  unfold decodeV
  rw [opV_pack, unpackV_pack]
  exact legal_ok h

theorem vacc (f : VFields) : Statement (.vacc f) := worded rfl fun h => by
  show decodeV _ = _
  unfold decodeV
  rw [opV_pack, unpackV_pack]
  exact legal_ok h

theorem vaccw (f : VFields) : Statement (.vaccw f) := worded rfl fun h => by
  show decodeV _ = _
  unfold decodeV
  rw [opV_pack, unpackV_pack]
  exact legal_ok h

theorem qset (f : VFields) : Statement (.qset f) := worded rfl fun h => by
  show decodeV _ = _
  unfold decodeV
  rw [opV_pack, unpackV_pack]
  exact legal_ok h

theorem qfromv (f : VFields) : Statement (.qfromv f) := worded rfl fun h => by
  show decodeV _ = _
  unfold decodeV
  rw [opV_pack, unpackV_pack]
  exact legal_ok h

theorem qmin (f : VFields) : Statement (.qmin f) := worded rfl fun h => by
  show decodeV _ = _
  unfold decodeV
  rw [opV_pack, unpackV_pack]
  exact legal_ok h

theorem qget (f : VFields) : Statement (.qget f) := worded rfl fun h => by
  show decodeV _ = _
  unfold decodeV
  rw [opV_pack, unpackV_pack]
  exact legal_ok h

theorem fexp (f : FFields) : Statement (.fexp f) := worded rfl fun h => by
  show decodeF _ = _
  unfold decodeF
  rw [opF_pack, unpackF_pack, fixedF_pack]
  exact legal_ok h

theorem fexp2 (f : FFields) : Statement (.fexp2 f) := worded rfl fun h => by
  show decodeF _ = _
  unfold decodeF
  rw [opF_pack, unpackF_pack, fixedF_pack]
  exact legal_ok h

theorem flog2 (f : FFields) : Statement (.flog2 f) := worded rfl fun h => by
  show decodeF _ = _
  unfold decodeF
  rw [opF_pack, unpackF_pack, fixedF_pack]
  exact legal_ok h

theorem frcp (f : FFields) : Statement (.frcp f) := worded rfl fun h => by
  show decodeF _ = _
  unfold decodeF
  rw [opF_pack, unpackF_pack, fixedF_pack]
  exact legal_ok h

theorem frsq (f : FFields) : Statement (.frsq f) := worded rfl fun h => by
  show decodeF _ = _
  unfold decodeF
  rw [opF_pack, unpackF_pack, fixedF_pack]
  exact legal_ok h

theorem fsqrt (f : FFields) : Statement (.fsqrt f) := worded rfl fun h => by
  show decodeF _ = _
  unfold decodeF
  rw [opF_pack, unpackF_pack, fixedF_pack]
  exact legal_ok h

theorem ftanh (f : FFields) : Statement (.ftanh f) := worded rfl fun h => by
  show decodeF _ = _
  unfold decodeF
  rw [opF_pack, unpackF_pack, fixedF_pack]
  exact legal_ok h

theorem fsigm (f : FFields) : Statement (.fsigm f) := worded rfl fun h => by
  show decodeF _ = _
  unfold decodeF
  rw [opF_pack, unpackF_pack, fixedF_pack]
  exact legal_ok h

theorem fsin (f : FFields) : Statement (.fsin f) := worded rfl fun h => by
  show decodeF _ = _
  unfold decodeF
  rw [opF_pack, unpackF_pack, fixedF_pack]
  exact legal_ok h

theorem fcos (f : FFields) : Statement (.fcos f) := worded rfl fun h => by
  show decodeF _ = _
  unfold decodeF
  rw [opF_pack, unpackF_pack, fixedF_pack]
  exact legal_ok h

theorem fconv (f : FFields) : Statement (.fconv f) := worded rfl fun h => by
  show decodeF _ = _
  unfold decodeF
  rw [opF_pack, unpackF_pack, fixedF_pack]
  exact legal_ok h

theorem fqnt (f : FFields) : Statement (.fqnt f) := worded rfl fun h => by
  show decodeF _ = _
  unfold decodeF
  rw [opF_pack, unpackF_pack, fixedF_pack]
  exact legal_ok h

theorem fdqt (f : FFields) : Statement (.fdqt f) := worded rfl fun h => by
  show decodeF _ = _
  unfold decodeF
  rw [opF_pack, unpackF_pack, fixedF_pack]
  exact legal_ok h

theorem fcbe (f : FFields) : Statement (.fcbe f) := worded rfl fun h => by
  show decodeF _ = _
  unfold decodeF
  rw [opF_pack, unpackF_pack, fixedF_pack]
  exact legal_ok h

theorem fcbd (f : FFields) : Statement (.fcbd f) := worded rfl fun h => by
  show decodeF _ = _
  unfold decodeF
  rw [opF_pack, unpackF_pack, fixedF_pack]
  exact legal_ok h

theorem frnd (f : FFields) : Statement (.frnd f) := worded rfl fun h => by
  show decodeF _ = _
  unfold decodeF
  rw [opF_pack, unpackF_pack, fixedF_pack]
  exact legal_ok h

theorem mpush (f : MFields) : Statement (.mpush f) := worded rfl fun h => by
  show decodeM _ = _
  unfold decodeM
  rw [opM_pack, unpackM_pack]
  exact legal_ok h

theorem macc (f : MFields) : Statement (.macc f) := worded rfl fun h => by
  show decodeM _ = _
  unfold decodeM
  rw [opM_pack, unpackM_pack]
  exact legal_ok h

theorem mshift (f : MFields) : Statement (.mshift f) := worded rfl fun h => by
  show decodeM _ = _
  unfold decodeM
  rw [opM_pack, unpackM_pack]
  exact legal_ok h

theorem mdrain (f : MFields) : Statement (.mdrain f) := worded rfl fun h => by
  show decodeM _ = _
  unfold decodeM
  rw [opM_pack, unpackM_pack]
  exact legal_ok h

theorem mclr (f : MFields) : Statement (.mclr f) := worded rfl fun h => by
  show decodeM _ = _
  unfold decodeM
  rw [opM_pack, unpackM_pack]
  exact legal_ok h

theorem mchain (f : MFields) : Statement (.mchain f) := worded rfl fun h => by
  show decodeM _ = _
  unfold decodeM
  rw [opM_pack, unpackM_pack]
  exact legal_ok h

theorem mend (f : MFields) : Statement (.mend f) := worded rfl fun h => by
  show decodeM _ = _
  unfold decodeM
  rw [opM_pack, unpackM_pack]
  exact legal_ok h

theorem ldb (f : LFields) : Statement (.ldb f) := worded rfl fun h => by
  show decodeL _ = _
  unfold decodeL
  rw [opL_pack, unpackL_pack]
  exact legal_ok h

theorem ldbs (f : LFields) : Statement (.ldbs f) := worded rfl fun h => by
  show decodeL _ = _
  unfold decodeL
  rw [opL_pack, unpackL_pack]
  exact legal_ok h

theorem ldh (f : LFields) : Statement (.ldh f) := worded rfl fun h => by
  show decodeL _ = _
  unfold decodeL
  rw [opL_pack, unpackL_pack]
  exact legal_ok h

theorem ldhs (f : LFields) : Statement (.ldhs f) := worded rfl fun h => by
  show decodeL _ = _
  unfold decodeL
  rw [opL_pack, unpackL_pack]
  exact legal_ok h

theorem ldw (f : LFields) : Statement (.ldw f) := worded rfl fun h => by
  show decodeL _ = _
  unfold decodeL
  rw [opL_pack, unpackL_pack]
  exact legal_ok h

theorem lda (f : LFields) : Statement (.lda f) := worded rfl fun h => by
  show decodeL _ = _
  unfold decodeL
  rw [opL_pack, unpackL_pack]
  exact legal_ok h

theorem stb (f : LFields) : Statement (.stb f) := worded rfl fun h => by
  show decodeL _ = _
  unfold decodeL
  rw [opL_pack, unpackL_pack]
  exact legal_ok h

theorem sth (f : LFields) : Statement (.sth f) := worded rfl fun h => by
  show decodeL _ = _
  unfold decodeL
  rw [opL_pack, unpackL_pack]
  exact legal_ok h

theorem stw (f : LFields) : Statement (.stw f) := worded rfl fun h => by
  show decodeL _ = _
  unfold decodeL
  rw [opL_pack, unpackL_pack]
  exact legal_ok h

theorem sta (f : LFields) : Statement (.sta f) := worded rfl fun h => by
  show decodeL _ = _
  unfold decodeL
  rw [opL_pack, unpackL_pack]
  exact legal_ok h

theorem vld (f : LFields) : Statement (.vld f) := worded rfl fun h => by
  show decodeL _ = _
  unfold decodeL
  rw [opL_pack, unpackL_pack]
  exact legal_ok h

theorem vldr (f : LFields) : Statement (.vldr f) := worded rfl fun h => by
  show decodeL _ = _
  unfold decodeL
  rw [opL_pack, unpackL_pack]
  exact legal_ok h

theorem vldb (f : LFields) : Statement (.vldb f) := worded rfl fun h => by
  show decodeL _ = _
  unfold decodeL
  rw [opL_pack, unpackL_pack]
  exact legal_ok h

theorem vst (f : LFields) : Statement (.vst f) := worded rfl fun h => by
  show decodeL _ = _
  unfold decodeL
  rw [opL_pack, unpackL_pack]
  exact legal_ok h

theorem vstr (f : LFields) : Statement (.vstr f) := worded rfl fun h => by
  show decodeL _ = _
  unfold decodeL
  rw [opL_pack, unpackL_pack]
  exact legal_ok h

theorem vstb (f : LFields) : Statement (.vstb f) := worded rfl fun h => by
  show decodeL _ = _
  unfold decodeL
  rw [opL_pack, unpackL_pack]
  exact legal_ok h

theorem amoadd (f : LFields) : Statement (.amoadd f) := worded rfl fun h => by
  show decodeL _ = _
  unfold decodeL
  rw [opL_pack, unpackL_pack]
  exact legal_ok h

theorem amomin (f : LFields) : Statement (.amomin f) := worded rfl fun h => by
  show decodeL _ = _
  unfold decodeL
  rw [opL_pack, unpackL_pack]
  exact legal_ok h

theorem amomax (f : LFields) : Statement (.amomax f) := worded rfl fun h => by
  show decodeL _ = _
  unfold decodeL
  rw [opL_pack, unpackL_pack]
  exact legal_ok h

theorem amoswp (f : LFields) : Statement (.amoswp f) := worded rfl fun h => by
  show decodeL _ = _
  unfold decodeL
  rw [opL_pack, unpackL_pack]
  exact legal_ok h

theorem amocas (f : LFields) : Statement (.amocas f) := worded rfl fun h => by
  show decodeL _ = _
  unfold decodeL
  rw [opL_pack, unpackL_pack]
  exact legal_ok h

theorem amoand (f : LFields) : Statement (.amoand f) := worded rfl fun h => by
  show decodeL _ = _
  unfold decodeL
  rw [opL_pack, unpackL_pack]
  exact legal_ok h

theorem amoor (f : LFields) : Statement (.amoor f) := worded rfl fun h => by
  show decodeL _ = _
  unfold decodeL
  rw [opL_pack, unpackL_pack]
  exact legal_ok h

theorem amofadd (f : LFields) : Statement (.amofadd f) := worded rfl fun h => by
  show decodeL _ = _
  unfold decodeL
  rw [opL_pack, unpackL_pack]
  exact legal_ok h

theorem flush (f : LFields) : Statement (.flush f) := worded rfl fun h => by
  show decodeL _ = _
  unfold decodeL
  rw [opL_pack, unpackL_pack]
  exact legal_ok h

theorem inval (f : LFields) : Statement (.inval f) := worded rfl fun h => by
  show decodeL _ = _
  unfold decodeL
  rw [opL_pack, unpackL_pack]
  exact legal_ok h

theorem pref (f : LFields) : Statement (.pref f) := worded rfl fun h => by
  show decodeL _ = _
  unfold decodeL
  rw [opL_pack, unpackL_pack]
  exact legal_ok h

theorem tagq (f : LFields) : Statement (.tagq f) := worded rfl fun h => by
  show decodeL _ = _
  unfold decodeL
  rw [opL_pack, unpackL_pack]
  exact legal_ok h

theorem ldpeek (f : LFields) : Statement (.ldpeek f) := worded rfl fun h => by
  show decodeL _ = _
  unfold decodeL
  rw [opL_pack, unpackL_pack]
  exact legal_ok h

theorem dld (f : DescMem) : Statement (.dld f) := worded rfl fun h => by
  show decodeE _ = _
  unfold decodeE
  rw [opDescMem_pack, unpackDescMem_pack, fixedDescMem_pack]
  exact legal_ok h

theorem dst (f : DescMem) : Statement (.dst f) := worded rfl fun h => by
  show decodeE _ = _
  unfold decodeE
  rw [opDescMem_pack, unpackDescMem_pack, fixedDescMem_pack]
  exact legal_ok h

theorem dset (f : DSetS) : Statement (.dset f) := worded rfl fun h => by
  show decodeE _ = _
  unfold decodeE
  rw [opDSetS_pack, unpackDSetS_pack, selDSetS_pack, fixedDSetS_pack]
  exact legal_ok h

theorem dsetA (f : DSetA) : Statement (.dsetA f) := worded rfl fun h => by
  show decodeE _ = _
  unfold decodeE
  rw [opDSetA_pack, unpackDSetA_pack, selDSetA_pack, fixedDSetA_pack]
  exact legal_ok h

theorem dget (f : DGetF) : Statement (.dget f) := worded rfl fun h => by
  show decodeE _ = _
  unfold decodeE
  rw [opDGet_pack, unpackDGet_pack, fixedDGet_pack]
  exact legal_ok h

theorem fence (f : FenceF) : Statement (.fence f) := worded rfl fun h => by
  show decodeE _ = _
  unfold decodeE
  rw [opFence_pack, unpackFence_pack, fixedFence_pack]
  exact legal_ok h

theorem waittl (f : WaitTlF) : Statement (.waittl f) := worded rfl fun h => by
  show decodeE _ = _
  unfold decodeE
  rw [opWaitTl_pack, unpackWaitTl_pack, fixedWaitTl_pack]
  exact legal_ok h

theorem tlread (f : TlReadF) : Statement (.tlread f) := worded rfl fun h => by
  show decodeE _ = _
  unfold decodeE
  rw [opTlRead_pack, unpackTlRead_pack, fixedTlRead_pack]
  exact legal_ok h

theorem tmul (f : TileF) : Statement (.tmul f) := worded rfl fun h => by
  show decodeE _ = _
  unfold decodeE
  rw [opTile_pack, unpackTile_pack]
  exact legal_ok h

theorem tmac (f : TileF) : Statement (.tmac f) := worded rfl fun h => by
  show decodeE _ = _
  unfold decodeE
  rw [opTile_pack, unpackTile_pack]
  exact legal_ok h

theorem tmap (f : TileF) : Statement (.tmap f) := worded rfl fun h => by
  show decodeE _ = _
  unfold decodeE
  rw [opTile_pack, unpackTile_pack]
  exact legal_ok h

theorem tzip (f : TileF) : Statement (.tzip f) := worded rfl fun h => by
  show decodeE _ = _
  unfold decodeE
  rw [opTile_pack, unpackTile_pack]
  exact legal_ok h

theorem tred (f : TileF) : Statement (.tred f) := worded rfl fun h => by
  show decodeE _ = _
  unfold decodeE
  rw [opTile_pack, unpackTile_pack]
  exact legal_ok h

theorem txpose (f : TileF) : Statement (.txpose f) := worded rfl fun h => by
  show decodeE _ = _
  unfold decodeE
  rw [opTile_pack, unpackTile_pack]
  exact legal_ok h

theorem tcvt (f : TileF) : Statement (.tcvt f) := worded rfl fun h => by
  show decodeE _ = _
  unfold decodeE
  rw [opTile_pack, unpackTile_pack]
  exact legal_ok h

theorem tcopy (f : TileF) : Statement (.tcopy f) := worded rfl fun h => by
  show decodeE _ = _
  unfold decodeE
  rw [opTile_pack, unpackTile_pack]
  exact legal_ok h

theorem forceHandle (f : SpecF) : Statement (.forceHandle f) := worded rfl fun h => by
  show decodeE _ = _
  unfold decodeE
  rw [opForceH_pack, unpackForceH_pack, selForceH_pack, fixedForceH_pack]
  exact legal_ok h

theorem forceRegion (f : DescF) : Statement (.forceRegion f) := worded rfl fun h => by
  show decodeE _ = _
  unfold decodeE
  rw [opForceR_pack, unpackForceR_pack, selForceR_pack, fixedForceR_pack]
  exact legal_ok h

theorem tstore (f : TStoreF) : Statement (.tstore f) := worded rfl fun h => by
  show decodeE _ = _
  unfold decodeE
  rw [opTStore_pack, unpackTStore_pack, fixedTStore_pack]
  exact legal_ok h

theorem tdrop (f : SpecF) : Statement (.tdrop f) := worded rfl fun h => by
  show decodeE _ = _
  unfold decodeE
  rw [opTDrop_pack, unpackTDrop_pack, fixedTDrop_pack]
  exact legal_ok h

theorem tstatNode (f : DstSpec) : Statement (.tstatNode f) := worded rfl fun h => by
  show decodeE _ = _
  unfold decodeE
  rw [opTStatN_pack, unpackTStatN_pack, selTStatN_pack, fixedTStatN_pack]
  exact legal_ok h

theorem tstatTable (f : DstOnly) : Statement (.tstatTable f) := worded rfl fun h => by
  show decodeE _ = _
  unfold decodeE
  rw [opTStatT_pack, unpackTStatT_pack, selTStatT_pack, fixedTStatT_pack]
  exact legal_ok h

theorem tstatDefer (f : DstWord) : Statement (.tstatDefer f) := worded rfl fun h => by
  show decodeE _ = _
  unfold decodeE
  rw [opTStatD_pack, unpackTStatD_pack, selTStatD_pack, fixedTStatD_pack]
  exact legal_ok h

theorem cpyByte (f : CpyByteF) : Statement (.cpyByte f) := worded rfl fun h => by
  show decodeE _ = _
  unfold decodeE
  rw [opCpyB_pack, unpackCpyB_pack, selCpyB_pack, fixedCpyB_pack]
  exact legal_ok h

theorem cpyTile (f : CpyTileF) : Statement (.cpyTile f) := worded rfl fun h => by
  show decodeE _ = _
  unfold decodeE
  rw [opCpyT_pack, unpackCpyT_pack, selCpyT_pack, fixedCpyT_pack]
  exact legal_ok h

theorem cpyg (f : CpyIdxF) : Statement (.cpyg f) := worded rfl fun h => by
  show decodeE _ = _
  unfold decodeE
  rw [opCpyIdx_pack, unpackCpyIdx_pack, fixedCpyIdx_pack]
  exact legal_ok h

theorem cpys (f : CpyIdxF) : Statement (.cpys f) := worded rfl fun h => by
  show decodeE _ = _
  unfold decodeE
  rw [opCpyIdx_pack, unpackCpyIdx_pack, fixedCpyIdx_pack]
  exact legal_ok h

theorem cpstor (f : CpStorF) : Statement (.cpstor f) := worded rfl fun h => by
  show decodeE _ = _
  unfold decodeE
  rw [opCpStor_pack, unpackCpStor_pack, fixedCpStor_pack]
  exact legal_ok h

theorem sleepto (f : SleepF) : Statement (.sleepto f) := worded rfl fun h => by
  show decodeE _ = _
  unfold decodeE
  rw [opSleep_pack, unpackSleep_pack, fixedSleep_pack]
  exact legal_ok h

theorem pmovTranspose (f : PmovF) : Statement (.pmovTranspose f) := worded rfl fun h => by
  show decodeE _ = _
  unfold decodeE
  rw [opPmov_pack, unpackPmov_pack, fixedPmov_pack]
  exact pmovOf_pmovTranspose h

theorem pmovConvert (f : PmovF) : Statement (.pmovConvert f) := worded rfl fun h => by
  show decodeE _ = _
  unfold decodeE
  rw [opPmov_pack, unpackPmov_pack, fixedPmov_pack]
  exact pmovOf_pmovConvert h

theorem pmovEncode (f : PmovF) : Statement (.pmovEncode f) := worded rfl fun h => by
  show decodeE _ = _
  unfold decodeE
  rw [opPmov_pack, unpackPmov_pack, fixedPmov_pack]
  exact pmovOf_pmovEncode h

theorem pmovDecode (f : PmovF) : Statement (.pmovDecode f) := worded rfl fun h => by
  show decodeE _ = _
  unfold decodeE
  rw [opPmov_pack, unpackPmov_pack, fixedPmov_pack]
  exact pmovOf_pmovDecode h

theorem pmovConfig (f : PmovF) : Statement (.pmovConfig f) := worded rfl fun h => by
  show decodeE _ = _
  unfold decodeE
  rw [opPmov_pack, unpackPmov_pack, fixedPmov_pack]
  exact pmovOf_pmovConfig h

theorem prd (f : PrdF) : Statement (.prd f) := worded rfl fun h => by
  show decodeE _ = _
  unfold decodeE
  rw [opPrd_pack, unpackPrd_pack, fixedPrd_pack]
  exact legal_ok h

theorem walk (f : WalkF) : Statement (.walk f) := worded rfl fun h => by
  show decodeE _ = _
  unfold decodeE
  rw [opWalk_pack, unpackWalk_pack, fixedWalk_pack]
  exact legal_ok h

theorem batonWait (f : BatonF) : Statement (.batonWait f) := worded rfl fun h => by
  show decodeE _ = _
  unfold decodeE
  rw [opBatonW_pack, unpackBatonW_pack, selBatonW_pack, fixedBatonW_pack]
  exact legal_ok h

theorem batonGive (f : BatonF) : Statement (.batonGive f) := worded rfl fun h => by
  show decodeE _ = _
  unfold decodeE
  rw [opBatonG_pack, unpackBatonG_pack, selBatonG_pack, fixedBatonG_pack]
  exact legal_ok h

theorem batonStat (f : BatonF) : Statement (.batonStat f) := worded rfl fun h => by
  show decodeE _ = _
  unfold decodeE
  rw [opBatonS_pack, unpackBatonS_pack, selBatonS_pack, fixedBatonS_pack]
  exact legal_ok h

theorem nsend (f : NSendF) : Statement (.nsend f) := worded rfl fun h => by
  show decodeE _ = _
  unfold decodeE
  rw [opNSend_pack, unpackNSend_pack, fixedNSend_pack]
  exact legal_ok h

theorem nmcast (f : NMcastF) : Statement (.nmcast f) := worded rfl fun h => by
  show decodeE _ = _
  unfold decodeE
  rw [opNMcast_pack, unpackNMcast_pack, fixedNMcast_pack]
  exact legal_ok h

theorem relay (f : RelayF) : Statement (.relay f) := worded rfl fun h => by
  show decodeE _ = _
  unfold decodeE
  rw [opRelay_pack, unpackRelay_pack, fixedRelay_pack]
  exact legal_ok h

theorem rlstat (f : DstSpec) : Statement (.rlstat f) := worded rfl fun h => by
  show decodeE _ = _
  unfold decodeE
  rw [opRlStat_pack, unpackRlStat_pack, selRlStat_pack, fixedRlStat_pack]
  exact legal_ok h

theorem rlstatWhy (f : DstSpec) : Statement (.rlstatWhy f) := worded rfl fun h => by
  show decodeE _ = _
  unfold decodeE
  rw [opRlWhy_pack, unpackRlWhy_pack, selRlWhy_pack, fixedRlWhy_pack]
  exact legal_ok h

theorem harrive (f : HurdleF) : Statement (.harrive f) := worded rfl fun h => by
  show decodeE _ = _
  unfold decodeE
  rw [opHurdle_pack, unpackHurdle_pack, fixedHurdle_pack]
  exact legal_ok h

theorem hwait (f : HurdleF) : Statement (.hwait f) := worded rfl fun h => by
  show decodeE _ = _
  unfold decodeE
  rw [opHurdle_pack, unpackHurdle_pack, fixedHurdle_pack]
  exact legal_ok h

theorem harw (f : HurdleF) : Statement (.harw f) := worded rfl fun h => by
  show decodeE _ = _
  unfold decodeE
  rw [opHurdle_pack, unpackHurdle_pack, fixedHurdle_pack]
  exact legal_ok h

theorem tqpush (f : TqPushF) : Statement (.tqpush f) := worded rfl fun h => by
  show decodeE _ = _
  unfold decodeE
  rw [opTqPush_pack, unpackTqPush_pack, fixedTqPush_pack]
  exact legal_ok h

theorem tqcancel (f : DstSpec) : Statement (.tqcancel f) := worded rfl fun h => by
  show decodeE _ = _
  unfold decodeE
  rw [opTqCancel_pack, unpackTqCancel_pack, fixedTqCancel_pack]
  exact legal_ok h

theorem jobwaitWait (f : JobWaitF) : Statement (.jobwaitWait f) := worded rfl fun h => by
  show decodeE _ = _
  unfold decodeE
  rw [opJobWait_pack, unpackJobWait_pack, selJobWait_pack, fixedJobWait_pack]
  exact legal_ok h

theorem jobwaitRd (f : DstSpec) : Statement (.jobwaitRd f) := worded rfl fun h => by
  show decodeE _ = _
  unfold decodeE
  rw [opJobRd_pack, unpackJobRd_pack, selJobRd_pack, fixedJobRd_pack]
  exact legal_ok h

theorem evpost (f : EvPostF) : Statement (.evpost f) := worded rfl fun h => by
  show decodeE _ = _
  unfold decodeE
  rw [opEvPost_pack, unpackEvPost_pack, fixedEvPost_pack]
  exact legal_ok h

theorem evwait (f : EvWaitF) : Statement (.evwait f) := worded rfl fun h => by
  show decodeE _ = _
  unfold decodeE
  rw [opEvWait_pack, unpackEvWait_pack, fixedEvWait_pack]
  exact legal_ok h

theorem klaunchX (f : KLaunchF) : Statement (.klaunchX f) := worded rfl fun h => by
  show decodeE _ = _
  unfold decodeE
  rw [opKLaunchX_pack, unpackKLaunchX_pack, selKLaunchX_pack, fixedKLaunchX_pack]
  exact legal_ok h

theorem klaunchK (f : KLaunchF) : Statement (.klaunchK f) := worded rfl fun h => by
  show decodeE _ = _
  unfold decodeE
  rw [opKLaunchK_pack, unpackKLaunchK_pack, selKLaunchK_pack, fixedKLaunchK_pack]
  exact legal_ok h

theorem klaunchR (f : KLaunchF) : Statement (.klaunchR f) := worded rfl fun h => by
  show decodeE _ = _
  unfold decodeE
  rw [opKLaunchR_pack, unpackKLaunchR_pack, selKLaunchR_pack, fixedKLaunchR_pack]
  exact legal_ok h

theorem syscallEmit (f : EmitF) : Statement (.syscallEmit f) := worded rfl fun h => by
  show decodeE _ = _
  unfold decodeE
  rw [opEmit_pack, unpackEmit_pack, selEmit_pack, fixedEmit_pack]
  exact legal_ok h

theorem syscallFlush (f : FlushF) : Statement (.syscallFlush f) := worded rfl fun h => by
  show decodeE _ = _
  unfold decodeE
  rw [opFlush_pack, unpackFlush_pack, selFlush_pack, fixedFlush_pack]
  exact legal_ok h

theorem syscallFree (f : FreeF) : Statement (.syscallFree f) := worded rfl fun h => by
  show decodeE _ = _
  unfold decodeE
  rw [opFree_pack, unpackFree_pack, selFree_pack, fixedFree_pack]
  exact legal_ok h

theorem srgen (f : SrGenF) : Statement (.srgen f) := worded rfl fun h => by
  show decodeE _ = _
  unfold decodeE
  rw [opSrGen_pack, unpackSrGen_pack, fixedSrGen_pack]
  exact legal_ok h

theorem openSession (h : CmdHead) (p : OpenP) : Statement (.openSession h p) := wordless rfl

theorem closeSession (h : CmdHead) : Statement (.closeSession h) := wordless rfl

theorem mapPages (h : CmdHead) (p : MapP) : Statement (.mapPages h p) := wordless rfl

theorem unmapPages (h : CmdHead) (p : UnmapP) : Statement (.unmapPages h p) := wordless rfl

theorem hostpage (h : CmdHead) (p : HostPageP) : Statement (.hostpage h p) := wordless rfl

theorem image (h : CmdHead) (p : ImageP) : Statement (.image h p) := wordless rfl

theorem launch (h : CmdHead) (p : LaunchP) : Statement (.launch h p) := wordless rfl

theorem graph (h : CmdHead) (p : GraphP) : Statement (.graph h p) := wordless rfl

theorem ringCmd (h : CmdHead) (p : RingP) : Statement (.ringCmd h p) := wordless rfl

theorem qpair (h : CmdHead) (p : QPairP) : Statement (.qpair h p) := wordless rfl

theorem nslot (h : CmdHead) (p : NSlotP) : Statement (.nslot h p) := wordless rfl

theorem preempt (h : CmdHead) (id : Word) : Statement (.preempt h id) := wordless rfl

theorem umostythResume (h : CmdHead) (id : Word) : Statement (.umostythResume h id) := wordless rfl

theorem attest (h : CmdHead) (p : AttestP) : Statement (.attest h p) := wordless rfl

theorem query (h : CmdHead) (p : QueryP) : Statement (.query h p) := wordless rfl

theorem patch (h : CmdHead) (p : PatchP) : Statement (.patch h p) := wordless rfl

theorem portreset (h : CmdHead) (port : BitVec 4) : Statement (.portreset h port) := wordless rfl

theorem power (h : CmdHead) (watts : Word) : Statement (.power h watts) := wordless rfl

theorem halt (f : DbgF) : Statement (.halt f) := wordless rfl

theorem debugResume (f : DbgF) : Statement (.debugResume f) := wordless rfl

theorem stepCtx (f : DbgF) : Statement (.stepCtx f) := wordless rfl

theorem rdreg (f : DbgF) : Statement (.rdreg f) := wordless rfl

theorem wrreg (f : DbgF) : Statement (.wrreg f) := wordless rfl

theorem haltstage (f : DbgF) : Statement (.haltstage f) := wordless rfl

theorem runstage (f : DbgF) : Statement (.runstage f) := wordless rfl

theorem setbrk (f : DbgF) : Statement (.setbrk f) := wordless rfl

theorem clrbrk (f : DbgF) : Statement (.clrbrk f) := wordless rfl

theorem lapclr (f : DbgF) : Statement (.lapclr f) := wordless rfl

theorem idle (n : BitVec 20) : Statement (.idle n) := wordless rfl

theorem idleRunEnd (key : Nat) : Statement (.idleRunEnd key) := wordless rfl

theorem precheckEnd (key : Nat) : Statement (.precheckEnd key) := wordless rfl

theorem mOpStart (unit : Nat) : Statement (.mOpStart unit) := wordless rfl

theorem mOpLand (unit : Nat) : Statement (.mOpLand unit) := wordless rfl

theorem drainVerdict (unit : Nat) : Statement (.drainVerdict unit) := wordless rfl

theorem arrayRelease (unit : Nat) : Statement (.arrayRelease unit) := wordless rfl

theorem accessAdmission (key : Nat) : Statement (.accessAdmission key) := wordless rfl

theorem stallBecomesBlock (key : Nat) : Statement (.stallBecomesBlock key) := wordless rfl

theorem waiterRetry (key : Nat) : Statement (.waiterRetry key) := wordless rfl

theorem l1Fill (unit : Nat) (va : Addr) : Statement (.l1Fill unit va) := wordless rfl

theorem storeApply (key : Nat) (i : Nat) : Statement (.storeApply key i) := wordless rfl

theorem atomicPerform (key : Nat) : Statement (.atomicPerform key) := wordless rfl

theorem pageResolve (session : Nat) (va : Addr) : Statement (.pageResolve session va) := wordless rfl

theorem resultLand (key : Nat) (i : Nat) : Statement (.resultLand key i) := wordless rfl

theorem fixedResultVisible (key : Nat) : Statement (.fixedResultVisible key) := wordless rfl

theorem demand (session : Nat) (va : Addr) : Statement (.demand session va) := wordless rfl

theorem tileEvaluation (i : Nat) : Statement (.tileEvaluation i) := wordless rfl

theorem tileEvaluated (i : Nat) : Statement (.tileEvaluated i) := wordless rfl

theorem evaluationFailed (i : Nat) : Statement (.evaluationFailed i) := wordless rfl

theorem deferredFaultDelivery (key : Nat) : Statement (.deferredFaultDelivery key) := wordless rfl

theorem sleeptoDeadline (key : Nat) : Statement (.sleeptoDeadline key) := wordless rfl

theorem copyDataPhaseStart (cluster : Nat) : Statement (.copyDataPhaseStart cluster) := wordless rfl

theorem storageSubmit (cluster : Nat) : Statement (.storageSubmit cluster) := wordless rfl

theorem nvmeCompletion (cluster : Nat) (half : Nat) (status : BitVec 15) (data : List Byte) : Statement (.nvmeCompletion cluster half status data) := wordless rfl

theorem nvmeTimeout (cluster : Nat) (half : Nat) : Statement (.nvmeTimeout cluster half) := wordless rfl

theorem storageLaneDecode (cluster : Nat) (codec : Nat) : Statement (.storageLaneDecode cluster codec) := wordless rfl

theorem requestDone (i : Nat) : Statement (.requestDone i) := wordless rfl

theorem transformOpStart (cluster : Nat) (unit : Nat) : Statement (.transformOpStart cluster unit) := wordless rfl

theorem loaderTile (cluster engine slot : Nat) : Statement (.loaderTile cluster engine slot) := wordless rfl

theorem storerTile (cluster engine slot : Nat) : Statement (.storerTile cluster engine slot) := wordless rfl

theorem nakanSendTile (port : Nat) : Statement (.nakanSendTile port) := wordless rfl

theorem nakanTileReceive (p : TilePacket) : Statement (.nakanTileReceive p) := wordless rfl

theorem nakanAck (i : Nat) : Statement (.nakanAck i) := wordless rfl

theorem nakanNak (i : Nat) (refusal : BitVec 3) : Statement (.nakanNak i refusal) := wordless rfl

theorem nakanNoAnswer (i : Nat) : Statement (.nakanNoAnswer i) := wordless rfl

theorem nakanFlitCrcFail (port : Nat) : Statement (.nakanFlitCrcFail port) := wordless rfl

theorem relayStepStart (stack slot : Nat) : Statement (.relayStepStart stack slot) := wordless rfl

theorem relayPacketReceive (stack : Nat) (p : RelayPacket) : Statement (.relayPacketReceive stack p) := wordless rfl

theorem relayBusyRetry (i : Nat) : Statement (.relayBusyRetry i) := wordless rfl

theorem relayPacketExpire (stack : Nat) (i : Nat) : Statement (.relayPacketExpire stack i) := wordless rfl

theorem relayNoAnswer (i : Nat) : Statement (.relayNoAnswer i) := wordless rfl

theorem stopNotice (stack : Nat) (chan epoch : BitVec 16) (peer : BitVec 10) (cause : BitVec 8) : Statement (.stopNotice stack chan epoch peer cause) := wordless rfl

theorem kernelPushing (cluster entry : Nat) : Statement (.kernelPushing cluster entry) := wordless rfl

theorem tokenRingTimeout (session ring : Nat) : Statement (.tokenRingTimeout session ring) := wordless rfl

theorem randomWordDelivery (unit : Nat) : Statement (.randomWordDelivery unit) := wordless rfl

theorem scheduleContext (unit : Nat) : Statement (.scheduleContext unit) := wordless rfl

theorem sprintLimit (key : Nat) : Statement (.sprintLimit key) := wordless rfl

theorem drowsy (key : Nat) : Statement (.drowsy key) := wordless rfl

theorem blockClears (key : Nat) : Statement (.blockClears key) := wordless rfl

theorem contextDrained (key : Nat) : Statement (.contextDrained key) := wordless rfl

theorem taskBind (cluster : Nat) : Statement (.taskBind cluster) := wordless rfl

theorem parkedTaskRestore (unit : Nat) : Statement (.parkedTaskRestore unit) := wordless rfl

theorem latchReplayLand (key : Nat) : Statement (.latchReplayLand key) := wordless rfl

theorem launchStart (i : Nat) : Statement (.launchStart i) := wordless rfl

theorem launchRetire (i : Nat) : Statement (.launchRetire i) := wordless rfl

theorem fatalFault (i : Nat) : Statement (.fatalFault i) := wordless rfl

theorem flitCrcFail (boundary : Nat) : Statement (.flitCrcFail boundary) := wordless rfl

theorem thermalTrip : Statement (.thermalTrip) := wordless rfl

theorem thermalThrottle (hz : Nat) : Statement (.thermalThrottle hz) := wordless rfl

theorem clockLoweringAnnounce (hz : Nat) : Statement (.clockLoweringAnnounce hz) := wordless rfl

theorem clockLoweringApply : Statement (.clockLoweringApply) := wordless rfl

theorem graphLaunchNode (ring : Nat) : Statement (.graphLaunchNode ring) := wordless rfl

theorem graphCopyNode (ring : Nat) : Statement (.graphCopyNode ring) := wordless rfl

theorem graphNotifyNode (ring : Nat) : Statement (.graphNotifyNode ring) := wordless rfl

theorem graphConditionalNode (ring : Nat) : Statement (.graphConditionalNode ring) := wordless rfl

theorem graphEndNode (ring : Nat) : Statement (.graphEndNode ring) := wordless rfl

theorem graphLimit (ring : Nat) : Statement (.graphLimit ring) := wordless rfl

theorem commandDoorbell (ring : Nat) (tail : Word) : Statement (.commandDoorbell ring tail) := wordless rfl

theorem ringReset (ring : Nat) : Statement (.ringReset ring) := wordless rfl

theorem pheadWrite (ring : Nat) (v : Word) : Statement (.pheadWrite ring v) := wordless rfl

theorem tconsWrite (session ring : Nat) (v : Word) : Statement (.tconsWrite session ring v) := wordless rfl

theorem moduleReset : Statement (.moduleReset) := wordless rfl

theorem functionLevelReset : Statement (.functionLevelReset) := wordless rfl

theorem conventionalReset : Statement (.conventionalReset) := wordless rfl

theorem registerWrite (space : BitVec 2) (offset : Nat) (bytes : List Byte) : Statement (.registerWrite space offset bytes) := wordless rfl

theorem traceSample : Statement (.traceSample) := wordless rfl

theorem hostApertureAccess (offset : Nat) (write : Bool) (bytes : List Byte) : Statement (.hostApertureAccess offset write bytes) := wordless rfl

theorem clockRaise (hz : Nat) : Statement (.clockRaise hz) := wordless rfl


end Sys2Proof.Laws.RoundTrip

end
end

