-- ==== Sys2Proof/Laws/State.lean ====
section
/-! SUPPORT. The named updates of the state, field by field, and reading a map after a write to it. -/

namespace Sys2Proof.Machine

/-! ## Maps -/

theorem SMap.find_put_same {α : Type} (k : Nat) (v : α) : ∀ m : SMap α, (m.put k v).find k = some v
  | [] => by simp [SMap.put, SMap.find]
  | (j, w) :: rest => by
    unfold SMap.put
    split
    · simp [SMap.find]
    · split
      · simp [SMap.find]
      · next h => rw [SMap.find, if_neg (fun e => h e.symm)]; exact SMap.find_put_same k v rest

theorem SMap.find_put_ne {α : Type} {k i : Nat} (v : α) (h : i ≠ k) : ∀ m : SMap α, (m.put k v).find i = m.find i
  | [] => by simp [SMap.put, SMap.find, Ne.symm h]
  | (j, w) :: rest => by
    unfold SMap.put
    split
    · rw [SMap.find, if_neg (Ne.symm h)]
    · split
      · next e => subst e; rw [SMap.find, SMap.find, if_neg (Ne.symm h), if_neg (Ne.symm h)]
      · rw [SMap.find, SMap.find, SMap.find_put_ne v h rest]

@[simp] theorem SMap.get_put_same {α : Type} (m : SMap α) (k : Nat) (v d : α) : (m.put k v).get d k = v := by
  rw [SMap.get, SMap.find_put_same]; rfl
theorem SMap.get_put_ne {α : Type} {k i : Nat} (h : i ≠ k) (m : SMap α) (v d : α) : (m.put k v).get d i = m.get d i := by
  rw [SMap.get, SMap.get, SMap.find_put_ne v h]

/-! ## Contexts, units and clusters after an update -/

@[simp] theorem State.ctxAt_setCtx (s : State) (k : Nat) (c : Ctx) : (s.setCtx k c).ctxAt k = c := SMap.get_put_same ..
theorem State.ctxAt_setCtx_ne {k i : Nat} (h : i ≠ k) (s : State) (c : Ctx) : (s.setCtx k c).ctxAt i = s.ctxAt i :=
  SMap.get_put_ne h ..
@[simp] theorem State.ctxAt_updCtx (s : State) (k : Nat) (f : Ctx → Ctx) : (s.updCtx k f).ctxAt k = f (s.ctxAt k) :=
  SMap.get_put_same ..
theorem State.ctxAt_updCtx_ne {k i : Nat} (h : i ≠ k) (s : State) (f : Ctx → Ctx) :
    (s.updCtx k f).ctxAt i = s.ctxAt i := SMap.get_put_ne h ..
@[simp] theorem State.ctx_upd (s : State) (f : Ctx → Ctx) : (s.upd f).ctx = f s.ctx := SMap.get_put_same ..
@[simp] theorem State.ctx_ends (s : State) (w : Flow) : (s.ends w).ctx = s.ctx := rfl
@[simp] theorem State.ctxAt_ends (s : State) (w : Flow) (k : Nat) : (s.ends w).ctxAt k = s.ctxAt k := rfl
@[simp] theorem State.unitAt_setUnit (s : State) (u : Nat) (x : UnitSt) : (s.setUnit u x).unitAt u = x :=
  SMap.get_put_same ..
theorem State.unitAt_setUnit_ne {u i : Nat} (h : i ≠ u) (s : State) (x : UnitSt) :
    (s.setUnit u x).unitAt i = s.unitAt i := SMap.get_put_ne h ..
@[simp] theorem State.unitAt_updUnit (s : State) (u : Nat) (f : UnitSt → UnitSt) :
    (s.updUnit u f).unitAt u = f (s.unitAt u) := SMap.get_put_same ..
theorem State.unitAt_updUnit_ne {u i : Nat} (h : i ≠ u) (s : State) (f : UnitSt → UnitSt) :
    (s.updUnit u f).unitAt i = s.unitAt i := SMap.get_put_ne h ..
@[simp] theorem State.clusterAt_updCluster (s : State) (c : Nat) (f : ClusterSt → ClusterSt) :
    (s.updCluster c f).clusterAt c = f (s.clusterAt c) := SMap.get_put_same ..
theorem State.clusterAt_updCluster_ne {c i : Nat} (h : i ≠ c) (s : State) (f : ClusterSt → ClusterSt) :
    (s.updCluster c f).clusterAt i = s.clusterAt i := SMap.get_put_ne h ..

/-! ## Field by field -/


section
variable (s : State) (k : Nat) (c : Ctx)

@[simp] theorem State.setCtx_inputs : (s.setCtx k c).inputs = s.inputs := rfl
@[simp] theorem State.setCtx_choices : (s.setCtx k c).choices = s.choices := rfl
@[simp] theorem State.setCtx_freeCount : (s.setCtx k c).freeCount = s.freeCount := rfl
@[simp] theorem State.setCtx_cur : (s.setCtx k c).cur = s.cur := rfl
@[simp] theorem State.setCtx_slot : (s.setCtx k c).slot = s.slot := rfl
@[simp] theorem State.setCtx_flow : (s.setCtx k c).flow = s.flow := rfl
@[simp] theorem State.setCtx_agenda : (s.setCtx k c).agenda = s.agenda := rfl
@[simp] theorem State.setCtx_nextUid : (s.setCtx k c).nextUid = s.nextUid := rfl
@[simp] theorem State.setCtx_cycle : (s.setCtx k c).cycle = s.cycle := rfl
@[simp] theorem State.setCtx_mtc : (s.setCtx k c).mtc = s.mtc := rfl
@[simp] theorem State.setCtx_clock : (s.setCtx k c).clock = s.clock := rfl
@[simp] theorem State.setCtx_mtcFrac : (s.setCtx k c).mtcFrac = s.mtcFrac := rfl
@[simp] theorem State.setCtx_mem : (s.setCtx k c).mem = s.mem := rfl
@[simp] theorem State.setCtx_ctxs : (s.setCtx k c).ctxs = s.ctxs.put k c := rfl
@[simp] theorem State.setCtx_units : (s.setCtx k c).units = s.units := rfl
@[simp] theorem State.setCtx_clusters : (s.setCtx k c).clusters = s.clusters := rfl
@[simp] theorem State.setCtx_tags : (s.setCtx k c).tags = s.tags := rfl
@[simp] theorem State.setCtx_pages : (s.setCtx k c).pages = s.pages := rfl
@[simp] theorem State.setCtx_faults : (s.setCtx k c).faults = s.faults := rfl
@[simp] theorem State.setCtx_refused : (s.setCtx k c).refused = s.refused := rfl
@[simp] theorem State.setCtx_tlbs : (s.setCtx k c).tlbs = s.tlbs := rfl
@[simp] theorem State.setCtx_walkers : (s.setCtx k c).walkers = s.walkers := rfl
@[simp] theorem State.setCtx_engineReads : (s.setCtx k c).engineReads = s.engineReads := rfl
@[simp] theorem State.setCtx_ecc : (s.setCtx k c).ecc = s.ecc := rfl
@[simp] theorem State.setCtx_nodes : (s.setCtx k c).nodes = s.nodes := rfl
@[simp] theorem State.setCtx_gens : (s.setCtx k c).gens = s.gens := rfl
@[simp] theorem State.setCtx_evals : (s.setCtx k c).evals = s.evals := rfl
@[simp] theorem State.setCtx_engs : (s.setCtx k c).engs = s.engs := rfl
@[simp] theorem State.setCtx_walks : (s.setCtx k c).walks = s.walks := rfl
@[simp] theorem State.setCtx_walkGens : (s.setCtx k c).walkGens = s.walkGens := rfl
@[simp] theorem State.setCtx_storerEnds : (s.setCtx k c).storerEnds = s.storerEnds := rfl
@[simp] theorem State.setCtx_parts : (s.setCtx k c).parts = s.parts := rfl
@[simp] theorem State.setCtx_sent : (s.setCtx k c).sent = s.sent := rfl
@[simp] theorem State.setCtx_inbox : (s.setCtx k c).inbox = s.inbox := rfl
@[simp] theorem State.setCtx_relays : (s.setCtx k c).relays = s.relays := rfl
@[simp] theorem State.setCtx_relayGens : (s.setCtx k c).relayGens = s.relayGens := rfl
@[simp] theorem State.setCtx_relaySent : (s.setCtx k c).relaySent = s.relaySent := rfl
@[simp] theorem State.setCtx_relayBuf : (s.setCtx k c).relayBuf = s.relayBuf := rfl
@[simp] theorem State.setCtx_relayNotices : (s.setCtx k c).relayNotices = s.relayNotices := rfl
@[simp] theorem State.setCtx_relayQ : (s.setCtx k c).relayQ = s.relayQ := rfl
@[simp] theorem State.setCtx_portFailed : (s.setCtx k c).portFailed = s.portFailed := rfl
@[simp] theorem State.setCtx_portFlits : (s.setCtx k c).portFlits = s.portFlits := rfl
@[simp] theorem State.setCtx_deferred : (s.setCtx k c).deferred = s.deferred := rfl
@[simp] theorem State.setCtx_slices : (s.setCtx k c).slices = s.slices := rfl
@[simp] theorem State.setCtx_sessions : (s.setCtx k c).sessions = s.sessions := rfl
@[simp] theorem State.setCtx_qpairs : (s.setCtx k c).qpairs = s.qpairs := rfl
@[simp] theorem State.setCtx_announced : (s.setCtx k c).announced = s.announced := rfl
@[simp] theorem State.setCtx_signals : (s.setCtx k c).signals = s.signals := rfl
@[simp] theorem State.setCtx_hostWins : (s.setCtx k c).hostWins = s.hostWins := rfl
@[simp] theorem State.setCtx_viol : (s.setCtx k c).viol = s.viol := rfl
@[simp] theorem State.setCtx_launches : (s.setCtx k c).launches = s.launches := rfl
@[simp] theorem State.setCtx_fatals : (s.setCtx k c).fatals = s.fatals := rfl
@[simp] theorem State.setCtx_rings : (s.setCtx k c).rings = s.rings := rfl
@[simp] theorem State.setCtx_msix : (s.setCtx k c).msix = s.msix := rfl
@[simp] theorem State.setCtx_hostHeld : (s.setCtx k c).hostHeld = s.hostHeld := rfl
@[simp] theorem State.setCtx_msixPend : (s.setCtx k c).msixPend = s.msixPend := rfl
@[simp] theorem State.setCtx_firmware : (s.setCtx k c).firmware = s.firmware := rfl
@[simp] theorem State.setCtx_boundaryFlits : (s.setCtx k c).boundaryFlits = s.boundaryFlits := rfl
@[simp] theorem State.setCtx_hbm : (s.setCtx k c).hbm = s.hbm := rfl
@[simp] theorem State.setCtx_worlds : (s.setCtx k c).worlds = s.worlds := rfl
@[simp] theorem State.setCtx_dbg : (s.setCtx k c).dbg = s.dbg := rfl

end

section
variable (s : State) (k : Nat) (f : Ctx → Ctx)

@[simp] theorem State.updCtx_inputs : (s.updCtx k f).inputs = s.inputs := rfl
@[simp] theorem State.updCtx_choices : (s.updCtx k f).choices = s.choices := rfl
@[simp] theorem State.updCtx_freeCount : (s.updCtx k f).freeCount = s.freeCount := rfl
@[simp] theorem State.updCtx_cur : (s.updCtx k f).cur = s.cur := rfl
@[simp] theorem State.updCtx_slot : (s.updCtx k f).slot = s.slot := rfl
@[simp] theorem State.updCtx_flow : (s.updCtx k f).flow = s.flow := rfl
@[simp] theorem State.updCtx_agenda : (s.updCtx k f).agenda = s.agenda := rfl
@[simp] theorem State.updCtx_nextUid : (s.updCtx k f).nextUid = s.nextUid := rfl
@[simp] theorem State.updCtx_cycle : (s.updCtx k f).cycle = s.cycle := rfl
@[simp] theorem State.updCtx_mtc : (s.updCtx k f).mtc = s.mtc := rfl
@[simp] theorem State.updCtx_clock : (s.updCtx k f).clock = s.clock := rfl
@[simp] theorem State.updCtx_mtcFrac : (s.updCtx k f).mtcFrac = s.mtcFrac := rfl
@[simp] theorem State.updCtx_mem : (s.updCtx k f).mem = s.mem := rfl
@[simp] theorem State.updCtx_ctxs : (s.updCtx k f).ctxs = s.ctxs.put k (f (s.ctxAt k)) := rfl
@[simp] theorem State.updCtx_units : (s.updCtx k f).units = s.units := rfl
@[simp] theorem State.updCtx_clusters : (s.updCtx k f).clusters = s.clusters := rfl
@[simp] theorem State.updCtx_tags : (s.updCtx k f).tags = s.tags := rfl
@[simp] theorem State.updCtx_pages : (s.updCtx k f).pages = s.pages := rfl
@[simp] theorem State.updCtx_faults : (s.updCtx k f).faults = s.faults := rfl
@[simp] theorem State.updCtx_refused : (s.updCtx k f).refused = s.refused := rfl
@[simp] theorem State.updCtx_tlbs : (s.updCtx k f).tlbs = s.tlbs := rfl
@[simp] theorem State.updCtx_walkers : (s.updCtx k f).walkers = s.walkers := rfl
@[simp] theorem State.updCtx_engineReads : (s.updCtx k f).engineReads = s.engineReads := rfl
@[simp] theorem State.updCtx_ecc : (s.updCtx k f).ecc = s.ecc := rfl
@[simp] theorem State.updCtx_nodes : (s.updCtx k f).nodes = s.nodes := rfl
@[simp] theorem State.updCtx_gens : (s.updCtx k f).gens = s.gens := rfl
@[simp] theorem State.updCtx_evals : (s.updCtx k f).evals = s.evals := rfl
@[simp] theorem State.updCtx_engs : (s.updCtx k f).engs = s.engs := rfl
@[simp] theorem State.updCtx_walks : (s.updCtx k f).walks = s.walks := rfl
@[simp] theorem State.updCtx_walkGens : (s.updCtx k f).walkGens = s.walkGens := rfl
@[simp] theorem State.updCtx_storerEnds : (s.updCtx k f).storerEnds = s.storerEnds := rfl
@[simp] theorem State.updCtx_parts : (s.updCtx k f).parts = s.parts := rfl
@[simp] theorem State.updCtx_sent : (s.updCtx k f).sent = s.sent := rfl
@[simp] theorem State.updCtx_inbox : (s.updCtx k f).inbox = s.inbox := rfl
@[simp] theorem State.updCtx_relays : (s.updCtx k f).relays = s.relays := rfl
@[simp] theorem State.updCtx_relayGens : (s.updCtx k f).relayGens = s.relayGens := rfl
@[simp] theorem State.updCtx_relaySent : (s.updCtx k f).relaySent = s.relaySent := rfl
@[simp] theorem State.updCtx_relayBuf : (s.updCtx k f).relayBuf = s.relayBuf := rfl
@[simp] theorem State.updCtx_relayNotices : (s.updCtx k f).relayNotices = s.relayNotices := rfl
@[simp] theorem State.updCtx_relayQ : (s.updCtx k f).relayQ = s.relayQ := rfl
@[simp] theorem State.updCtx_portFailed : (s.updCtx k f).portFailed = s.portFailed := rfl
@[simp] theorem State.updCtx_portFlits : (s.updCtx k f).portFlits = s.portFlits := rfl
@[simp] theorem State.updCtx_deferred : (s.updCtx k f).deferred = s.deferred := rfl
@[simp] theorem State.updCtx_slices : (s.updCtx k f).slices = s.slices := rfl
@[simp] theorem State.updCtx_sessions : (s.updCtx k f).sessions = s.sessions := rfl
@[simp] theorem State.updCtx_qpairs : (s.updCtx k f).qpairs = s.qpairs := rfl
@[simp] theorem State.updCtx_announced : (s.updCtx k f).announced = s.announced := rfl
@[simp] theorem State.updCtx_signals : (s.updCtx k f).signals = s.signals := rfl
@[simp] theorem State.updCtx_hostWins : (s.updCtx k f).hostWins = s.hostWins := rfl
@[simp] theorem State.updCtx_viol : (s.updCtx k f).viol = s.viol := rfl
@[simp] theorem State.updCtx_launches : (s.updCtx k f).launches = s.launches := rfl
@[simp] theorem State.updCtx_fatals : (s.updCtx k f).fatals = s.fatals := rfl
@[simp] theorem State.updCtx_rings : (s.updCtx k f).rings = s.rings := rfl
@[simp] theorem State.updCtx_msix : (s.updCtx k f).msix = s.msix := rfl
@[simp] theorem State.updCtx_hostHeld : (s.updCtx k f).hostHeld = s.hostHeld := rfl
@[simp] theorem State.updCtx_msixPend : (s.updCtx k f).msixPend = s.msixPend := rfl
@[simp] theorem State.updCtx_firmware : (s.updCtx k f).firmware = s.firmware := rfl
@[simp] theorem State.updCtx_boundaryFlits : (s.updCtx k f).boundaryFlits = s.boundaryFlits := rfl
@[simp] theorem State.updCtx_hbm : (s.updCtx k f).hbm = s.hbm := rfl
@[simp] theorem State.updCtx_worlds : (s.updCtx k f).worlds = s.worlds := rfl
@[simp] theorem State.updCtx_dbg : (s.updCtx k f).dbg = s.dbg := rfl

end

section
variable (s : State) (f : Ctx → Ctx)

@[simp] theorem State.upd_inputs : (s.upd f).inputs = s.inputs := rfl
@[simp] theorem State.upd_choices : (s.upd f).choices = s.choices := rfl
@[simp] theorem State.upd_freeCount : (s.upd f).freeCount = s.freeCount := rfl
@[simp] theorem State.upd_cur : (s.upd f).cur = s.cur := rfl
@[simp] theorem State.upd_slot : (s.upd f).slot = s.slot := rfl
@[simp] theorem State.upd_flow : (s.upd f).flow = s.flow := rfl
@[simp] theorem State.upd_agenda : (s.upd f).agenda = s.agenda := rfl
@[simp] theorem State.upd_nextUid : (s.upd f).nextUid = s.nextUid := rfl
@[simp] theorem State.upd_cycle : (s.upd f).cycle = s.cycle := rfl
@[simp] theorem State.upd_mtc : (s.upd f).mtc = s.mtc := rfl
@[simp] theorem State.upd_clock : (s.upd f).clock = s.clock := rfl
@[simp] theorem State.upd_mtcFrac : (s.upd f).mtcFrac = s.mtcFrac := rfl
@[simp] theorem State.upd_mem : (s.upd f).mem = s.mem := rfl
@[simp] theorem State.upd_ctxs : (s.upd f).ctxs = s.ctxs.put s.cur (f s.ctx) := rfl
@[simp] theorem State.upd_units : (s.upd f).units = s.units := rfl
@[simp] theorem State.upd_clusters : (s.upd f).clusters = s.clusters := rfl
@[simp] theorem State.upd_tags : (s.upd f).tags = s.tags := rfl
@[simp] theorem State.upd_pages : (s.upd f).pages = s.pages := rfl
@[simp] theorem State.upd_faults : (s.upd f).faults = s.faults := rfl
@[simp] theorem State.upd_refused : (s.upd f).refused = s.refused := rfl
@[simp] theorem State.upd_tlbs : (s.upd f).tlbs = s.tlbs := rfl
@[simp] theorem State.upd_walkers : (s.upd f).walkers = s.walkers := rfl
@[simp] theorem State.upd_engineReads : (s.upd f).engineReads = s.engineReads := rfl
@[simp] theorem State.upd_ecc : (s.upd f).ecc = s.ecc := rfl
@[simp] theorem State.upd_nodes : (s.upd f).nodes = s.nodes := rfl
@[simp] theorem State.upd_gens : (s.upd f).gens = s.gens := rfl
@[simp] theorem State.upd_evals : (s.upd f).evals = s.evals := rfl
@[simp] theorem State.upd_engs : (s.upd f).engs = s.engs := rfl
@[simp] theorem State.upd_walks : (s.upd f).walks = s.walks := rfl
@[simp] theorem State.upd_walkGens : (s.upd f).walkGens = s.walkGens := rfl
@[simp] theorem State.upd_storerEnds : (s.upd f).storerEnds = s.storerEnds := rfl
@[simp] theorem State.upd_parts : (s.upd f).parts = s.parts := rfl
@[simp] theorem State.upd_sent : (s.upd f).sent = s.sent := rfl
@[simp] theorem State.upd_inbox : (s.upd f).inbox = s.inbox := rfl
@[simp] theorem State.upd_relays : (s.upd f).relays = s.relays := rfl
@[simp] theorem State.upd_relayGens : (s.upd f).relayGens = s.relayGens := rfl
@[simp] theorem State.upd_relaySent : (s.upd f).relaySent = s.relaySent := rfl
@[simp] theorem State.upd_relayBuf : (s.upd f).relayBuf = s.relayBuf := rfl
@[simp] theorem State.upd_relayNotices : (s.upd f).relayNotices = s.relayNotices := rfl
@[simp] theorem State.upd_relayQ : (s.upd f).relayQ = s.relayQ := rfl
@[simp] theorem State.upd_portFailed : (s.upd f).portFailed = s.portFailed := rfl
@[simp] theorem State.upd_portFlits : (s.upd f).portFlits = s.portFlits := rfl
@[simp] theorem State.upd_deferred : (s.upd f).deferred = s.deferred := rfl
@[simp] theorem State.upd_slices : (s.upd f).slices = s.slices := rfl
@[simp] theorem State.upd_sessions : (s.upd f).sessions = s.sessions := rfl
@[simp] theorem State.upd_qpairs : (s.upd f).qpairs = s.qpairs := rfl
@[simp] theorem State.upd_announced : (s.upd f).announced = s.announced := rfl
@[simp] theorem State.upd_signals : (s.upd f).signals = s.signals := rfl
@[simp] theorem State.upd_hostWins : (s.upd f).hostWins = s.hostWins := rfl
@[simp] theorem State.upd_viol : (s.upd f).viol = s.viol := rfl
@[simp] theorem State.upd_launches : (s.upd f).launches = s.launches := rfl
@[simp] theorem State.upd_fatals : (s.upd f).fatals = s.fatals := rfl
@[simp] theorem State.upd_rings : (s.upd f).rings = s.rings := rfl
@[simp] theorem State.upd_msix : (s.upd f).msix = s.msix := rfl
@[simp] theorem State.upd_hostHeld : (s.upd f).hostHeld = s.hostHeld := rfl
@[simp] theorem State.upd_msixPend : (s.upd f).msixPend = s.msixPend := rfl
@[simp] theorem State.upd_firmware : (s.upd f).firmware = s.firmware := rfl
@[simp] theorem State.upd_boundaryFlits : (s.upd f).boundaryFlits = s.boundaryFlits := rfl
@[simp] theorem State.upd_hbm : (s.upd f).hbm = s.hbm := rfl
@[simp] theorem State.upd_worlds : (s.upd f).worlds = s.worlds := rfl
@[simp] theorem State.upd_dbg : (s.upd f).dbg = s.dbg := rfl

end

section
variable (s : State) (u : Nat) (x : UnitSt)

@[simp] theorem State.setUnit_inputs : (s.setUnit u x).inputs = s.inputs := rfl
@[simp] theorem State.setUnit_choices : (s.setUnit u x).choices = s.choices := rfl
@[simp] theorem State.setUnit_freeCount : (s.setUnit u x).freeCount = s.freeCount := rfl
@[simp] theorem State.setUnit_cur : (s.setUnit u x).cur = s.cur := rfl
@[simp] theorem State.setUnit_slot : (s.setUnit u x).slot = s.slot := rfl
@[simp] theorem State.setUnit_flow : (s.setUnit u x).flow = s.flow := rfl
@[simp] theorem State.setUnit_agenda : (s.setUnit u x).agenda = s.agenda := rfl
@[simp] theorem State.setUnit_nextUid : (s.setUnit u x).nextUid = s.nextUid := rfl
@[simp] theorem State.setUnit_cycle : (s.setUnit u x).cycle = s.cycle := rfl
@[simp] theorem State.setUnit_mtc : (s.setUnit u x).mtc = s.mtc := rfl
@[simp] theorem State.setUnit_clock : (s.setUnit u x).clock = s.clock := rfl
@[simp] theorem State.setUnit_mtcFrac : (s.setUnit u x).mtcFrac = s.mtcFrac := rfl
@[simp] theorem State.setUnit_mem : (s.setUnit u x).mem = s.mem := rfl
@[simp] theorem State.setUnit_ctxs : (s.setUnit u x).ctxs = s.ctxs := rfl
@[simp] theorem State.setUnit_units : (s.setUnit u x).units = s.units.put u x := rfl
@[simp] theorem State.setUnit_clusters : (s.setUnit u x).clusters = s.clusters := rfl
@[simp] theorem State.setUnit_tags : (s.setUnit u x).tags = s.tags := rfl
@[simp] theorem State.setUnit_pages : (s.setUnit u x).pages = s.pages := rfl
@[simp] theorem State.setUnit_faults : (s.setUnit u x).faults = s.faults := rfl
@[simp] theorem State.setUnit_refused : (s.setUnit u x).refused = s.refused := rfl
@[simp] theorem State.setUnit_tlbs : (s.setUnit u x).tlbs = s.tlbs := rfl
@[simp] theorem State.setUnit_walkers : (s.setUnit u x).walkers = s.walkers := rfl
@[simp] theorem State.setUnit_engineReads : (s.setUnit u x).engineReads = s.engineReads := rfl
@[simp] theorem State.setUnit_ecc : (s.setUnit u x).ecc = s.ecc := rfl
@[simp] theorem State.setUnit_nodes : (s.setUnit u x).nodes = s.nodes := rfl
@[simp] theorem State.setUnit_gens : (s.setUnit u x).gens = s.gens := rfl
@[simp] theorem State.setUnit_evals : (s.setUnit u x).evals = s.evals := rfl
@[simp] theorem State.setUnit_engs : (s.setUnit u x).engs = s.engs := rfl
@[simp] theorem State.setUnit_walks : (s.setUnit u x).walks = s.walks := rfl
@[simp] theorem State.setUnit_walkGens : (s.setUnit u x).walkGens = s.walkGens := rfl
@[simp] theorem State.setUnit_storerEnds : (s.setUnit u x).storerEnds = s.storerEnds := rfl
@[simp] theorem State.setUnit_parts : (s.setUnit u x).parts = s.parts := rfl
@[simp] theorem State.setUnit_sent : (s.setUnit u x).sent = s.sent := rfl
@[simp] theorem State.setUnit_inbox : (s.setUnit u x).inbox = s.inbox := rfl
@[simp] theorem State.setUnit_relays : (s.setUnit u x).relays = s.relays := rfl
@[simp] theorem State.setUnit_relayGens : (s.setUnit u x).relayGens = s.relayGens := rfl
@[simp] theorem State.setUnit_relaySent : (s.setUnit u x).relaySent = s.relaySent := rfl
@[simp] theorem State.setUnit_relayBuf : (s.setUnit u x).relayBuf = s.relayBuf := rfl
@[simp] theorem State.setUnit_relayNotices : (s.setUnit u x).relayNotices = s.relayNotices := rfl
@[simp] theorem State.setUnit_relayQ : (s.setUnit u x).relayQ = s.relayQ := rfl
@[simp] theorem State.setUnit_portFailed : (s.setUnit u x).portFailed = s.portFailed := rfl
@[simp] theorem State.setUnit_portFlits : (s.setUnit u x).portFlits = s.portFlits := rfl
@[simp] theorem State.setUnit_deferred : (s.setUnit u x).deferred = s.deferred := rfl
@[simp] theorem State.setUnit_slices : (s.setUnit u x).slices = s.slices := rfl
@[simp] theorem State.setUnit_sessions : (s.setUnit u x).sessions = s.sessions := rfl
@[simp] theorem State.setUnit_qpairs : (s.setUnit u x).qpairs = s.qpairs := rfl
@[simp] theorem State.setUnit_announced : (s.setUnit u x).announced = s.announced := rfl
@[simp] theorem State.setUnit_signals : (s.setUnit u x).signals = s.signals := rfl
@[simp] theorem State.setUnit_hostWins : (s.setUnit u x).hostWins = s.hostWins := rfl
@[simp] theorem State.setUnit_viol : (s.setUnit u x).viol = s.viol := rfl
@[simp] theorem State.setUnit_launches : (s.setUnit u x).launches = s.launches := rfl
@[simp] theorem State.setUnit_fatals : (s.setUnit u x).fatals = s.fatals := rfl
@[simp] theorem State.setUnit_rings : (s.setUnit u x).rings = s.rings := rfl
@[simp] theorem State.setUnit_msix : (s.setUnit u x).msix = s.msix := rfl
@[simp] theorem State.setUnit_hostHeld : (s.setUnit u x).hostHeld = s.hostHeld := rfl
@[simp] theorem State.setUnit_msixPend : (s.setUnit u x).msixPend = s.msixPend := rfl
@[simp] theorem State.setUnit_firmware : (s.setUnit u x).firmware = s.firmware := rfl
@[simp] theorem State.setUnit_boundaryFlits : (s.setUnit u x).boundaryFlits = s.boundaryFlits := rfl
@[simp] theorem State.setUnit_hbm : (s.setUnit u x).hbm = s.hbm := rfl
@[simp] theorem State.setUnit_worlds : (s.setUnit u x).worlds = s.worlds := rfl
@[simp] theorem State.setUnit_dbg : (s.setUnit u x).dbg = s.dbg := rfl

end

section
variable (s : State) (u : Nat) (f : UnitSt → UnitSt)

@[simp] theorem State.updUnit_inputs : (s.updUnit u f).inputs = s.inputs := rfl
@[simp] theorem State.updUnit_choices : (s.updUnit u f).choices = s.choices := rfl
@[simp] theorem State.updUnit_freeCount : (s.updUnit u f).freeCount = s.freeCount := rfl
@[simp] theorem State.updUnit_cur : (s.updUnit u f).cur = s.cur := rfl
@[simp] theorem State.updUnit_slot : (s.updUnit u f).slot = s.slot := rfl
@[simp] theorem State.updUnit_flow : (s.updUnit u f).flow = s.flow := rfl
@[simp] theorem State.updUnit_agenda : (s.updUnit u f).agenda = s.agenda := rfl
@[simp] theorem State.updUnit_nextUid : (s.updUnit u f).nextUid = s.nextUid := rfl
@[simp] theorem State.updUnit_cycle : (s.updUnit u f).cycle = s.cycle := rfl
@[simp] theorem State.updUnit_mtc : (s.updUnit u f).mtc = s.mtc := rfl
@[simp] theorem State.updUnit_clock : (s.updUnit u f).clock = s.clock := rfl
@[simp] theorem State.updUnit_mtcFrac : (s.updUnit u f).mtcFrac = s.mtcFrac := rfl
@[simp] theorem State.updUnit_mem : (s.updUnit u f).mem = s.mem := rfl
@[simp] theorem State.updUnit_ctxs : (s.updUnit u f).ctxs = s.ctxs := rfl
@[simp] theorem State.updUnit_units : (s.updUnit u f).units = s.units.put u (f (s.unitAt u)) := rfl
@[simp] theorem State.updUnit_clusters : (s.updUnit u f).clusters = s.clusters := rfl
@[simp] theorem State.updUnit_tags : (s.updUnit u f).tags = s.tags := rfl
@[simp] theorem State.updUnit_pages : (s.updUnit u f).pages = s.pages := rfl
@[simp] theorem State.updUnit_faults : (s.updUnit u f).faults = s.faults := rfl
@[simp] theorem State.updUnit_refused : (s.updUnit u f).refused = s.refused := rfl
@[simp] theorem State.updUnit_tlbs : (s.updUnit u f).tlbs = s.tlbs := rfl
@[simp] theorem State.updUnit_walkers : (s.updUnit u f).walkers = s.walkers := rfl
@[simp] theorem State.updUnit_engineReads : (s.updUnit u f).engineReads = s.engineReads := rfl
@[simp] theorem State.updUnit_ecc : (s.updUnit u f).ecc = s.ecc := rfl
@[simp] theorem State.updUnit_nodes : (s.updUnit u f).nodes = s.nodes := rfl
@[simp] theorem State.updUnit_gens : (s.updUnit u f).gens = s.gens := rfl
@[simp] theorem State.updUnit_evals : (s.updUnit u f).evals = s.evals := rfl
@[simp] theorem State.updUnit_engs : (s.updUnit u f).engs = s.engs := rfl
@[simp] theorem State.updUnit_walks : (s.updUnit u f).walks = s.walks := rfl
@[simp] theorem State.updUnit_walkGens : (s.updUnit u f).walkGens = s.walkGens := rfl
@[simp] theorem State.updUnit_storerEnds : (s.updUnit u f).storerEnds = s.storerEnds := rfl
@[simp] theorem State.updUnit_parts : (s.updUnit u f).parts = s.parts := rfl
@[simp] theorem State.updUnit_sent : (s.updUnit u f).sent = s.sent := rfl
@[simp] theorem State.updUnit_inbox : (s.updUnit u f).inbox = s.inbox := rfl
@[simp] theorem State.updUnit_relays : (s.updUnit u f).relays = s.relays := rfl
@[simp] theorem State.updUnit_relayGens : (s.updUnit u f).relayGens = s.relayGens := rfl
@[simp] theorem State.updUnit_relaySent : (s.updUnit u f).relaySent = s.relaySent := rfl
@[simp] theorem State.updUnit_relayBuf : (s.updUnit u f).relayBuf = s.relayBuf := rfl
@[simp] theorem State.updUnit_relayNotices : (s.updUnit u f).relayNotices = s.relayNotices := rfl
@[simp] theorem State.updUnit_relayQ : (s.updUnit u f).relayQ = s.relayQ := rfl
@[simp] theorem State.updUnit_portFailed : (s.updUnit u f).portFailed = s.portFailed := rfl
@[simp] theorem State.updUnit_portFlits : (s.updUnit u f).portFlits = s.portFlits := rfl
@[simp] theorem State.updUnit_deferred : (s.updUnit u f).deferred = s.deferred := rfl
@[simp] theorem State.updUnit_slices : (s.updUnit u f).slices = s.slices := rfl
@[simp] theorem State.updUnit_sessions : (s.updUnit u f).sessions = s.sessions := rfl
@[simp] theorem State.updUnit_qpairs : (s.updUnit u f).qpairs = s.qpairs := rfl
@[simp] theorem State.updUnit_announced : (s.updUnit u f).announced = s.announced := rfl
@[simp] theorem State.updUnit_signals : (s.updUnit u f).signals = s.signals := rfl
@[simp] theorem State.updUnit_hostWins : (s.updUnit u f).hostWins = s.hostWins := rfl
@[simp] theorem State.updUnit_viol : (s.updUnit u f).viol = s.viol := rfl
@[simp] theorem State.updUnit_launches : (s.updUnit u f).launches = s.launches := rfl
@[simp] theorem State.updUnit_fatals : (s.updUnit u f).fatals = s.fatals := rfl
@[simp] theorem State.updUnit_rings : (s.updUnit u f).rings = s.rings := rfl
@[simp] theorem State.updUnit_msix : (s.updUnit u f).msix = s.msix := rfl
@[simp] theorem State.updUnit_hostHeld : (s.updUnit u f).hostHeld = s.hostHeld := rfl
@[simp] theorem State.updUnit_msixPend : (s.updUnit u f).msixPend = s.msixPend := rfl
@[simp] theorem State.updUnit_firmware : (s.updUnit u f).firmware = s.firmware := rfl
@[simp] theorem State.updUnit_boundaryFlits : (s.updUnit u f).boundaryFlits = s.boundaryFlits := rfl
@[simp] theorem State.updUnit_hbm : (s.updUnit u f).hbm = s.hbm := rfl
@[simp] theorem State.updUnit_worlds : (s.updUnit u f).worlds = s.worlds := rfl
@[simp] theorem State.updUnit_dbg : (s.updUnit u f).dbg = s.dbg := rfl

end

section
variable (s : State) (c : Nat) (f : ClusterSt → ClusterSt)

@[simp] theorem State.updCluster_inputs : (s.updCluster c f).inputs = s.inputs := rfl
@[simp] theorem State.updCluster_choices : (s.updCluster c f).choices = s.choices := rfl
@[simp] theorem State.updCluster_freeCount : (s.updCluster c f).freeCount = s.freeCount := rfl
@[simp] theorem State.updCluster_cur : (s.updCluster c f).cur = s.cur := rfl
@[simp] theorem State.updCluster_slot : (s.updCluster c f).slot = s.slot := rfl
@[simp] theorem State.updCluster_flow : (s.updCluster c f).flow = s.flow := rfl
@[simp] theorem State.updCluster_agenda : (s.updCluster c f).agenda = s.agenda := rfl
@[simp] theorem State.updCluster_nextUid : (s.updCluster c f).nextUid = s.nextUid := rfl
@[simp] theorem State.updCluster_cycle : (s.updCluster c f).cycle = s.cycle := rfl
@[simp] theorem State.updCluster_mtc : (s.updCluster c f).mtc = s.mtc := rfl
@[simp] theorem State.updCluster_clock : (s.updCluster c f).clock = s.clock := rfl
@[simp] theorem State.updCluster_mtcFrac : (s.updCluster c f).mtcFrac = s.mtcFrac := rfl
@[simp] theorem State.updCluster_mem : (s.updCluster c f).mem = s.mem := rfl
@[simp] theorem State.updCluster_ctxs : (s.updCluster c f).ctxs = s.ctxs := rfl
@[simp] theorem State.updCluster_units : (s.updCluster c f).units = s.units := rfl
@[simp] theorem State.updCluster_clusters : (s.updCluster c f).clusters = s.clusters.put c (f (s.clusterAt c)) := rfl
@[simp] theorem State.updCluster_tags : (s.updCluster c f).tags = s.tags := rfl
@[simp] theorem State.updCluster_pages : (s.updCluster c f).pages = s.pages := rfl
@[simp] theorem State.updCluster_faults : (s.updCluster c f).faults = s.faults := rfl
@[simp] theorem State.updCluster_refused : (s.updCluster c f).refused = s.refused := rfl
@[simp] theorem State.updCluster_tlbs : (s.updCluster c f).tlbs = s.tlbs := rfl
@[simp] theorem State.updCluster_walkers : (s.updCluster c f).walkers = s.walkers := rfl
@[simp] theorem State.updCluster_engineReads : (s.updCluster c f).engineReads = s.engineReads := rfl
@[simp] theorem State.updCluster_ecc : (s.updCluster c f).ecc = s.ecc := rfl
@[simp] theorem State.updCluster_nodes : (s.updCluster c f).nodes = s.nodes := rfl
@[simp] theorem State.updCluster_gens : (s.updCluster c f).gens = s.gens := rfl
@[simp] theorem State.updCluster_evals : (s.updCluster c f).evals = s.evals := rfl
@[simp] theorem State.updCluster_engs : (s.updCluster c f).engs = s.engs := rfl
@[simp] theorem State.updCluster_walks : (s.updCluster c f).walks = s.walks := rfl
@[simp] theorem State.updCluster_walkGens : (s.updCluster c f).walkGens = s.walkGens := rfl
@[simp] theorem State.updCluster_storerEnds : (s.updCluster c f).storerEnds = s.storerEnds := rfl
@[simp] theorem State.updCluster_parts : (s.updCluster c f).parts = s.parts := rfl
@[simp] theorem State.updCluster_sent : (s.updCluster c f).sent = s.sent := rfl
@[simp] theorem State.updCluster_inbox : (s.updCluster c f).inbox = s.inbox := rfl
@[simp] theorem State.updCluster_relays : (s.updCluster c f).relays = s.relays := rfl
@[simp] theorem State.updCluster_relayGens : (s.updCluster c f).relayGens = s.relayGens := rfl
@[simp] theorem State.updCluster_relaySent : (s.updCluster c f).relaySent = s.relaySent := rfl
@[simp] theorem State.updCluster_relayBuf : (s.updCluster c f).relayBuf = s.relayBuf := rfl
@[simp] theorem State.updCluster_relayNotices : (s.updCluster c f).relayNotices = s.relayNotices := rfl
@[simp] theorem State.updCluster_relayQ : (s.updCluster c f).relayQ = s.relayQ := rfl
@[simp] theorem State.updCluster_portFailed : (s.updCluster c f).portFailed = s.portFailed := rfl
@[simp] theorem State.updCluster_portFlits : (s.updCluster c f).portFlits = s.portFlits := rfl
@[simp] theorem State.updCluster_deferred : (s.updCluster c f).deferred = s.deferred := rfl
@[simp] theorem State.updCluster_slices : (s.updCluster c f).slices = s.slices := rfl
@[simp] theorem State.updCluster_sessions : (s.updCluster c f).sessions = s.sessions := rfl
@[simp] theorem State.updCluster_qpairs : (s.updCluster c f).qpairs = s.qpairs := rfl
@[simp] theorem State.updCluster_announced : (s.updCluster c f).announced = s.announced := rfl
@[simp] theorem State.updCluster_signals : (s.updCluster c f).signals = s.signals := rfl
@[simp] theorem State.updCluster_hostWins : (s.updCluster c f).hostWins = s.hostWins := rfl
@[simp] theorem State.updCluster_viol : (s.updCluster c f).viol = s.viol := rfl
@[simp] theorem State.updCluster_launches : (s.updCluster c f).launches = s.launches := rfl
@[simp] theorem State.updCluster_fatals : (s.updCluster c f).fatals = s.fatals := rfl
@[simp] theorem State.updCluster_rings : (s.updCluster c f).rings = s.rings := rfl
@[simp] theorem State.updCluster_msix : (s.updCluster c f).msix = s.msix := rfl
@[simp] theorem State.updCluster_hostHeld : (s.updCluster c f).hostHeld = s.hostHeld := rfl
@[simp] theorem State.updCluster_msixPend : (s.updCluster c f).msixPend = s.msixPend := rfl
@[simp] theorem State.updCluster_firmware : (s.updCluster c f).firmware = s.firmware := rfl
@[simp] theorem State.updCluster_boundaryFlits : (s.updCluster c f).boundaryFlits = s.boundaryFlits := rfl
@[simp] theorem State.updCluster_hbm : (s.updCluster c f).hbm = s.hbm := rfl
@[simp] theorem State.updCluster_worlds : (s.updCluster c f).worlds = s.worlds := rfl
@[simp] theorem State.updCluster_dbg : (s.updCluster c f).dbg = s.dbg := rfl

end

section
variable (s : State) (u : Nat) (f : Launch → Launch)

@[simp] theorem State.updLaunch_inputs : (s.updLaunch u f).inputs = s.inputs := rfl
@[simp] theorem State.updLaunch_choices : (s.updLaunch u f).choices = s.choices := rfl
@[simp] theorem State.updLaunch_freeCount : (s.updLaunch u f).freeCount = s.freeCount := rfl
@[simp] theorem State.updLaunch_cur : (s.updLaunch u f).cur = s.cur := rfl
@[simp] theorem State.updLaunch_slot : (s.updLaunch u f).slot = s.slot := rfl
@[simp] theorem State.updLaunch_flow : (s.updLaunch u f).flow = s.flow := rfl
@[simp] theorem State.updLaunch_agenda : (s.updLaunch u f).agenda = s.agenda := rfl
@[simp] theorem State.updLaunch_nextUid : (s.updLaunch u f).nextUid = s.nextUid := rfl
@[simp] theorem State.updLaunch_cycle : (s.updLaunch u f).cycle = s.cycle := rfl
@[simp] theorem State.updLaunch_mtc : (s.updLaunch u f).mtc = s.mtc := rfl
@[simp] theorem State.updLaunch_clock : (s.updLaunch u f).clock = s.clock := rfl
@[simp] theorem State.updLaunch_mtcFrac : (s.updLaunch u f).mtcFrac = s.mtcFrac := rfl
@[simp] theorem State.updLaunch_mem : (s.updLaunch u f).mem = s.mem := rfl
@[simp] theorem State.updLaunch_ctxs : (s.updLaunch u f).ctxs = s.ctxs := rfl
@[simp] theorem State.updLaunch_units : (s.updLaunch u f).units = s.units := rfl
@[simp] theorem State.updLaunch_clusters : (s.updLaunch u f).clusters = s.clusters := rfl
@[simp] theorem State.updLaunch_tags : (s.updLaunch u f).tags = s.tags := rfl
@[simp] theorem State.updLaunch_pages : (s.updLaunch u f).pages = s.pages := rfl
@[simp] theorem State.updLaunch_faults : (s.updLaunch u f).faults = s.faults := rfl
@[simp] theorem State.updLaunch_refused : (s.updLaunch u f).refused = s.refused := rfl
@[simp] theorem State.updLaunch_tlbs : (s.updLaunch u f).tlbs = s.tlbs := rfl
@[simp] theorem State.updLaunch_walkers : (s.updLaunch u f).walkers = s.walkers := rfl
@[simp] theorem State.updLaunch_engineReads : (s.updLaunch u f).engineReads = s.engineReads := rfl
@[simp] theorem State.updLaunch_ecc : (s.updLaunch u f).ecc = s.ecc := rfl
@[simp] theorem State.updLaunch_nodes : (s.updLaunch u f).nodes = s.nodes := rfl
@[simp] theorem State.updLaunch_gens : (s.updLaunch u f).gens = s.gens := rfl
@[simp] theorem State.updLaunch_evals : (s.updLaunch u f).evals = s.evals := rfl
@[simp] theorem State.updLaunch_engs : (s.updLaunch u f).engs = s.engs := rfl
@[simp] theorem State.updLaunch_walks : (s.updLaunch u f).walks = s.walks := rfl
@[simp] theorem State.updLaunch_walkGens : (s.updLaunch u f).walkGens = s.walkGens := rfl
@[simp] theorem State.updLaunch_storerEnds : (s.updLaunch u f).storerEnds = s.storerEnds := rfl
@[simp] theorem State.updLaunch_parts : (s.updLaunch u f).parts = s.parts := rfl
@[simp] theorem State.updLaunch_sent : (s.updLaunch u f).sent = s.sent := rfl
@[simp] theorem State.updLaunch_inbox : (s.updLaunch u f).inbox = s.inbox := rfl
@[simp] theorem State.updLaunch_relays : (s.updLaunch u f).relays = s.relays := rfl
@[simp] theorem State.updLaunch_relayGens : (s.updLaunch u f).relayGens = s.relayGens := rfl
@[simp] theorem State.updLaunch_relaySent : (s.updLaunch u f).relaySent = s.relaySent := rfl
@[simp] theorem State.updLaunch_relayBuf : (s.updLaunch u f).relayBuf = s.relayBuf := rfl
@[simp] theorem State.updLaunch_relayNotices : (s.updLaunch u f).relayNotices = s.relayNotices := rfl
@[simp] theorem State.updLaunch_relayQ : (s.updLaunch u f).relayQ = s.relayQ := rfl
@[simp] theorem State.updLaunch_portFailed : (s.updLaunch u f).portFailed = s.portFailed := rfl
@[simp] theorem State.updLaunch_portFlits : (s.updLaunch u f).portFlits = s.portFlits := rfl
@[simp] theorem State.updLaunch_deferred : (s.updLaunch u f).deferred = s.deferred := rfl
@[simp] theorem State.updLaunch_slices : (s.updLaunch u f).slices = s.slices := rfl
@[simp] theorem State.updLaunch_sessions : (s.updLaunch u f).sessions = s.sessions := rfl
@[simp] theorem State.updLaunch_qpairs : (s.updLaunch u f).qpairs = s.qpairs := rfl
@[simp] theorem State.updLaunch_announced : (s.updLaunch u f).announced = s.announced := rfl
@[simp] theorem State.updLaunch_signals : (s.updLaunch u f).signals = s.signals := rfl
@[simp] theorem State.updLaunch_hostWins : (s.updLaunch u f).hostWins = s.hostWins := rfl
@[simp] theorem State.updLaunch_viol : (s.updLaunch u f).viol = s.viol := rfl
@[simp] theorem State.updLaunch_launches : (s.updLaunch u f).launches = modifyFirst (·.uid == u) f s.launches := rfl
@[simp] theorem State.updLaunch_fatals : (s.updLaunch u f).fatals = s.fatals := rfl
@[simp] theorem State.updLaunch_rings : (s.updLaunch u f).rings = s.rings := rfl
@[simp] theorem State.updLaunch_msix : (s.updLaunch u f).msix = s.msix := rfl
@[simp] theorem State.updLaunch_hostHeld : (s.updLaunch u f).hostHeld = s.hostHeld := rfl
@[simp] theorem State.updLaunch_msixPend : (s.updLaunch u f).msixPend = s.msixPend := rfl
@[simp] theorem State.updLaunch_firmware : (s.updLaunch u f).firmware = s.firmware := rfl
@[simp] theorem State.updLaunch_boundaryFlits : (s.updLaunch u f).boundaryFlits = s.boundaryFlits := rfl
@[simp] theorem State.updLaunch_hbm : (s.updLaunch u f).hbm = s.hbm := rfl
@[simp] theorem State.updLaunch_worlds : (s.updLaunch u f).worlds = s.worlds := rfl
@[simp] theorem State.updLaunch_dbg : (s.updLaunch u f).dbg = s.dbg := rfl

end

section
variable (s : State) (w : Flow)

@[simp] theorem State.ends_inputs : (s.ends w).inputs = s.inputs := rfl
@[simp] theorem State.ends_choices : (s.ends w).choices = s.choices := rfl
@[simp] theorem State.ends_freeCount : (s.ends w).freeCount = s.freeCount := rfl
@[simp] theorem State.ends_cur : (s.ends w).cur = s.cur := rfl
@[simp] theorem State.ends_slot : (s.ends w).slot = s.slot := rfl
@[simp] theorem State.ends_flow : (s.ends w).flow = w := rfl
@[simp] theorem State.ends_agenda : (s.ends w).agenda = s.agenda := rfl
@[simp] theorem State.ends_nextUid : (s.ends w).nextUid = s.nextUid := rfl
@[simp] theorem State.ends_cycle : (s.ends w).cycle = s.cycle := rfl
@[simp] theorem State.ends_mtc : (s.ends w).mtc = s.mtc := rfl
@[simp] theorem State.ends_clock : (s.ends w).clock = s.clock := rfl
@[simp] theorem State.ends_mtcFrac : (s.ends w).mtcFrac = s.mtcFrac := rfl
@[simp] theorem State.ends_mem : (s.ends w).mem = s.mem := rfl
@[simp] theorem State.ends_ctxs : (s.ends w).ctxs = s.ctxs := rfl
@[simp] theorem State.ends_units : (s.ends w).units = s.units := rfl
@[simp] theorem State.ends_clusters : (s.ends w).clusters = s.clusters := rfl
@[simp] theorem State.ends_tags : (s.ends w).tags = s.tags := rfl
@[simp] theorem State.ends_pages : (s.ends w).pages = s.pages := rfl
@[simp] theorem State.ends_faults : (s.ends w).faults = s.faults := rfl
@[simp] theorem State.ends_refused : (s.ends w).refused = s.refused := rfl
@[simp] theorem State.ends_tlbs : (s.ends w).tlbs = s.tlbs := rfl
@[simp] theorem State.ends_walkers : (s.ends w).walkers = s.walkers := rfl
@[simp] theorem State.ends_engineReads : (s.ends w).engineReads = s.engineReads := rfl
@[simp] theorem State.ends_ecc : (s.ends w).ecc = s.ecc := rfl
@[simp] theorem State.ends_nodes : (s.ends w).nodes = s.nodes := rfl
@[simp] theorem State.ends_gens : (s.ends w).gens = s.gens := rfl
@[simp] theorem State.ends_evals : (s.ends w).evals = s.evals := rfl
@[simp] theorem State.ends_engs : (s.ends w).engs = s.engs := rfl
@[simp] theorem State.ends_walks : (s.ends w).walks = s.walks := rfl
@[simp] theorem State.ends_walkGens : (s.ends w).walkGens = s.walkGens := rfl
@[simp] theorem State.ends_storerEnds : (s.ends w).storerEnds = s.storerEnds := rfl
@[simp] theorem State.ends_parts : (s.ends w).parts = s.parts := rfl
@[simp] theorem State.ends_sent : (s.ends w).sent = s.sent := rfl
@[simp] theorem State.ends_inbox : (s.ends w).inbox = s.inbox := rfl
@[simp] theorem State.ends_relays : (s.ends w).relays = s.relays := rfl
@[simp] theorem State.ends_relayGens : (s.ends w).relayGens = s.relayGens := rfl
@[simp] theorem State.ends_relaySent : (s.ends w).relaySent = s.relaySent := rfl
@[simp] theorem State.ends_relayBuf : (s.ends w).relayBuf = s.relayBuf := rfl
@[simp] theorem State.ends_relayNotices : (s.ends w).relayNotices = s.relayNotices := rfl
@[simp] theorem State.ends_relayQ : (s.ends w).relayQ = s.relayQ := rfl
@[simp] theorem State.ends_portFailed : (s.ends w).portFailed = s.portFailed := rfl
@[simp] theorem State.ends_portFlits : (s.ends w).portFlits = s.portFlits := rfl
@[simp] theorem State.ends_deferred : (s.ends w).deferred = s.deferred := rfl
@[simp] theorem State.ends_slices : (s.ends w).slices = s.slices := rfl
@[simp] theorem State.ends_sessions : (s.ends w).sessions = s.sessions := rfl
@[simp] theorem State.ends_qpairs : (s.ends w).qpairs = s.qpairs := rfl
@[simp] theorem State.ends_announced : (s.ends w).announced = s.announced := rfl
@[simp] theorem State.ends_signals : (s.ends w).signals = s.signals := rfl
@[simp] theorem State.ends_hostWins : (s.ends w).hostWins = s.hostWins := rfl
@[simp] theorem State.ends_viol : (s.ends w).viol = s.viol := rfl
@[simp] theorem State.ends_launches : (s.ends w).launches = s.launches := rfl
@[simp] theorem State.ends_fatals : (s.ends w).fatals = s.fatals := rfl
@[simp] theorem State.ends_rings : (s.ends w).rings = s.rings := rfl
@[simp] theorem State.ends_msix : (s.ends w).msix = s.msix := rfl
@[simp] theorem State.ends_hostHeld : (s.ends w).hostHeld = s.hostHeld := rfl
@[simp] theorem State.ends_msixPend : (s.ends w).msixPend = s.msixPend := rfl
@[simp] theorem State.ends_firmware : (s.ends w).firmware = s.firmware := rfl
@[simp] theorem State.ends_boundaryFlits : (s.ends w).boundaryFlits = s.boundaryFlits := rfl
@[simp] theorem State.ends_hbm : (s.ends w).hbm = s.hbm := rfl
@[simp] theorem State.ends_worlds : (s.ends w).worlds = s.worlds := rfl
@[simp] theorem State.ends_dbg : (s.ends w).dbg = s.dbg := rfl

end

end Sys2Proof.Machine
end

