-- ==== Sys2Proof/Laws/Results.lean ====
section
/-! SUPPORT. What the shared operations of the slots do, in the terms of the statements: results in
flight, waits and traps. -/

namespace Sys2Proof.Machine

/-- A change of the acting context alone. -/
theorem State.acted_upd (s : State) (f : Ctx → Ctx) : s.acted ((s.upd f).ends .done) (f s.ctx) :=
  ⟨rfl, State.ctx_upd s f, fun _ h => State.ctxAt_updCtx_ne h s f⟩

/-- Two changes of the acting context alone. -/
theorem State.acted_upd_upd (s : State) (f g : Ctx → Ctx) :
    s.acted (((s.upd f).upd g).ends .done) (g (f s.ctx)) := by
  refine ⟨rfl, ?_, fun k h => ?_⟩
  · show ((s.upd f).upd g).ctx = _
    rw [State.ctx_upd (s.upd f) g, State.ctx_upd]
  · exact (State.ctxAt_updCtx_ne h (s.upd f) g).trans (State.ctxAt_updCtx_ne h s f)

/-- A fixed-latency result: one more in flight, nothing else. -/
theorem State.fixed_promises (s : State) (lat : Nat) (vals : List RegVal) (enq : Option Word) :
    s.promises (s.fixed lat vals enq) lat vals enq :=
  s.acted_upd fun c => { c with pend := c.pend ++ [{ vals, enq, due := s.cycle + lat, fixed := true, seq := c.seq, slot := s.slot, sb := none }] }

theorem State.scalarOut_promises (s : State) (d : BitVec 5) (lat : Nat) (w : Word) :
    s.promisesWord (s.scalarOut d lat w) lat d.toNat w := s.fixed_promises ..

theorem State.addrOut_promises (s : State) (d : BitVec 5) (lat : Nat) (x : Addr) :
    s.promisesAddr (s.addrOut d lat x) lat d.toNat x := s.fixed_promises ..

/-- A variable-latency result: one more in flight, its destinations empty, nothing else. -/
theorem State.variable_willLand (s : State) (due : Nat) (vals : List RegVal) (enq : Option Word) :
    s.willLand (s.variable due vals enq) due vals enq :=
  by
  have h := s.acted_upd_upd (fun c => { c with bank := c.emptyNow s.cycle vals }) fun c =>
    { c with pend := c.pend ++ [{ vals, enq, due, fixed := false, seq := c.seq, slot := s.slot, sb := none }] }
  have e : s.ctx.emptied' s.cycle vals = s.ctx.emptyNow s.cycle vals := by
    simp [Ctx.emptied', Ctx.emptyNow]
  unfold State.willLand; rw [e]; exact h

theorem State.laterDue_eq (s : State) : s.laterDue = (s.cycle + 2 + s.choices.headD 0, s.drawn) := by
  unfold State.laterDue State.choice State.drawn
  rcases s with ⟨_, _ | ⟨c, cs⟩⟩ <;> rfl

/-- A result of unpromised time. -/
theorem State.variable_later (s : State) (vals : List RegVal) (enq : Option Word) :
    s.willLandLater (s.laterDue.2.variable s.laterDue.1 vals enq) vals enq := by
  rw [State.laterDue_eq]; exact s.drawn.variable_willLand ..

theorem State.scalarLater_willLand (s : State) (d : BitVec 5) (w : Word) :
    s.willLandLater (s.scalarLater d w) [.s d.toNat w] none := s.variable_later ..

end Sys2Proof.Machine
end

