-- ==== Sys2Proof/Tests/Slice0.lean ====
section
/-! SUPPORT. Tests: words decoded, single steps on small states, and for every statement with hypotheses a
theorem that shows states and operands that meet them, clause by clause. Expected values are the manual's
examples or worked by hand from its rules. -/

namespace Sys2Proof.Tests

open Sys2Proof Sys2Proof.Machine

section

set_option Elab.async false

/-! ## Small states -/

/-- A launch on cluster 0, and context 0 of its core 0 acting. -/
def base : State := State.reset.withLaunch 4096
/-- The same launch, and context 0 of its CCC acting. -/
def control : State := { base with cur := 64 }
/-- Scalars as the bundle's issue read them. -/
def withS (l : List (Nat × Word)) (s : State) : State :=
  s.upd fun c => { c with rd := { c.rd with s := l.foldl (fun v p => v.setIfInBounds p.1 p.2) c.rd.s } }
/-- Addresses as the bundle's issue read them. -/
def withA (l : List (Nat × Addr)) (s : State) : State :=
  s.upd fun c => { c with rd := { c.rd with a := l.foldl (fun v p => v.setIfInBounds p.1 p.2) c.rd.a } }
/-- Descriptors as the bundle's issue read them. -/
def withD (l : List (Nat × BitVec 512)) (s : State) : State :=
  s.upd fun c => { c with rd := { c.rd with d := l.foldl (fun v p => v.setIfInBounds p.1 p.2) c.rd.d } }
/-- Run vectors as the bundle's issue read them. -/
def withV (l : List (Nat × RunVec)) (s : State) : State :=
  s.upd fun c => { c with rd := { c.rd with v := l.foldl (fun v p => v.setIfInBounds p.1 p.2) c.rd.v } }
/-- The header of the launch. -/
def withHdr (f : Header → Header) (s : State) : State := s.updLaunch 0 fun l => { l with hdr := f l.hdr }

/-- S fields: A is s1, B is s2, the destination s3. -/
def sf : SFields := { dst := 3, a := 1, b := 2, w := 0, mA := 0, mB := 0, fA := 0, fB := 0, imm := 0 }

/-- A descriptor: base, type, rows, columns, pitch, trailer offset, and the size of a tile. -/
def desc (base ty rows cols pitch trailer tr tc : Nat) : BitVec 512 :=
  BitVec.ofNat 512 (base + ty * 2 ^ 56 + rows * 2 ^ 64 + cols * 2 ^ 80 + pitch * 2 ^ 96 + trailer * 2 ^ 128
    + (tr - 1) * 2 ^ 160 + (tc - 1) * 2 ^ 167)
/-- The first byte of the cluster's SRAM. -/
def sram : Nat := 0xF1000000000000
/-- The array of core 0 changed. -/
def withArr (f : Arr → Arr) (s : State) : State := s.updUnit 0 fun x => { x with arr := f x.arr }

/-! ## Hypotheses met: the scalar engine, control and system registers -/

theorem test_hyps_PackedResults : ({ sf with w := 2 } : SFields).w ≠ 0 ∧ 0 < laneN 2 ∧ 0 < laneN 3 / 2 := by decide

theorem test_hyps_ImmediatesAddressesAndDivisions : 2 ^ 16 ≤ (65536 : BitVec 32).toNat := by decide

/-- A state whose s1 and s2 hold two floats. -/
def floats (x y : Word) : State := withS [(1, x), (2, y)] base

theorem test_hyps_ScalarFloatResults :
    let A := fun x y => fp32 ((floats x y).opA sf)
    let B := fun x y => fp32 ((floats x y).opB sf)
    ((A 0x7F800001 0xFFC00000).isNan = true ∧ (B 0x7F800001 0xFFC00000).isNan = true)
    ∧ ((A 0x7FC00000 0x7F800000).isNan = true ∧ (B 0x7FC00000 0x7F800000).isNan = false)
    ∧ ((A 1 0x7FC00000).isNan = false ∧ (B 1 0x7FC00000).isNan = true)
    ∧ (A 0x80000001 0x80000000).lt (B 0x80000001 0x80000000) = true ∧ (B 0x7F800000 0x7F7FFFFF).lt (A 0x7F800000 0x7F7FFFFF) = true
    ∧ ((floats 0xFF800000 0xFF800000).opA sf = (floats 0xFF800000 0xFF800000).opB sf ∧ (A 0xFF800000 0xFF800000).isNan = false)
    ∧ ((floats 0x80000000 0).opA sf = 0x80000000 ∧ (floats 0x80000000 0).opB sf = 0)
    ∧ ((floats 0 0x80000000).opA sf = 0 ∧ (floats 0 0x80000000).opB sf = 0x80000000) := by decide +kernel

theorem test_hyps_TransfersAndCompletion :
    ((withS [(3, 0)] base).rdS 3 = 0 ∧ (withS [(3, 1)] base).rdS 3 ≠ 0)
    ∧ (let le : BitVec 64 := 0x2000
       let c := Ctx.reset
       let loop := fun (n : Word) => ({ c with loops := c.loops.setIfInBounds 7 { active := true, remain := n } } : Ctx)
       let one := fun (n : Word) => (innermost (loop n).loops).map fun k => (k, (loop n).loops.getD k {})
       ({ c with after := { transfer := true } } : Ctx).after.transfer = true ∧ c.after.transfer = false ∧ c.dly = false
       ∧ (let d : Ctx := { c with dly := true, target := some 8 }
          d.after.transfer = false ∧ d.dly = true ∧ d.target = some 8)
       ∧ (let d : Ctx := { c with after := { exit := some 8 } }
          d.after.transfer = false ∧ d.dly = false ∧ d.after.exit = some 8)
       ∧ (hdrLE 0 = false ∧ hdrLE le = true ∧ innermost c.loops = none)
       ∧ (one 1 = some (7, { active := true, remain := 1 }) ∧ (1 : Word).toNat ≤ 1)
       ∧ (one 2 = some (7, { active := true, remain := 2 }) ∧ 1 < (2 : Word).toNat)) := by decide +kernel

theorem test_hyps_LoopResults : (withS [(1, 0)] base).opA sf = 0 ∧ (withS [(1, 1)] base).opA sf ≠ 0 := by decide +kernel

theorem test_hyps_TrapEntryAndReturn :
    (let s := withHdr (fun h => { h with handler := 0 }) base
     (s.hdrOf 0).handler ≠ 0xFFFFFFFF ∧ (s.ctxAt 0).trap.inh = false ∧ s.debugged 0 = false ∧ (s.ctxAt 0).stepping = false
     ∧ (s.ctxAt 0).stopDue = false)
    ∧ (∃ l, base.launchOn 0 = some l ∧ (base.hdrOf 0).handler = 0xFFFFFFFF)
    ∧ (let s := base.upd fun c => { c with trap := { c.trap with inh := true, dly := true }, after := { resume := true } }
       (∃ l, s.launchOn 0 = some l) ∧ s.ctx.trap.inh = true ∧ (s.ctxAt 0).after.resume = true ∧ (s.ctxAt 0).stepping = false
       ∧ (s.ctxAt 0).stopDue = false ∧ hdrY (s.headerAt 0 (s.ctxAt 0).pc) = false ∧ s.sprintDue 0 = false
       ∧ (s.ctxAt 0).trap.dly = true ∧ base.ctx.trap.inh = false ∧ (base.ctxAt 0).trap.yieldDue = false) :=
  ⟨by decide +kernel, ⟨_, rfl, by decide +kernel⟩, ⟨_, rfl⟩, by decide +kernel⟩

theorem test_hyps_SystemRegisters :
    let s := base.upd fun c => { c with trap := { c.trap with inh := true } }
    (s.ctxAt 0).trap.inh = true ∧ (base.ctxAt 0).trap.inh = false
    ∧ ({ sf with imm := 0x3A99 } : SFields).imm.extractLsb' 12 2 = 3 ∧ ({ sf with imm := 0x2A09 } : SFields).imm.extractLsb' 12 2 = 2
    ∧ ({ sf with imm := 0x1809 } : SFields).imm.extractLsb' 12 2 = 1 ∧ ({ sf with imm := 0x0809 } : SFields).imm.extractLsb' 12 2 = 0 := by
  decide +kernel

/-- The CCC with a remote name in s1: core 0, context 7, stopped or in another state, eight scalars granted. -/
def remote (st : CtxState) (drowsy : Bool) (w : Word) : State :=
  let s := withHdr (fun h => { h with scalars := 8 }) (withS [(1, w)] control)
  s.updCtx 7 fun c => { c with st, drowsy }

theorem test_hyps_RemoteRegisterAccess :
    let key := fun (w : Word) => 8 * unitNo 0 (w.extractLsb' 0 4).toNat + (w.extractLsb' 4 3).toNat
    let r := fun (s : State) (w : Word) => s.remoteReg (key w) (w.extractLsb' 7 2).toNat (w.extractLsb' 9 12).toNat (w.getLsbD 31) 0
    let named := fun (w : Word) => w.extractLsb' 21 10 = 0 ∧ (w.extractLsb' 0 4).toNat < 8
    (named 0x70 ∧ ((remote .stopped true 0x70).ctxAt 7).drowsy = true ∧ key 0x70 ≠ 64)
    ∧ ((remote .stopped false 8).ctxAt (key 8)).drowsy = false ∧ ¬ named 8 ∧ ¬ named 0x200000
    ∧ (named 0x70 ∧ ((remote .ready false 0x70).ctxAt 7).st ≠ .stopped ∧ r (remote .ready false 0x70) 0x70 ≠ .bad)
    ∧ (named 0xE70 ∧ ((remote .stopped false 0xE70).ctxAt 7).st = .stopped ∧ (∃ v, r (remote .stopped false 0xE70) 0xE70 = .read v))
    ∧ (named 0x1070 ∧ r (remote .stopped false 0x1070) 0x1070 = .gated ∧ (0x1070 : Word).getLsbD 31 = false)
    ∧ (named 0x4070 ∧ r (remote .stopped false 0x4070) 0x4070 = .bad)
    ∧ (named 0x80000E70 ∧ ∃ u, r (remote .stopped false 0x80000E70) 0x80000E70 = .wrote u) :=
  ⟨by decide +kernel, by decide +kernel, by decide, by decide, ⟨by decide, by decide +kernel, nofun⟩,
   ⟨by decide, by decide +kernel, _, rfl⟩, ⟨by decide, rfl, by decide⟩, ⟨by decide, rfl⟩, ⟨by decide, _, rfl⟩⟩

/-! ## Hypotheses met: the run vector engine -/

/-- V fields: va is v1, vb v2, vd v3, sc s2, of type i32. -/
def vf : VFields := { vd := 3, va := 1, vb := 2, sc := 2, q := 0, ty := 6, m := 0, fA := 0, fB := 0, imm := 0 }
/-- Short vectors in v1 to v5. -/
def shorts : State := withV [(1, [(5, 3), (0, 1)]), (2, [(7, 1), (1, 3)]), (3, [(0, 4)]), (4, [(2, 2), (3, 2)]), (5, [(9, 4)])] base
/-- The same, and q1 a predicate of width 32 with a group of 2. -/
def grouped : State := shorts.upd fun c => { c with rd := { c.rd with q := c.rd.q.setIfInBounds 1 { active := 6, width := 3, group := 2 } } }

/-- `State.agree` as a computation. -/
def agrees (s : State) (bases : List Nat) (g l : Nat) (ext : Bool) : Bool :=
  decide (0 < l) && (!bases.isEmpty || l == s.launch.hdr.vl)
    && bases.all (fun b => (List.range g).all fun k => RunVec.ok (s.rdV (b + k)) && decide (RunVec.len (s.rdV (b + k)) ≤ l)
      && (ext || RunVec.len (s.rdV (b + k)) == l))
    && (bases.isEmpty || bases.any fun b => (List.range g).any fun k => RunVec.len (s.rdV (b + k)) == l)

theorem agrees_ok {s : State} {bases : List Nat} {g l : Nat} {ext : Bool} (h : agrees s bases g l ext = true) :
    s.agree bases g l ext := by
  simp only [agrees, Bool.and_eq_true, Bool.or_eq_true, decide_eq_true_eq, List.all_eq_true, List.any_eq_true, List.mem_range,
    beq_iff_eq, Bool.not_eq_true', List.isEmpty_iff] at h
  obtain ⟨⟨⟨h0, h1⟩, h2⟩, h3⟩ := h
  refine ⟨h0, fun e => ?_, fun b hb k hk => ⟨(h2 b hb k hk).1.1, (h2 b hb k hk).1.2, fun e => ?_⟩, fun e => ?_⟩
  · rcases h1 with h1 | h1
    · subst e; simp at h1
    · exact h1
  · rcases (h2 b hb k hk).2 with h | h
    · simp [e] at h
    · exact h
  · exact h3.resolve_left e

/-- The hypotheses of `State.elementResult`: one register, a group of two under a predicate, and `.x`. -/
theorem test_hyps_VectorArithmetic :
    (shorts.widthOk 0 6 ∧ shorts.groupOf 0 = 1 ∧ shorts.agree [1, 2] 1 4 false ∧ entriesOf 4 0 (fun p => p % 4 == 0) ≤ 128)
    ∧ (grouped.widthOk 1 6 ∧ grouped.groupOf 1 = 2 ∧ grouped.agree [2, 4, 4] 2 4 false)
    ∧ (grouped.widthOk 0 1 ∧ (withV [(2, [(7, 2)])] grouped).agree [1, 2] 1 4 true) :=
  ⟨⟨.inl rfl, by decide +kernel, agrees_ok (by decide +kernel), by decide +kernel⟩,
   ⟨.inr (by decide +kernel), by decide +kernel, agrees_ok (by decide +kernel)⟩, ⟨.inl rfl, agrees_ok (by decide +kernel)⟩⟩

theorem test_hyps_VectorBitsAndMoves :
    shorts.widthOk 0 2 ∧ shorts.agree [] 1 128 false ∧ shorts.agree [1] 1 4 false ∧ shorts.agree [1, 2, 3] 1 4 false :=
  ⟨.inl rfl, agrees_ok (by decide +kernel), agrees_ok (by decide +kernel), agrees_ok (by decide +kernel)⟩

theorem test_hyps_ScansReductionsAndRuns :
    (grouped.widthOk 1 6 ∧ grouped.agree [2] (grouped.groupOf 1) 4 false ∧ tyIsInt 6 = true ∧ tyIsInt 0 = false)
    ∧ (let v := shorts.rdV 1
       let d := shorts.rdV 3
       RunVec.ok v = true ∧ RunVec.ok d = true ∧ v.length ≤ 128 ∧ d.length ≤ 128)
    ∧ ((withS [(2, 3)] shorts).opSc vf = 3 ∧ 3 < RunVec.len (shorts.rdV 1) ∧ RunVec.len (shorts.rdV 1) ≤ 4)
    ∧ (let q := fun (a : BitVec 13) (g : BitVec 3) => ({ active := a, width := 3, group := g } : Pred)
       let at' := fun (p : Pred) => shorts.upd fun c => { c with rd := { c.rd with q := c.rd.q.setIfInBounds 1 p } }
       ((at' (q 3 1)).widthOk 1 6 ∧ ((at' (q 3 1)).rdQ 1).group = 1 ∧ 3 < RunVec.len (shorts.rdV 3))
       ∧ (((at' (q 4 1)).rdQ 1).active.toNat = RunVec.len (shorts.rdV 3) ∧ 4 < shorts.launch.hdr.vl)
       ∧ ((at' (q 4 2)).widthOk 1 6 ∧ ((at' (q 4 2)).rdQ 1).group ≠ 1) ∧ RunVec.len (shorts.rdV 3) < 5)
    ∧ (0 < 4 ∧ 4 ≤ shorts.launch.hdr.vl ∧ 4 ≤ RunVec.len (shorts.rdV 1) ∧ shorts.launch.hdr.vl < 129
       ∧ RunVec.len (shorts.rdV 1) < 5 ∧ vf.ext = false ∧ ({ vf with m := 1 } : VFields).ext = true) := by
  refine ⟨⟨.inr (by decide +kernel), agrees_ok (by decide +kernel), by decide, by decide⟩, by decide +kernel, by decide +kernel,
    ⟨⟨.inr (by decide +kernel), by decide +kernel⟩, by decide +kernel, ⟨.inr (by decide +kernel), by decide +kernel⟩, by decide +kernel⟩,
    by decide +kernel⟩

theorem test_hyps_VectorFaultsAndPredicates :
    ((grouped.rdQ 1).width ≠ widthCode (tyWidth 2) ∧ (1 : BitVec 3) ≠ 0)
    ∧ (let s := withV [(2, [(7, 5)])] shorts
       vf.bcast = false ∧ vf.ext = false ∧ vf.q = 0 ∧ RunVec.len (s.rdV 1) = 4 ∧ RunVec.len (s.rdV 2) = 5 ∧ RunVec.len (s.rdV 3) = 4)
    ∧ (let ms : List RunVec := [List.replicate 128 (1, 1)]
       (∀ m ∈ ms, m.length ≤ 128) ∧ 128 < (List.replicate 129 ((1 : Word), 1)).length)
    ∧ (0 < (2 : BitVec 3).toNat ∧ shorts.agree [1] 2 4 false)
    ∧ (let s := withV [(2, [(7, 5)])] shorts
       RunVec.len (s.rdV 1) = 4 ∧ RunVec.len (s.rdV (1 + 1)) = 5 ∧ ({ vf with imm := 2 } : VFields).imm.extractLsb' 0 3 = 2) :=
  ⟨by decide +kernel, by decide +kernel, by decide +kernel, ⟨by decide, agrees_ok (by decide +kernel)⟩, by decide +kernel⟩

/-! ## Hypotheses met: number formats, functions, the array -/

theorem test_hyps_FormatValues :
    ((2 : BitVec 4).toNat < 5 ∧ 7 < 2 ^ manBits 2 ∧ 15 < 2 ^ expBits 2 ∧ decide (15 = 2 ^ expBits 2 - 1) = true)
    ∧ (1 < 2 ^ manBits 4 + 1 ∧ 3 < 2 ^ expBits 4) ∧ (0 < 2 ^ manBits 0 ∧ 255 = 2 ^ expBits 0 - 1)
    ∧ (255 < 2 ^ tyWidth 2 ∧ (floatVal 2 255).isNan = true ∧ (floatVal 2 254).isNan = false ∧ (floatVal 4 15).isNan = false) := by
  decide +kernel

theorem test_hyps_RoundingIsNearest :
    (Machine.Num.fin false 463 0).lt (.fin false 29 4) = true ∧ (floatVal 2 126).isFin = true ∧ (floatVal 2 255).isFin = false
    ∧ (Machine.Num.fin false (2 ^ 25 - 2) 103).lt (.fin false (2 ^ 25 - 1) (2 ^ 8 - 2 - expBias 0 - 23 - 1)) = true := by decide +kernel

theorem test_hyps_ExtremesIntegersAndRoots :
    ((expBias 3 : Int) + 2 ≤ 17 + Nat.log2 1 ∧ (3 : BitVec 4).toNat < 5 ∧ (5 : BitVec 3).toNat < 6)
    ∧ tyIsInt 13 = true ∧ (0 : Int) ≤ 0
    ∧ (2 ^ 1 < 2 * 3 ∧ 2 * 1 = 2 ^ 1) := by decide +kernel

theorem test_hyps_FunctionSpecialValues :
    0x7F800000 < 0xFF800001 % 2 ^ 31 ∧ 0xFF800001 < 2 * 2 ^ 31 ∧ 0x80000000 < 0x80000001 ∧ 0x80000001 < 0x80000000 + 0x7F800000
    ∧ 0x7F80 < 0x7FFF % 2 ^ 15 := by decide

/-- F fields: a scalar from s1, or with 33 the vector v1. -/
def ff (src : BitVec 6) : FFields := { dst := 3, src, ty := 2, rnd := 0, q := 0, f := 0, sr := 0 }
/-- fp32 vectors in v1. -/
def reals (v : RunVec) : State := withV [(1, v)] base

theorem test_hyps_FunctionResults :
    (ff 31).src.toNat < 32 ∧ 32 ≤ (ff 33).src.toNat ∧ (reals [(0x3F800000, 3)]).widthOk 0 2 ∧ (reals [(0x3F800000, 3)]).agree [1] 1 3 false
    ∧ entriesOf 3 0 (fun p => p % 3 == 0) ≤ 128 := by
  refine ⟨by decide, by decide, .inl rfl, ⟨by decide, nofun, ?_, fun _ => ⟨1, by decide, 0, by decide, by decide +kernel⟩⟩, by decide⟩
  intro b hb k hk
  obtain rfl : b = 1 := by simpa using hb
  obtain rfl : k = 0 := by omega
  decide +kernel

theorem test_hyps_QuantizerAndCodebooks :
    (let x := fun (w : Word) => fp32 ((withS [(1, w)] base).rdS 1)
     (x 0x7F800000).isFin = false ∧ (x 0x80000000).isZero = true ∧ x 0x3F800000 = .fin false (2 ^ 23) (-23) ∧ (x 0x3F800000).isFin = true)
    ∧ (activeEntries 3 ((reals [(0x3F800000, 3)]).rdV 1)).map (fun e => fp32 e.1) = [.fin false (2 ^ 23) (-23)]
    ∧ (let s := withA [(8, 0xFFFE0)] (withS [(1, 0x40)] base)
       codebookOk 0 (0xF00000000FFFE0) = true ∧ codebookOk 0 (s.rdA 8).toNat = false ∧ s.storeTouching s.cur s.ctx.seq 0xF00000000FFFE0 32 = false
       ∧ s.ctx.pend = []
       ∧ (let u := s.upd fun c => { c with seq := 1, storeBuf := [{ id := 0, store := 0, va := 0xF00000000FFFE0, bytes := [1] }] }
          u.storeTouching u.cur u.ctx.seq 0xF00000000FFFE0 32 = true
          ∧ (∀ p ∈ [({ vals := [.s 3 0x40], due := 9, fixed := false, seq := 1, slot := 4, late := some { va := 0xF00000000FFFE0, index := true, ty := 0 } } : Pending)],
              p.seq = 1 ∧ p.slot = 4 ∧ p.late.isSome = true ∧ p.vals = [if false then .v 3 [] else .s 3 0x40]
              ∧ u.storeTouching u.cur p.seq 0xF00000000FFFE0 32 = true ∧ s.storeTouching u.cur p.seq 0xF00000000FFFE0 32 = false))) := by
  decide +kernel

/-- V fields of VACC and VACCW: accumulator 1, row from s2. -/
def vacc (ty : BitVec 4) (m : BitVec 3) : VFields := { vf1 with ty, m }
  where vf1 : VFields := { vd := 1, va := 1, vb := 0, sc := 2, q := 0, ty := 0, m := 0, fA := 0, fB := 0, imm := 0 }
/-- Row `i` in s2. -/
def row (i : Word) : State := withS [(2, i)] base

theorem test_hyps_AccumulatorRows :
    (let s := row 127
     let x := (s.arrAt 0).accs.getD 1 {}
     (vacc 0 4).m.getLsbD 2 = true ∧ (vacc 0 0).m.getLsbD 2 = false ∧ (s.opSc (vacc 0 0)).toNat = 127
     ∧ s.accBlocked 1 = false ∧ (s.arrAt 0).busyOn 1 = false ∧ (s.arrAt 0).chains.contains (1, s.taskNo) = false ∧ x.int = false
     ∧ lineOk (some 16) (((List.range 128).map fun j => x.data.get 0 (128 * 127 + j)).map (accVal false)) (x.rc.get 0 127) = true)
    ∧ 128 ≤ ((row 128).opSc (vacc 0 0)).toNat
    ∧ (let s := withArr (fun a => { a with chains := [(1, 0)] }) (row 0)
       s.accBlocked 1 = false ∧ (s.arrAt 0).busyOn 1 = false ∧ (s.arrAt 0).chains.contains (1, s.taskNo) = true)
    ∧ (vacc 6 0).ty ≠ 0
    ∧ (withArr (fun a => { a with chains := [(1, 9)] }) (row 0)).accBlocked 1 = true
    ∧ (let v : RunVec := [(0x3F800000, 100), (1, 28)]
       (1 < ((row 0).arrAt 0).accs.size ∧ RunVec.ok v = true ∧ RunVec.len v = 128)
       ∧ RunVec.len (v.take 1) < 128 ∧ (vacc 0 1).ext = true ∧ (vacc 0 0).ext = false ∧ 128 < RunVec.len (v ++ v)) := by
  decide +kernel

/-- M fields: accumulator 2, row 0, descriptor d4, stream 0. -/
def mf (flags : BitVec 10) : MFields := { acc := 2, row := 0, d := 4, stream := 0, flags }
/-- d4 describes 64 by 64 bf16 elements in the SRAM, with a bitmap at its start; accumulator 2 has an open chain. -/
def chained : State :=
  withD [(4, desc sram 1 64 64 128 0x2000 64 64 ||| (BitVec.ofNat 512 sram <<< 320))] (withArr (fun a => { a with holder := some 0, chains := [(2, 0)] }) base)

theorem test_hyps_ArrayIssue :
    (let a := chained.arrAt 0
     a.chains.contains (2, chained.taskNo) = true ∧ a.chains.contains (3, chained.taskNo) = false ∧ a.holder = some chained.taskNo
     ∧ chained.accBlocked 2 = false ∧ a.queue.length < 8 ∧ (a.chains.any fun c => c.2 == chained.taskNo) = true)
    ∧ (let a := base.arrAt 0
       a.chains.contains (2, base.taskNo) = false ∧ a.holder = none ∧ a.evaluator = none ∧ a.evalWaiting = [] ∧ a.waiting = []
       ∧ (a.chains.any fun c => c.2 == base.taskNo) = false)
    ∧ (withArr (fun a => { a with chains := [(2, 9)] }) base).accBlocked 2 = true
    ∧ (let d := chained.rdD 4
       let r := regionOf d 0
       let ready := fun (l : List (Nat × Nat)) => outsideWindows 0 l = none ∧ ∀ p ∈ l, chained.storeTouching chained.cur chained.ctx.seq p.1 p.2 = false
       (groupSize r.ty).isSome = true ∧ ready (operandSpans r 0 0) ∧ tyIsMx r.ty = false ∧ r.ty = ((chained.arrAt 0).typesAhead 2).2.1
       ∧ tyIsInt r.ty = ((chained.arrAt 0).typesAhead 2).2.2 ∧ maccRows (mf 1) 1 = [0, 1, 2, 3] ∧ maccRows (mf 0) 1 = [0]
       ∧ ready ([0, 1, 2, 3].flatMap fun i => operandSpans r i 0 ++ [bitmapSpan r (dBitmap d) i 0]) ∧ dBitmap d % 8 = 0
       ∧ (mf 1).flags.getLsbD 0 = true ∧ (mf 1).row.toNat % 4 = 0 ∧ (mf 1).row.toNat + 4 ≤ 128) := by
  decide +kernel

theorem test_hyps_ArrayEffectsAndDrains :
    (7 < Arr.reset.accs.size ∧ (List.replicate 128 Machine.Num.zero).length = 128 ∧ ∀ m, m < 8 → (Arr.reset.acc m).pending = false)
    ∧ (let s := withD [(4, desc sram 0 64 64 256 0x4000 64 64)] base
       let r := regionOf (s.rdD 4) 0
       let spans := [rowSpan r 63 0 r.cols, (r.base + r.trailer, trailerSpace r.rows r.cols)]
       let a := s.arrAt 0
       a.chains.contains (2, s.taskNo) = false ∧ drainFits (a.typesAhead 2).2.2 r.ty = true ∧ outsideWindows 0 spans = none
       ∧ r.rows ≤ 128 ∧ r.cols ≤ 128 ∧ 63 < r.rows ∧ r.trailer % 256 = 0 ∧ (r.rows - 1) * r.pitch + packedSize r.ty r.cols ≤ r.trailer
       ∧ s.accBlocked 2 = false ∧ a.busyOn 2 = false ∧ (a.acc 2).verdict = none ∧ a.uncorrectable = none
       ∧ (a.queue ++ a.running).all (fun op => !(op.key == s.cur && op.kind.isPlace && op.kind.accNo == some 2)) = true
       ∧ (∀ p ∈ spans, s.storeTouching s.cur s.ctx.seq p.1 p.2 = false)
       ∧ ({ a with running := [{ kind := .drain 2 0 false, key := s.cur, task := 0 }] } : Arr).inTurn s.cur 2 = true
       ∧ s.guardOf (s.flatSpans 0 (s.partyOf s.cur).session spans) none = none
       ∧ (let b := { a with uncorrectable := some (2, 0, false, 3, 4) }
          b.uncorrectable = some (2, r.ty, false, 3, 4) ∧ (b.acc 2).verdict = none)
       ∧ (let b := a.updAcc 2 fun x => { x with verdict := some { ty := 0, sat := false, rows := [] } }
          (b.acc 2).verdict = some { ty := r.ty, sat := false, rows := [] })) := by
  decide +kernel

/-! ## Hypotheses met: loads, stores, atomics, caches -/

/-- An address of the own scratchpad. -/
def pad (off : Nat) : Addr := BitVec.ofNat 64 (15 * 2 ^ 52 + off)
/-- L fields: the register 5, the address in a1. -/
def lf : LFields := { reg := 5, base := 1, off := 0, ty := 6, sbv := 1, sbs := 7, wait := 0 }
/-- a1 holds an address. -/
def at1 (x : Addr) : State := withA [(1, x)] base

theorem test_hyps_AccessIssue :
    (base.acc = none ∧ badAddr base.unit (pieces (9 * 2 ^ 52) 4) = some (9 * 2 ^ 52) ∧ badAddr base.unit (pieces (15 * 2 ^ 52 + 2) 4) = none
     ∧ (15 * 2 ^ 52 + 2) % 4 ≠ 0)
    ∧ (badAddr base.unit (pieces 4096 4) = none ∧ 4096 % 4 = 0 ∧ ∃ p ∈ base.toOwner .load (pieces 4096 4), paged base.unit p.1 = true)
    ∧ (let a : Access := { slot := 0, kind := .load, va := 4096, size := 4, st := .fault 0x32 0 4096 }
       (base.upd fun c => { c with accs := [a] }).acc = some a ∧ a.words = [])
    ∧ (2 ^ 20 - 1 < 2 ^ 20 ∧ (2 ^ 30 - 1) / 2 ^ 20 % 2 ^ 8 = 255 ∧ (159 * 2 ^ 20) / 2 ^ 20 % 2 ^ 8 < 160 ∧ 255 < 256) := by
  decide +kernel

theorem test_admits (off n : Nat) (s : State) (k : AccessKind) (h : s.acc = none) (h1 : badAddr s.unit (pieces off n) = none)
    (h2 : off % n = 0) (h3 : ∀ p ∈ s.toOwner k (pieces off n), paged s.unit p.1 = false) (h4 : s.accVerdict s.cur k off n = .ok) :
    s.admits k off n n := .inr ⟨h, h1, h2, h3, h4⟩

theorem test_hyps_ScalarAccesses :
    ((at1 (pad 0xFFFF8)).admits .load (15 * 2 ^ 52 + 0xFFFF8) 8 8 ∧ 2 ^ 52 * 15 ≤ 15 * 2 ^ 52 + 0xFFFF8
      ∧ (let s := at1 (pad 0xFFFF8)
         let u := s.drainSectors s.cur (pieces (15 * 2 ^ 52 + 0xFFFF8) 8)
         u.atomicBefore (15 * 2 ^ 52 + 0xFFFF8) 8 = false ∧ u.storeBefore (15 * 2 ^ 52 + 0xFFFF8) 8 = false ∧ u.acc = none)
      ∧ (let s := (at1 (pad 0xFFFF8)).upd fun c => { c with atomics :=
           [{ id := 1, op := .add, ty := 6, va := pad 0xFFF80, s := 1, cmp := 0, dest := 5, sb := none, seq := 0, slot := 7 }] }
         (s.drainSectors s.cur (pieces (15 * 2 ^ 52 + 0xFFFF8) 8)).atomicBefore (15 * 2 ^ 52 + 0xFFFF8) 8 = true
         ∧ s.storeBefore (15 * 2 ^ 52 + 0xFFFF8) 8 = false))
    ∧ ((at1 (pad 0)).admits .store (15 * 2 ^ 52) 4 4 ∧ (at1 (pad 0x40)).admits .store (15 * 2 ^ 52 + 0x40) 64 64
      ∧ (at1 (pad 0xFFFC0)).admits .load (15 * 2 ^ 52 + 0xFFFC0) 64 64) :=
  ⟨⟨test_admits _ _ _ _ rfl rfl rfl (by decide +kernel) rfl, by decide, by decide +kernel, by decide +kernel⟩, test_admits _ _ _ _ rfl rfl rfl (by decide +kernel) rfl,
   test_admits _ _ _ _ rfl rfl rfl (by decide +kernel) rfl, test_admits _ _ _ _ rfl rfl rfl (by decide +kernel) rfl⟩

/-- A store buffer with two entries for one scratchpad sector. -/
def buffered : State :=
  base.upd fun c => { c with storeBuf := [{ id := 1, store := 1, va := pad 0, bytes := [1, 2], sb := some 7 }, { id := 2, store := 2, va := pad 126, bytes := [3, 4] }] }
/-- A host window that may be written, over the first 4 KiB of the bus, and a session page backed there. -/
def hosted (rdonly : Bool) : State :=
  { base with
    hostWins := base.hostWins.setIfInBounds 0 { base := 0, limit := 0xFFF, en := true, rdonly }
    pages := SMap.put [] 0 [{ va := 8 * 2 ^ 52, size := 65536, host := true, present := true }] }

theorem test_hyps_StoresApply :
    (let s := buffered
     ∃ e, (s.ctxAt 0).storeBuf[0]? = some e ∧ s.entryFree 0 e ((s.ctxAt 0).storeBuf.take 0) = true
       ∧ (placeOf (isCcc 0) e.va).isWindow = true ∧ 2 ^ 52 * 15 ≤ e.va.toNat ∧ e.nibble = false)
    ∧ (let s := buffered
       ∃ e b, (s.ctxAt 0).storeBuf[1]? = some e ∧ (s.ctxAt 0).storeBuf[0]? = some b ∧ b.va.toNat / 128 = e.va.toNat / 128
         ∧ s.guardOf [(s.flat 0 0 e.va, e.bytes.length)] none = none)
    ∧ ((∀ d, placeOf (isCcc 0) (ad 4096) ≠ .host d) ∧ (base.tagOf 0 (ad 4096)).tag ≠ .poison)
    ∧ (placeOf (isCcc 0) (ad (3 * 2 ^ 52 + 126)) = .hbm 3
       ∧ ((base.setTag 0 (ad (3 * 2 ^ 52 + 126)) { tag := .poison }).tagOf 0 (ad (3 * 2 ^ 52 + 126))).tag = .poison
       ∧ (3 * 2 ^ 52 + 126) % 128 + [(1 : Byte), 2].length ≤ 128)
    ∧ (let x := fun (b : Bool) => (hosted b).flat 0 0 (ad (8 * 2 ^ 52 + 0xFFE))
       placeOf (isCcc 0) (ad (8 * 2 ^ 52 + 0xFFE)) = .host 0 ∧ hostAllowed (hosted false).hostWins (x false - busKey 0) 2 true = true
       ∧ hostAllowed (hosted true).hostWins (x true - busKey 0) 2 true = false) :=
  ⟨⟨_, rfl, by decide +kernel⟩, ⟨_, _, rfl, rfl, by decide +kernel⟩, ⟨nofun, by decide +kernel⟩, by decide +kernel, by decide +kernel⟩

theorem test_hyps_AtomicResults :
    ((at1 (pad 0)).admits .atomic (15 * 2 ^ 52) 4 4)
    ∧ (let a : AtomicReq := { id := 1, op := .fadd, ty := 1, va := pad 2, s := 0x3F80, cmp := 0, dest := 5, sb := none, seq := 0, slot := 7 }
       let s := base.upd fun c => { c with atomics := [a] }
       s.memOk = true ∧ (s.ctxAt 0).atomics = a :: [] ∧ 2 ^ 52 * 15 ≤ a.va.toNat ∧ (placeOf (isCcc 0) a.va).isWindow = true
       ∧ (∀ e ∈ (s.ctxAt 0).storeBuf ++ (s.ctxAt 0).storeQ, a.id ≤ e.id ∨ e.va.toNat / 128 ≠ a.va.toNat / 128)
       ∧ s.guardOf [(s.flat 0 (s.sessionOf 0) a.va, 4)] none = none) :=
  ⟨test_admits _ _ _ _ rfl rfl rfl (by decide +kernel) rfl, by decide +kernel⟩

/-- a1 points to bytes at the start of the own scratchpad. -/
def image (bs : List Byte) : State := { at1 (pad 0) with mem := memWrite base.mem (spadKey 0 0 0) bs }
/-- The number that the first `n` bytes hold. -/
def first (bs : List Byte) (n : Nat) : Nat := leNat ((image bs).loadBytes 0 (15 * 2 ^ 52) n)
/-- A run-pair image of 4 i32 elements in two entries; the second count, and bits above it. -/
def runs (ty len c high : Nat) : List Byte := leBytes 8 (len + 2 * 2 ^ 16 + ty * 2 ^ 32) ++ leBytes 8 (5 + 2 ^ 32) ++ leBytes 8 (6 + c * 2 ^ 32 + high * 2 ^ 43)
/-- A bit-mask image of 3 i32 elements, the first and third not zero. -/
def bits (nz mask more : Nat) : List Byte := leBytes 8 (3 + nz * 2 ^ 16 + 2 * 2 ^ 32 + 6 * 2 ^ 48 + more * 2 ^ 52) ++ leBytes 8 mask ++ leBytes 8 (7 + 8 * 2 ^ 32)

theorem test_hyps_VectorAccesses :
    ((image []).admits .load (15 * 2 ^ 52) 512 4 ∧ (image []).atomicBefore (15 * 2 ^ 52) 512 = false ∧ (image []).storeBefore (15 * 2 ^ 52) 512 = false ∧ (image []).launch.hdr.vl = 128
      ∧ (coalesceWords (List.replicate 128 0)).length ≤ 128 ∧ 128 < (coalesceWords ((List.range 129).map (BitVec.ofNat 32))).length)
    ∧ (let h := fun bs => first bs 8
       let word := fun bs k => first bs 24 / 2 ^ (64 * (k + 1)) % 2 ^ 64
       let a := runs 6 4 3 0
       let reserved := fun bs => h bs / 2 ^ 36 ≠ 0 ∨ word bs 0 / 2 ^ 43 ≠ 0 ∨ word bs 1 / 2 ^ 43 ≠ 0
       (h a / 65536 % 65536 = 2 ∧ ¬ reserved a ∧ h a / 2 ^ 32 % 16 = 6 ∧ h a % 65536 = 4 ∧ word a 0 / 2 ^ 32 % 2048 = 1 ∧ word a 1 / 2 ^ 32 % 2048 = 3)
       ∧ reserved (runs 6 4 3 1) ∧ (¬ reserved (runs 7 4 3 0) ∧ h (runs 7 4 3 0) / 2 ^ 32 % 16 ≠ 6)
       ∧ (¬ reserved (runs 6 5 3 0) ∧ h (runs 6 5 3 0) % 65536 = 5))
    ∧ (let h := fun bs => first bs 8
       let mask := fun bs => first bs 16 / 2 ^ 64
       let rank := fun bs => ((List.range 64).map fun i => mask bs / 2 ^ i % 2).sum
       let a := bits 2 5 0
       (h a / 2 ^ 53 = 0 ∧ h a / 2 ^ 48 % 16 = 6 ∧ h a / 2 ^ 52 % 2 = 0 ∧ h a % 65536 = 3 ∧ h a / 65536 % 65536 = 2 ∧ h a / 2 ^ 32 % 65536 = 2
        ∧ rank a = 2 ∧ mask a / 2 ^ 3 = 0)
       ∧ h (bits 2 5 2) / 2 ^ 53 ≠ 0 ∧ h (bits 2 5 1) / 2 ^ 52 % 2 = 1 ∧ rank (bits 2 7 0) ≠ 2 ∧ mask (bits 2 9 0) / 2 ^ 3 ≠ 0
       ∧ h (bits 4 5 0) / 65536 % 65536 = 4)
    ∧ ((image []).admits .store (15 * 2 ^ 52) 512 4 ∧ (image []).admits .store (15 * 2 ^ 52) 8 8) :=
  ⟨⟨.inr ⟨rfl, rfl, rfl, by decide +kernel, rfl⟩, rfl, rfl, rfl, by decide +kernel, by decide +kernel⟩, by decide +kernel, by decide +kernel,
   .inr ⟨rfl, rfl, rfl, by decide +kernel, rfl⟩, .inr ⟨rfl, rfl, rfl, by decide +kernel, rfl⟩⟩

/-- The sector at 4096 dirty in the L1 of unit `c`, over bytes that a suspended node is to read. -/
def dirtyIn (c : Nat) (s : State) : State :=
  let n : Node := { cluster := 0, index := 0, gen := 1, launch := 0, session := 0, task := 0, op := .tcopy, ctl := 0, p := 0, stream := 0
                    key := 0, slot := 9, addr := 0, d := { base := 8192, rows := 1, cols := 32, tc := 32, pitch := 128 }
                    a := { base := 4096, rows := 1, cols := 32, tc := 32, pitch := 128 }, b := {}, tiles := [.suspended] }
  { s with nodes := [n], units := s.units.put c { s.unitAt c with l1 := SMap.put [] 32 { bytes := List.replicate 128 0, dirty := List.replicate 128 true, policy := .wb, readOnly := false, used := 0 } } }

theorem test_hyps_CacheInstructions :
    (badAddr 0 [(15 * 2 ^ 52, 1)] = none ∧ (at1 (pad 0)).ctx.storeBuf = [] ∧ (at1 (pad 0)).l1Unit 0 (15 * 2 ^ 52) = none)
    ∧ (badAddr 0 [(4096, 1)] = none ∧ base.l1Unit 0 4096 = some 0 ∧ (base.writeBack 0 32).dirtyAt 0 32 = false
       ∧ (let s := dirtyIn 0 base
          (∀ e ∈ s.ctx.storeBuf ++ s.ctx.storeQ, e.va.toNat / 128 ≠ 32) ∧ s.l1Unit 0 4096 = some 0 ∧ (s.writeBack 0 32).dirtyAt 0 32 = true)) ∧ badAddr 0 [(4 * 2 ^ 52, 1)] = some (4 * 2 ^ 52)
    ∧ ((at1 (pad 0)).admits .tagq (15 * 2 ^ 52) 1 1 ∧ (at1 (pad 0)).admits .peek (15 * 2 ^ 52) 4 4)
    ∧ (let lazy := fun (b : Bool) => ({ base with pages := SMap.put [] 0 [{ va := 0, size := 65536, isLazy := b, present := true }] } : State)
       paged 0 (15 * 2 ^ 52) = false ∧ paged 0 65535 = true ∧ (∃ g, (lazy true).pageOf 0 (ad 65535) = some g ∧ g.isLazy = true)
       ∧ ∃ g, (lazy false).pageOf 0 (ad 65535) = some g ∧ g.isLazy = false) :=
  ⟨by decide +kernel, by decide +kernel, by decide +kernel,
   ⟨.inr ⟨rfl, rfl, rfl, by decide +kernel, rfl⟩, .inr ⟨rfl, rfl, rfl, by decide +kernel, rfl⟩⟩, by decide +kernel, by decide +kernel, ⟨_, rfl, rfl⟩, _, rfl, rfl⟩

/-! ## Hypotheses met: descriptors, the tile graph, copies, queues, events, service calls -/

theorem test_hyps_DescriptorsAndTimelines :
    ((14 : BitVec 4).toNat % 2 = 0)
    ∧ ((base.release 5).2 = true ∧ (base.acquire 5).2 = true ∧ ((base.release 5).1.acquire 5).2 = true ∧ base.domainScope 0 < 5
       ∧ (∀ p ∈ base.ctx.pend, p.late.isNone = true))
    ∧ (((dirtyIn 0 base).release 5).2 = false ∧ ((dirtyIn 0 base).acquire 5).2 = false ∧ (∀ p ∈ (dirtyIn 0 base).ctx.pend, p.late.isNone = true)
       ∧ (let p : Pending := { vals := [], due := 9, fixed := false, seq := 1, slot := 4, late := some { va := 0, index := true, ty := 0 } }
          ((base.upd fun c => { c with pend := [p] }).ctx.pend.all (·.late.isNone)) = false))
    ∧ (let s := base.upd fun c => { c with issued := c.issued.setIfInBounds 5 1 }
       ¬ (∀ c, c < 6 → (32 : BitVec 6).getLsbD c = true → s.ctx.completed.getD c 0 = s.ctx.issued.getD c 0)
       ∧ (∀ c, c < 6 → (31 : BitVec 6).getLsbD c = true → s.ctx.completed.getD c 0 = s.ctx.issued.getD c 0))
    ∧ (let s := withS [(1, 3)] (base.upd fun c => { c with issued := c.issued.setIfInBounds 0 5 })
       let d := (s.spec 1 0 - BitVec.ofNat 32 (s.ctx.issued.getD 0 0)).toInt
       d = -2 ∧ ((s.ctx.completed.getD 0 0 : Int) < 5 + d)
       ∧ (5 : Int) + d ≤ (s.upd fun c => { c with completed := c.completed.setIfInBounds 0 3 }).ctx.completed.getD 0 0
       ∧ ((s.upd fun c => { c with completed := c.completed.setIfInBounds 0 3 }).acquire 4).2 = true)
    ∧ (let s := fun (t : Word) => withS [(1, t)] { base with mtc := 100 }
       let now : Int := (100 : Addr).toNat
       let at' := fun (t : Word) => now + ((s t).spec 1 0 - BitVec.ofNat 32 (100 : Addr).toNat).toInt
       now < at' 101 ∧ 0 ≤ at' 100 ∧ at' 100 ≤ now ∧ (s 100).ctx.reqs = [] ∧ ((s 100).acquire 0).2 = true ∧ (s 100).ctx.sleepValid = false
       ∧ (s 100).someHalted = false
       ∧ (let r : ReqRec := { cls := 5, num := 1, promise := some 100 }
          ((s 100).upd fun c => { c with reqs := [r] }).ctx.reqs = [r] ∧ r.done = false ∧ r.promise = some 100 ∧ ((100 : Addr).toNat : Int) ≤ at' 100)) := 
  ⟨by decide, by decide +kernel, by decide +kernel, by decide +kernel, by decide +kernel, by decide +kernel⟩

/-- d1 to d3: regions of one 8 by 8 bf16 tile in device memory, 4 KiB apart; pages that may be suspended, translated in die 0's TLB. -/
def tiled : State :=
  let d := fun (k : Nat) => desc (4096 * k) 1 8 8 16 256 8 8
  { withD [(1, d 1), (2, d 2), (3, d 3)] base with
    pages := SMap.put [] 0 [{ va := 0, size := 65536, isLazy := true, present := true }], tlbs := [(0, [(0, 0)])] }
/-- T fields: d1 from d2 and d3. -/
def tf : TileF := { hd := 5, dD := 1, dA := 2, dB := 3, stream := 0, p := 0, ctl := 0 }
/-- A node of one tile in d1, SUSPENDED. -/
def nodeOne : Node := { tiled.nodeFor .tmul tf with index := 3, gen := 255, tiles := [.suspended], preds := [[]] }
/-- The state that holds it. -/
def noded : State := { tiled with nodes := [nodeOne] }

theorem test_hyps_TileGraphResults :
    (let n := tiled.nodeFor .tmul tf
     tiled.descsBad {} [1, 2, 3] = none ∧ shapeFault .tmul 0 n.d n.a n.b = none
     ∧ anyMeet (n.sources.flatMap fun r => r.allData ++ r.allTrailers) (n.d.allData ++ n.d.allTrailers) = false ∧ tiled.acc = none
     ∧ (tiled.releaseAtIssue).2 = true
     ∧ (let u := tiled.releaseAtIssue.1
        u.freeSlot n.cluster = some 0 ∧ u.noRoom n = none
        ∧ (u.tilesUnder n.session n.launch (sectorsOf n.d.allSpans)).length = 0))
    ∧ tiled.descsBad {} [0, 2] = some 2
    ∧ (let n := (withD [(1, desc 4096 1 8 16 32 512 8 16)] tiled).nodeFor .tmap tf
       shapeFault .tmap 0 n.d n.a n.b = some 2)
    ∧ (let n := tiled.nodeFor .tmap { tf with dA := 1 }
       shapeFault .tmap 0 n.d n.a n.b = none ∧ anyMeet (n.sources.flatMap fun r => r.allData ++ r.allTrailers) (n.d.allData ++ n.d.allTrailers) = true)
    ∧ (noded.launch.mask.getLsbD (nodeOne.handle.toNat / 2 ^ 28) = true ∧ noded.nodeOf nodeOne.handle = some nodeOne ∧ nodeOne.launch = noded.launch.uid
       ∧ noded.nodeOf 0x0 = none ∧ noded.launch.mask.getLsbD ((0x10000000 : Word).toNat / 2 ^ 28) = false
       ∧ nodeOne.preds.all List.isEmpty = true ∧ nodeOne.tile 0 = .suspended ∧ nodeOne.tile 1 ≠ .suspended ∧ noded.releaseAtIssue.2 = true)
    ∧ (let r := regionOf (tiled.rdD 1) 0
       let p := tiled.partyOf 0
       let bytes := piecesOfSpans (r.allData ++ r.allTrailers)
       tiled.descsBad { types := false } [1] = none ∧ badAddr p.unit bytes = none ∧ firstAt bytes (tiled.releaseAtIssue.1.pageMissing p) = none
       ∧ firstAt bytes (({ tiled with pages := [] } : State).releaseAtIssue.1.pageMissing p) = some 4096 ∧ firstAt bytes (tiled.worldBad p) = none
       ∧ firstAt bytes (fun a => (tiled.tagAt p a).tag.unready && (tiled.tagAt p a).launch != p.launch) = none
       ∧ (let t := tiled.setTag 0 4096 { tag := .suspended, launch := 9 }
          firstAt bytes (fun a => (t.tagAt p a).tag.unready && (t.tagAt p a).launch != p.launch) = some 4096))
    ∧ (let dst := regionOf (tiled.rdD 1) 0
       let src := regionOf (tiled.rdD 2) (mapU (tiled.rdD 2))
       tiled.descsBad {} [1, 2] = none ∧ shapeFault .tcopy 0 dst src {} = none
       ∧ badAddr tiled.unit (piecesOfSpans (dst.allSpans ++ src.allSpans)) = none) := by
  decide +kernel

theorem test_hyps_TileGraphResults_place :
    (match tiled.releaseAtIssue.1.placeNode (tiled.partyOf 0) false (tiled.nodeFor .tmul tf) with
      | .ok => true
      | _ => false) = true := by decide +kernel

/-- a1 and a2 hold addresses, s1 a number. -/
def copying (x y : Addr) (n : Word) : State := withS [(1, n)] (withA [(1, x), (2, y)] tiled)
/-- CPSTOR on a namespace of 4 KiB blocks, with a codec for blocks of 8 KiB. -/
def storing (ns : NSlot) (dst : Addr) (n : Word) : State :=
  let s := copying dst 0 n
  { s with sessions := SMap.put [] 0 { opened := true, nslots := Vector.replicate 16 ns }
           clusters := SMap.put [] 0 { codecs := Vector.replicate 2 { ub := 65536, pb := 8192, route := 1 } } }

theorem test_hyps_CopyInstructions :
    (let bad := fun (a : Nat) => placeOf (isCcc 0) (BitVec.ofNat 64 a) = .bad
     bad (4 * 2 ^ 52) ∧ ¬ bad 0 ∧ (tiled.copyQueue 0).length < 64 ∧ tiled.releaseAtIssue.2 = true
     ∧ 2 ^ 24 < ((copying 0 0 0x1000001).spec 1 0).toNat ∧ ((copying 0 0 0x1000000).spec 1 0).toNat ≤ 2 ^ 24
     ∧ oneHome 0 0x100 8 = true ∧ oneHome 0 0x200 8 = true ∧ oneHome 0 (2 ^ 52 - 4) 8 = false
     ∧ (0x100 < 0x107 + 8 ∧ 0x107 < 0x100 + 8) ∧ ¬ (0x100 < 0x108 + 8 ∧ 0x108 < 0x100 + 8))
    ∧ (let d := regionOf (tiled.rdD 1) 0
       let a := regionOf (tiled.rdD 2) 0
       tiled.descsBad {} [1, 2] = none ∧ badAddr 0 (piecesOfSpans (d.allSpans ++ a.allSpans)) = none
       ∧ (d.ty = a.ty ∧ d.rows = a.rows ∧ d.cols = a.cols ∧ d.tr = a.tr ∧ d.tc = a.tc ∧ d.trailer ≠ 0 ∧ a.trailer ≠ 0)
       ∧ tiled.descsBad { optTrailer := true } [1, 2] = none
       ∧ badAddr 0 ((16384, 1) :: piecesOfSpans (d.allSpans ++ a.allSpans)) = none ∧ 16384 % 4 = 0 ∧ oneHome 0 16384 (4 * 65535) = true
       ∧ 65535 < (65536 : Word).toNat)
    ∧ (let e : EngReq := { id := 1, key := 0, slot := 0, addr := 0, cls := 0, num := 1, launch := 0, cluster := 0, unit := 1, work := .bytes 0 128 1 }
       ¬ (({ base with engs := List.replicate 64 e } : State).copyQueue 0).length < 64)
    ∧ (let ns : NSlot := { v := true, lbas := 3, maxb := 15 }
       let s := storing ns 0x10000 2
       let slot := (s.sessions.get {} s.launch.session).nslots.getD 4 {}
       let cfg := (s.clusterAt 0).codecs.getD 1 {}
       slot.v = true ∧ (((storing {} 0 2).sessions.get {} 0).nslots.getD 4 {}).v = false ∧ 2 * 2 ^ (9 + slot.lbas) = 8192
       ∧ (2 ≤ slot.maxb + 1 ∧ slot.maxb + 1 < 17 ∧ 8192 ≤ 2 ^ 20 ∧ 2 ^ 20 < 257 * 2 ^ 12)
       ∧ (cfg.route.getLsbD 0 = true ∧ cfg.pb ≠ 0 ∧ 8192 % cfg.pb.toNat = 0 ∧ 4096 % cfg.pb.toNat ≠ 0)
       ∧ oneHome 0 0x10000 65536 = true ∧ homeOf 0 0x10000 ≠ some 8 ∧ homeOf 0 (8 * 2 ^ 52) = some 8) := by
  decide +kernel

/-- A control context whose a1 holds the SRAM's first byte, where bytes stand; s1 and s2 hold numbers. -/
def recorded (bs : List Byte) (x y : Word) : State :=
  let s := withS [(1, x), (2, y)] (withA [(1, BitVec.ofNat 64 sram)] control)
  { s with mem := memWrite s.mem (sramKey 0 0) bs }
/-- A task record: entry, bits of its second word. -/
def taskBytes (entry w1 : Nat) : List Byte := leBytes 32 (entry + w1 * 2 ^ 32)

theorem test_hyps_QueuesAndJobs :
    (let s := recorded (taskBytes 2047 0) 31 0
     let r := s.readRecord sram 32 32
     let bs := (r.2.getD [])
     recordHome s sram = true ∧ r.2.isSome = true ∧ r.1.taskBad (leNat bs) 31 1 false = none
     ∧ r.1.taskBad (leNat bs) 512 1 false = some 2
     ∧ ((r.1.queueAt 0 31).entries.length < 4160) ∧ ((r.1.upd fun c => { c with push := some { record := 2047, arg := 31 } }).release 4).2 = true
     ∧ s.ctx.push = none ∧ r.1.spec 2 0 = s.spec 2 0)
    ∧ (let e : QEntry := { task := { entry := 0, args := Vector.replicate 4 0 }, seq := 1, launch := 0 }
       let s := (base.setQueue 0 31 { entries := List.replicate 4160 e, next := 4161 }).upd fun c => { c with push := some { record := 2047, arg := 31 } }
       s.ctx.push.isSome = true ∧ (s.release 4).2 = true ∧ 4160 ≤ (s.queueAt 0 31).entries.length)
    ∧ recordHome base 8 = false
    ∧ (base.launch.mask.getLsbD 1 = false ∧ base.launch.mask.getLsbD 0 = true
       ∧ (let e : QEntry := { task := { entry := 0, args := Vector.replicate 4 0, jv := true, job := 63 }, seq := 2 ^ 23 - 1, launch := 0 }
          let s := base.setQueue 0 31 { entries := [e], next := 1 }
          (s.queueAt 0 31).entries.find? (·.seq == 2 ^ 23 - 1) = some e ∧ (∀ x ∈ (s.queueAt 0 31).entries, x.seq ≠ 7) ∧ (s.queueAt 0 31).next ≤ 2 ^ 23))
    ∧ (1023 < 2 ^ 10 ∧ 1023 / 64 ≠ base.cluster ∧ 63 < 2 ^ 10 ∧ 63 / 64 = base.cluster ∧ base.jobCount 0 63 = 0 ∧ (base.setJob 0 63 1).jobCount 0 63 ≠ 0
       ∧ base.ctx.passed = none ∧ (base.upd fun c => { c with passed := some 0 }).ctx.passed.isSome = true
       ∧ (base.acquire 5).2 = true ∧ base.launch.mask.getLsbD (1023 / 64) = false) := by
  decide +kernel

/-- Stream entries: 0 free, 1 resident, 2 failed, 3 waits for entry 1, 4 a transfer. -/
def streams : Vector StreamEntry 32 :=
  let t : Task := { entry := 0, args := Vector.replicate 4 0 }
  (Vector.replicate 32 {}).setIfInBounds 1 { gen := 1, st := .resident } |>.setIfInBounds 2 { gen := 1, st := .failed }
    |>.setIfInBounds 3 { gen := 1, st := .waiting 2 t 0 1 } |>.setIfInBounds 4 { gen := 1, st := .pending 5 }

theorem test_hyps_EventsAndStreams :
    (¬ (16 < 16) ∧ control.launch.mask.getLsbD 0 = true ∧ (control.clusterAt 0).events.length < 256 ∧ (control.release 4).2 = true)
    ∧ (let s := control.updCluster 0 fun k => { k with events := [(1, 2), (3, 4)], evWaiters := [64] }
       (s.clusterAt 0).evWaiters.head? = some s.cur ∧ (s.clusterAt 0).events = [(1, 2), (3, 4)] ∧ (control.clusterAt 0).events = [])
    ∧ (let s := recorded (leBytes 32 (0x1000 + 0x2000 * 2 ^ 64 + 128 * 2 ^ 128)) 0 0
       let r := s.readRecord sram 32 32
       let x := leNat (r.2.getD [])
       transferHome s.unit sram = true ∧ r.2.isSome = true ∧ x / 2 ^ 160 % 2 ^ 96 = 0 ∧ r.1.streamFree 0 = some 0
       ∧ (r.1.copyQueue 0).length < 64 ∧ r.1.releaseAtIssue.2 = true ∧ transferHome s.unit 8 = false)
    ∧ (let s := recorded (leBytes 32 (5 + 3 * 2 ^ 192 + 65535 * 2 ^ 224)) 0 0
       let r := s.readRecord sram 32 32
       let x := leNat (r.2.getD [])
       recordHome s sram = true ∧ r.2.isSome = true ∧ r.1.taskBad x 0 65535 true = none ∧ x / 2 ^ 192 % 2 ^ 32 = 3 ∧ x / 2 ^ 224 % 2 ^ 32 = 65535
       ∧ maskNames (r.1.clusterAt 0).streamCtl 0 = true ∧ maskNames streams 1 = false ∧ maskNames streams 18 = true ∧ maskResident streams 2 = true
       ∧ r.1.streamFree 0 = some 0 ∧ s.ctx.push = none ∧ ((r.1.upd fun c => { c with push := some { record := x, arg := 0 } }).release 4).2 = true)
    ∧ (let s := (control.upd fun c => { c with push := some { record := 5, arg := 0 } }).updCluster 0 fun k =>
         { k with streamCtl := Vector.replicate 32 { gen := 1, st := .resident } }
       s.ctx.push.isSome = true ∧ s.streamFree s.cluster = none)
    ∧ ((streams.getD 2 {}).st = .failed ∧ namedByWaiting streams 2 = false ∧ namedByWaiting streams 1 = true ∧ (streams.getD 1 {}).st = .resident
       ∧ (0x102 : Word) = BitVec.ofNat 32 (1 * 256 + 2) ∧ (streams.getD 0 {}).st = .free) := by
  decide +kernel

theorem test_hyps_EventsAndStreams_copy : bytesFault 8 0x1000 0x2000 128 = none := by rfl

/-- A hurdle object in the SRAM: EXPECT 2, so many arrived, PHASE. -/
def hurdle (arrived early phase : Nat) : List Byte := leBytes 16 (2 + arrived * 2 ^ 32 + early * 2 ^ 48 + phase * 2 ^ 64)
/-- Token ring 3 of session 0, and a host window over the first 4 KiB of the bus. -/
def ringed (r : TokenRing) : State :=
  { control with
    sessions := SMap.put [] 0 { opened := true, rings := (Vector.replicate 16 {}).setIfInBounds 3 r }
    hostWins := control.hostWins.setIfInBounds 0 { base := 0, limit := 0xFFF, en := true } }

theorem test_hyps_HurdlesAndServiceCalls :
    (let h : Hurdle := { expect := 2, arrived := 1, early := 1, phase := 5 }
     h.arrived < h.expect ∧ h.early < h.expect ∧ ((h.phase - 5 : Word).toInt = 0 ∧ h.arrived + 1 = h.expect)
     ∧ ((h.phase - 6 : Word).toInt = -1 ∧ h.early + 1 = h.expect) ∧ 1 ≤ (h.phase - 4 : Word).toInt ∧ (h.phase - 7 : Word).toInt ≤ -2)
    ∧ (let s := recorded (hurdle 1 0 5) 0 0
       let r := s.hurdleAccess sram
       r.2.isSome = true ∧ ((r.2.map (·.phase)) = some 5) ∧ (r.1.release 4).2 = true ∧ (r.1.acquire 4).2 = true ∧ s.hurdleHome 8 = false
       ∧ s.ctx.passed = none ∧ r.1.ctx.harwa = false
       ∧ (let t := (s.upd fun c => { c with atomics := [{ id := 1, op := .add, ty := 6, va := BitVec.ofNat 64 (sram + 4096), s := 1, cmp := 0, dest := 5, sb := none, seq := 0, slot := 7 }] }).hurdleAccess sram
          t.2.isSome = true ∧ (t.1.release 5).2 = false)
       ∧ (let t := s.upd fun c => { c with passed := some 6 }
          t.ctx.passed = some 6 ∧ (t.acquire 4).2 = true) ∧ ((s.upd fun c => { c with harwa := true }).hurdleAccess sram).1.ctx.harwa = true)
    ∧ (let ring := fun (w : State) => (w.sessions.get {} (w.sessionOf w.unit)).rings.getD 3 {}
       let full : TokenRing := { en := true, log2 := 4, producer := 16, pending := 1, count := 2 }
       let last : TokenRing := { full with producer := 15 }
       (ring control).en = false ∧ (ring (ringed full)).en = true ∧ 0 < (ring (ringed full)).pending
       ∧ (ring (ringed { full with pending := 0 })).pending = 0 ∧ ((ringed full).release 5).2 = true
       ∧ ¬ ((ring ((ringed full).release 5).1).producer - (ring ((ringed full).release 5).1).tcons < 2 ^ 4)
       ∧ (ring ((ringed last).release 5).1).producer - (ring ((ringed last).release 5).1).tcons < 2 ^ 4
       ∧ hostAllowed ((ringed last).release 5).1.hostWins (0 + 8 * (15 % 16)) 8 true = true) := by
  decide +kernel

/-! ## Hypotheses met: transforms, walks, sends, relays -/

/-- PMOV fields with d1 and d2, s1 as scalar. -/
def pf (port : BitVec 12) : PmovF := { port, dD := 1, dA := 2, sc := 1, ev := 0 }

theorem test_hyps_TransformInstructions :
    (let d := regionOf (tiled.rdD 1) 0
     let a := regionOf (tiled.rdD 2) 0
     tiled.descsBad { optTrailer := true } [1, 2] = none ∧ spansHome 0 d.allSpans = true ∧ spansHome 0 a.allSpans = true
     ∧ (d.ty = a.ty ∧ ¬ (d.ty = 14 ∨ d.ty = 15) ∧ d.tr = a.tc ∧ d.tc = a.tr ∧ d.rows = a.cols ∧ d.cols = a.rows ∧ d.trailer ≠ 0 ∧ a.trailer ≠ 0)
     ∧ (d.rows = a.rows ∧ d.cols = a.cols)
     ∧ ((tiled.unitOps 0 4).filter fun r => !r.started).length < 16 ∧ tiled.releaseAtIssue.2 = true)
    ∧ (let e : EngReq := { id := 1, key := 0, slot := 0, addr := 0, cls := 2, num := 1, launch := 0, cluster := 0, unit := 2
                           work := .xform 4 (.decode {} 0 0) }
       16 ≤ ((({ base with engs := List.replicate 16 e } : State).unitOps 0 4).filter fun r => !r.started).length)
    ∧ (let s := withD [(1, desc (4 * 2 ^ 52) 1 8 8 16 256 8 8), (2, desc 8192 1 8 16 32 512 8 8), (4, desc 8192 14 8 32 32 512 8 32 ||| (0x9000 <<< 192))] tiled
       s.descsBad { optTrailer := true } [1, 2] = none ∧ spansHome 0 (regionOf (s.rdD 1) 0).allSpans = false
       ∧ (regionOf (s.rdD 2) 0).rows ≠ (regionOf (s.rdD 2) 0).cols
       ∧ s.descsBad { optTrailer := true } [4] = none ∧ (regionOf (s.rdD 4) 0).ty = 14 ∧ spansHome 0 (regionOf (s.rdD 4) 0).allSpans = true)
    ∧ (oneHome 0 ((tiled.rdD 1).toNat % 2 ^ 56) (max 64 1) = true ∧ (pf 0x610).port.toNat % 0x200 = 16 ∧ (pf 0x608).port.toNat % 0x200 = 8
       ∧ (65536 * 8 / tyWidth 1 ≤ 65535) ∧ ¬ (65536 * 8 / tyWidth 9 ≤ 65535))
    ∧ ((pf 0x700).port.toNat % 0x200 = 0x100 ∧ (256 % 256 = 0 ∧ 256 ≤ 2 ^ 20) ∧ ¬ (2 ^ 20 + 256 ≤ 2 ^ 20) ∧ (pf 0x708).port.toNat % 0x200 = 0x108
       ∧ (2 ^ 21 % 256 = 0 ∧ 512 ≤ 2 ^ 21) ∧ ¬ (512 ≤ 256) ∧ 1 ≤ 1 ∧ ¬ (2 ≤ 1) ∧ 0x5FF / 0x200 < 3) := by
  decide +kernel

theorem test_hyps_ChunksRoundTrip :
    (let bs : List Nat := [255, 0]
     (∀ b ∈ bs, b < 256) ∧ bs ≠ [] ∧ bs.length ≤ 2 ^ 20 ∧ 3 < 4 ∧ bs.length % 2 = 0
     ∧ (13 : BitVec 4).toNat < 14 ∧ (13 : BitVec 4) ≠ 5 ∧ bs.length * 8 % tyWidth 13 = 0 ∧ bs.length * 8 / tyWidth 13 ≤ 65535) := by decide

/-- A walk record of one tile in slots of 1 KiB, and bits that break it. -/
def walkBytes (count more : Nat) : List Byte :=
  leBytes 32 (15 * 2 ^ 20 + 1024 * 2 ^ 32 + 16 * 2 ^ 64 + 256 * 2 ^ 80 + count * 2 ^ 128 + 1 * 2 ^ 160 + more * 2 ^ 24)
/-- d1 as in `tiled` with core 0 in its multicast set, and a1 at a record in the own scratchpad. -/
def walking (bs : List Byte) : State :=
  let s := withA [(1, pad 0)] (withD [(1, desc 4096 1 8 8 16 256 8 8 ||| (1 <<< 174))] tiled)
  { s with mem := memWrite s.mem (spadKey 0 0 0) bs }
/-- A walk of unit 0 in slot 7 of engine 3, its batons as given. -/
def walkOne (storer : Bool) (st : WalkState) (batons : List Baton) : Walk :=
  { id := 9, cluster := 0, engine := 3, slot := 7, gen := 1, launch := 0, key := 0, task := 0, eslot := 9, addr := 0, storer, ev := false
    d := regionOf (desc 4096 1 8 8 16 256 8 8) 0, mcast := 1, record := walkRecOf (leNat (walkBytes 17 0)), j0 := 0, st, batons }
/-- A state that holds it. -/
def walked (w : Walk) : State := { tiled with walks := [w] }

theorem test_hyps_WalksAndBatons :
    (let s := walking (walkBytes 1 0)
     let addr := (s.rdA 1).toNat
     let d := regionOf (s.rdD 1) 0
     let x := fun (s : State) => leNat (s.engineBytes (s.partyOf 0) addr 32)
     s.descsBad {} [1] = none ∧ tiled.descsBad {} [0] = some 2 ∧ (addr % 32 = 0 ∧ homeOf 0 addr = some 16 ∧ homeOf 0 (addr + 31) = some 16)
     ∧ (s.operandsReady [(addr, 32)]).2 = true ∧ walkBad 0 d 1 addr (x s) false = none
     ∧ walkBad 0 d 1 addr (x (walking (walkBytes 1 1))) false = some 2 ∧ walkBad 0 d 1 addr (x (walking (walkBytes 0 0))) false = some 3
     ∧ s.releaseAtIssue.2 = true ∧ ¬ ((s.rdA 2).toNat % 32 = 0 ∧ homeOf 0 (s.rdA 2).toNat = some 16))
    ∧ (let w := walkOne false .active ([.full 1] ++ List.replicate 15 .engine)
       let s := walked w
       s.walkOf w.handle = some w ∧ s.walkOf 0 = none ∧ s.storerEnded 0 = false
       ∧ ((List.range 8).find? fun k => !((s.walks.filter fun w => w.cluster == 0 && w.engine == 3 && s.walkHere w).map (·.slot)).contains k) = some 0 ∧ (s.cluster = w.cluster ∧ coreOf s.unit < 8 ∧ w.mcast / 2 ^ coreOf s.unit % 2 = 1)
       ∧ w.mcast / 2 ^ 1 % 2 ≠ 1 ∧ 15 < w.record.n ∧ w.record.n ≤ 16 ∧ ¬ (w.record.count ≤ w.first 0) ∧ w.holds 0 0 = true ∧ w.holds 0 1 = false
       ∧ (s.acquire 2).2 = true ∧ (s.release 2).2 = true ∧ w.st = .active ∧ w.batons.getD 0 .done = .full 1)
    ∧ (let w := walkOne true .ended (List.replicate 16 .compute)
       w.storer = true ∧ w.st = .ended ∧ w.record.count ≤ w.first 15 + w.record.n * 1
       ∧ (let s := { tiled with storerEnds := [(walkPlace 0 3 7, w.handle.toNat)] }
          s.walkOf w.handle = none ∧ s.storerEnded w.handle = true ∧ (s.acquire 4).2 = true))
    ∧ (walkOne false .stopped []).st = .stopped
    ∧ (let w := walkOne true .active (List.replicate 16 .compute)
       w.holds 0 15 = true ∧ (walked w).walks.find? (·.id == w.id) = some w) := by
  decide +kernel

/-- A session with peers 5 and 1023 at ports 0 and 15, and d1, d2 as in `tiled`; the list of ids at a1. -/
def peered (ids : List Nat) : State :=
  let x : Session := { opened := true, ownId := 7, hasPeers := true, peers := [(5, 0), (1023, 15)], windows := [(0, 65536)] }
  let s := withA [(1, pad 0)] { tiled with sessions := SMap.put [] 0 x }
  { s with mem := memWrite s.mem (spadKey 0 0 0) (ids.flatMap (leBytes 2)) }
/-- A send of d2's tile, its part at port 15, and its tile out and not yet answered. -/
def sending (out : Bool) : State :=
  let r : EngReq := { id := 3, key := 0, slot := 9, addr := 0, cls := 3, num := 1, launch := 0, cluster := 0, unit := 4
                      work := .send (tiled.rdD 1) (regionOf (tiled.rdD 1) 0) (regionOf (tiled.rdD 2) 0) 1 }
  let x : SentTile := { req := 3, port := 15, peer := 1023, tile := 0, attempt := 2, sent := 0 }
  { peered [] with engs := [r], parts := if out then [] else [{ req := 3, port := 15, peers := [1023] }], sent := if out then [x] else [] }

theorem test_hyps_NakanSends :
    (let s := peered [5, 1023]
     let shape := fun (s : State) => sendShape 0 (regionOf (s.rdD 1) 0) (regionOf (s.rdD 2) 0)
     let x := s.sessions.get {} s.launch.session
     s.descsBad { optTrailer := true } [1, 2] = none ∧ shape s = none
     ∧ shape (withD [(2, desc 8192 0 8 8 32 256 8 8)] s) = some 1
     ∧ 1023 < 1024 ∧ x.portOf 1023 = some 15 ∧ x.portOf 6 = none ∧ (s.parts.filter (·.port == 15)).length < 64 ∧ s.releaseAtIssue.2 = true
     ∧ (let at' := (s.rdA 1).toNat
        at' % 2 = 0 ∧ oneHome 0 at' (max 1 (2 * 2)) = true ∧ homeOf 0 at' = some 16 ∧ (s.operandsReady [(at', 4)]).2 = true
        ∧ (let ids := fun (t : State) => (List.range 2).map fun i => leNat (((t.engineBytes (t.partyOf 0) at' 4).drop (2 * i)).take 2)
           ids s = [5, 1023] ∧ peerBad x [] (ids s) = none ∧ peerBad x [] (ids (peered [5, 5])) = some 0x10005 ∧ s.portFull x (ids s) = none)))
    ∧ (let s := sending false
       ∃ x r, s.parts.find? (·.port == 15) = some x ∧ s.engBy x.req = some r ∧ s.deferredReq r = false
         ∧ (∀ y ∈ s.sent, y.port = 15 → y.resend = false) ∧ s.portFailed.getLsbD 15 = false ∧ r.ready ≤ s.cycle
         ∧ ({ s with portFailed := 0x8000 } : State).portFailed.getLsbD 15 = true)
    ∧ (let s := { sending true with mtc := 0x100000 }
       ∃ x r, s.sent[0]? = some x ∧ x.resend = false ∧ s.engBy x.req = some r ∧ x.attempt < 3 ∧ x.sent + 2 ^ 20 ≤ s.mtc.toNat
         ∧ (0xFFFFF : Addr).toNat < x.sent + 2 ^ 20)
    ∧ (base.portFlits.get 0 15 < 8 ∧ 8 ≤ ({ base with portFlits := [(15, 8)] } : State).portFlits.get 0 15) :=
  ⟨by decide +kernel, ⟨_, _, rfl, rfl, by decide +kernel⟩, ⟨_, _, rfl, rfl, rfl, by decide +kernel⟩, by decide +kernel⟩

/-- What `engineTry` answers is `ready`. -/
def isReady : EngineAns → Bool
  | .ready => true
  | .wait => false
  | .fault _ _ _ => false

theorem test_hyps_NakanSends_ready :
    (let s := sending false
     let w : State := { s with parts := modifyFirst (fun y => y.req == 3 && y.port == 15) (fun y => { y with node := none }) s.parts }
     s.sendNode (s.partyOf 0) (regionOf (tiled.rdD 2) 0) 0 0 = none
     ∧ isReady (w.engineTry (s.partyOf 0) {} {} ((regionOf (tiled.rdD 2) 0).tileSpans 0 0)).2 = true)
    ∧ (let d := regionOf (tiled.rdD 1) 0
       let pk : TilePacket := { port := 15, peer := 1023, session := 0, secure := false, desc := tiled.rdD 1, p := 0, q := 0, data := []
                                trailer := [], scales := [] }
       let s := { peered [] with inbox := [pk] }
       let w := { s with inbox := s.inbox.erase pk, portFlits := s.portFlits.del pk.port }
       let x := s.sessions.get {} 0
       let p : Party := { unit := 0, session := 0, launch := 0, secure := x.secure }
       x.opened = true ∧ (s.sessions.get {} 1).opened = false ∧ w.refusal x p d (d.tileSpans 0 0) false = none
       ∧ w.refusal x p d (d.tileSpans 0 0) true = some 5
       ∧ w.tlbMiss p (piecesOfSpans (d.tileSpans 0 0 ++ d.codeSpans)) = none
       ∧ ({ w with tlbs := [] } : State).tlbMiss p (piecesOfSpans (d.tileSpans 0 0 ++ d.codeSpans)) = some (0, 0, 0) ∧ firstAt (piecesOfSpans (d.tileSpans 0 0 ++ d.codeSpans)) (w.pageMissing p) = none
       ∧ w.guardOf (w.flatSpans 0 0 (piecesOfSpans (d.tileSpans 0 0))) none = none) := by
  decide +kernel

/-- A relay record: one i32 tile of 8 by 8, a group of 2, one entry of a kind, channel 4, epoch 6; field changes. -/
def relayBytes (g reserved : Nat) : List Byte :=
  leBytes 192 (6 * 2 ^ 8 + reserved * 2 ^ 5 + 4 * 2 ^ 16 + 6 * 2 ^ 32 + g * 2 ^ 48 + 1 * 2 ^ 80 + 7 * 2 ^ 96 + 7 * 2 ^ 103
    + 256 * 2 ^ 128 + 512 * 2 ^ 160 + 4096 * 2 ^ 320 + 8192 * 2 ^ 384 + (sram + 0x1000) * 2 ^ 448 + 1 * 2 ^ 1024)
/-- a1 at a relay record in the SRAM; the group table holds 5 and 7. -/
def relaying (g reserved : Nat) : State :=
  let s := withA [(1, BitVec.ofNat 64 sram)] (peered [])
  { s with mem := memWrite (memWrite s.mem (sramKey 0 0) (relayBytes g reserved)) (sramKey 0 0x1000) (leBytes 2 5 ++ leBytes 2 7) }

theorem test_hyps_Relays :
    let rec' := fun (s : State) => leNat ((s.readFirst sram 192 64).2.getD [])
    let s := relaying 2 0
    let x := rec' s
    let r := relayRecOf x
    let u := (s.readFirst sram 192 64).1
    (sram % 64 = 0 ∧ relayHome 0 sram 192 = true ∧ relayHome 0 (4 * 2 ^ 52) 192 = false)
    ∧ ((s.readFirst sram 192 64).2.isSome = true ∧ r.gtab % 2 = 0 ∧ relayHome 0 r.gtab (max 1 (2 * r.g)) = true ∧ relayBad x = none)
    ∧ relayBad (rec' (relaying 2 1)) = some 2 ∧ relayBad (rec' (relaying 0 0)) = some 4
    ∧ (u.relayOn 0 r.chan r.epoch = none ∧ (u.readGroup r).2.isSome = true)
    ∧ (let v := (u.readGroup r).1
       let ids := (u.readGroup r).2.getD []
       ids = [5, 7] ∧ groupBad (v.sessions.get {} v.launch.session) ids = none ∧ groupBad (v.sessions.get {} v.launch.session) [6] = some 6
       ∧ (v.relayCmds 0).length < 64 ∧ v.relaySlot 0 = some 0 ∧ v.releaseAtIssue.2 = true) := by
  decide +kernel

/-- A relay in slot 15 of stack 0 with its request, at a step. -/
def relayOne (steps next : Nat) : Relay :=
  { id := 3, stack := 0, slot := 15, gen := 1, launch := 0, next, ids := [5, 7]
    r := { relayRecOf 0 with chan := 4, epoch := 6, g := 2, nt := 1, entries := List.replicate steps { kind := 0, p0 := 0, xoff := 0 } } }
/-- A packet of channel 4 and epoch 6 from peer 5. -/
def packet : RelayPacket := { chan := 4, epoch := 6, peer := 5, seq := 0, count := 0, data := [], trailer := [] }
/-- A state that holds the relay, and a packet it has sent. -/
def relayed (x : Relay) (t : RelayWait) : State :=
  let r : EngReq := { id := 3, key := 0, slot := 9, addr := 0, cls := 4, num := 1, launch := 0, cluster := 0, unit := 5, work := .relay }
  { peered [] with relays := [x], engs := [r], mtc := 0x4000000
                   relaySent := [{ relay := 3, step := 0, src := 0, peer := 5, attempt := 1, st := t, pkt := packet }]
                   relayBuf := [{ stack := 1, pkt := packet, at' := 0, own := false }] }

theorem test_hyps_Relays_running :
    (let x := relayOne 1 1
     let s := { relayed x (.out 0) with relaySent := [] }
     s.relays.find? (fun y => y.stack == x.stack && y.slot == x.slot && y.st == .active) = some x ∧ (∃ e, s.engBy x.id = some e ∧ e.ready ≤ s.cycle)
     ∧ s.relayBy x.id = some x ∧ s.noticeFor x = none ∧ s.deferred.contains x.id = false ∧ x.flights = [] ∧ x.r.steps ≤ x.next
     ∧ s.relaySent.length = 0 ∧ (s.relays.find? fun y => y.handle == x.handle && y.launch == s.launch.uid) = some x
     ∧ s.relayOn 0 4 6 = some x ∧ s.relayRuns x = true ∧ s.relayOn 1 4 6 = none
     ∧ (∃ n, ({ s with relayNotices := [{ stack := 0, chan := 4, epoch := 6, peer := 5, cause := 0x76, at' := 0 }] } : State).noticeFor x = some n))
    ∧ ((peered []).sessions.any (fun y => y.2.opened) = true ∧ base.sessions.any (fun y => y.2.opened) = false
       ∧ (peered []).bufUse 0 + 2 ^ 22 ≤ 2 ^ 22)
    ∧ (let s := relayed (relayOne 1 1) (.busy 0x3FFFC00)
       ∃ y x, s.relaySent[0]? = some y ∧ s.relayBy y.relay = some x ∧ y.peer ≠ s.ownIdOf x ∧ y.st = .busy 0x3FFFC00 ∧ 0x3FFFC00 + 1024 ≤ s.mtc.toNat
         ∧ (0x3FFFFFF : Addr).toNat < 0x3FFFC00 + 1024)
    ∧ (let s := relayed (relayOne 1 1) (.out 0x3F00000)
       ∃ y, s.relaySent[0]? = some y ∧ y.st = .out 0x3F00000 ∧ 0x3F00000 + 2 ^ 20 ≤ s.mtc.toNat)
    ∧ (let s := relayed (relayOne 1 1) (.out 0)
       ∃ h, s.relayBuf[0]? = some h ∧ h.own = false ∧ h.acked = false ∧ s.relayOn h.stack h.pkt.chan h.pkt.epoch = none ∧ h.at' + 2 ^ 26 ≤ s.mtc.toNat) :=
  ⟨⟨by decide +kernel, ⟨_, rfl, by decide +kernel⟩, by decide +kernel, by decide +kernel, by decide +kernel, rfl, by decide +kernel, rfl, by decide +kernel,
    by decide +kernel, by decide +kernel, by decide +kernel, _, rfl⟩, by decide +kernel, ⟨_, _, rfl, rfl, by decide +kernel⟩, ⟨_, rfl, by decide +kernel⟩,
   ⟨_, rfl, by decide +kernel⟩⟩

theorem test_hyps_Relays_queue :
    (let x := relayOne 1 1
     let s := { relayed x (.out 0) with relayQ := [(0, [.start 3, .tile packet])], cycle := 1 }
     s.relays.find? (fun y => y.stack == x.stack && y.slot == x.slot && s.relayLives y) = some x ∧ (∃ e, s.engBy x.id = some e ∧ e.ready ≤ s.cycle)
     ∧ (s.relayCmds x.stack).contains (.start x.id) = true ∧ ((relayed x (.out 0)).relayCmds x.stack).contains (.start x.id) = false)
    ∧ (let s := fun (c : RelayCmd) (bufs : List RelayPacket) => ({ relayed (relayOne 1 1) (.out 0) with
         relayQ := [(0, [c])], relayBuf := bufs.map fun p => { stack := 0, pkt := p, at' := 0, own := false } } : State)
       let n : RelayCmd := .notice 4 6 5 0x76
       ((s (.tile packet) []).relayCmds 0 = .tile packet :: [] ∧ (s (.tile packet) []).bufUse 0 + packet.data.length + packet.trailer.length ≤ 2 ^ 22)
       ∧ ((s n []).relayCmds 0 = n :: [] ∧ (s n []).relayOn 0 4 6 = some (relayOne 1 1) ∧ ({ s n [] with relays := [] } : State).relayOn 0 4 6 = none)) := by
  exact ⟨⟨by decide +kernel, ⟨_, rfl, by decide +kernel⟩, by decide +kernel⟩, by decide +kernel⟩

/-! ## Hypotheses met: command rings and commands -/

/-- The module with a host window over 2^32 bytes of the bus, session 0 open on ring 0 and secure session 1 on ring 28. -/
def served : State :=
  { State.reset with
    hostWins := State.reset.hostWins.setIfInBounds 0 { base := 0, limit := 0xFFFFFFFF, en := true }
    sessions := [(0, { opened := true }), (1, { opened := true, secure := true })]
    rings := [(0, { en := true, session := some 0, csize := 2, psize := 2 }), (28, { session := some 1 })] }
/-- Ring 0 of it changed. -/
def ring0 (f : CmdRing → CmdRing) : State := served.setRing 0 (f (served.ring 0))

theorem test_hyps_CommandRings :
    ((ring0 fun r => { r with rst := true }).ringFree 0 = false ∧ served.ringFree 0 = true ∧ served.firmware.failed = false
     ∧ ({ served with firmware := { failed := true } } : State).firmware.failed = true ∧ 27 < 28 ∧ (served.ring 27).session = none
     ∧ (served.ring 31).session = none ∧ 28 ≤ 31)
    ∧ (let r := (ring0 fun r => { r with ptail := 4 }).ring 0
       r.posts = [] ∧ r.rst = false ∧ 2 ^ r.psize.toNat ≤ (r.ptail - r.phead).toNat ∧ ({ r with rst := true } : CmdRing).rst = true
       ∧ (({ r with ptail := 3 } : CmdRing).ptail - r.phead).toNat < 2 ^ r.psize.toNat ∧ 14 < 2 ^ 16 ∧ 0xFFFF < 2 ^ 16)
    ∧ (let r := served.ring 0
       r.job = .idle ∧ (served.ring 1).en = false ∧ (0 : Word) = r.chead ∧ ({ served with firmware := { ready := false } } : State).firmware.ready = false
       ∧ r.en = true ∧ (1 : Word) ≠ r.chead ∧ served.firmware.ready = true
       ∧ (served.hostGet (r.cbase.toNat + 64 * (r.chead.toNat % 2 ^ r.csize.toNat)) 64).isSome = true
       ∧ commandOk 0 = false ∧ commandOk 0x0F = true)
    ∧ (let c : Completion := { tag := 1, status := 0 }
       let r := (ring0 fun r => { r with posts := [c], ptail := 4 }).ring 0
       r.posts = [c] ∧ r.rst = false ∧ (r.ptail - 1).toNat < 2 ^ r.psize.toNat)
    ∧ (let r := (ring0 fun r => { r with ctail := 4, ptail := 4 }).ring 0
       served.graphOn 0 = none ∧ (served.ring 0).chead = (served.ring 0).ctail ∧ RingJob.launch 1 ≠ .idle
       ∧ r.chead ≠ r.ctail ∧ (r.ctail - r.chead).toNat ≤ 2 ^ r.csize.toNat ∧ 2 ^ r.psize.toNat ≤ (r.ptail - r.phead).toNat
       ∧ ∀ i, i < (r.ctail - r.chead).toNat → (served.hostGet (r.slotAt (r.chead + BitVec.ofNat 32 i)) 64).isSome = true) := by
  decide +kernel

/-- MAP of 64 KiB at an address, with attributes. -/
def mapP (va bytes backing attr : Nat) : MapP := { va := ad va, bytes := ad bytes, backing := ad backing, attr := BitVec.ofNat 32 attr, aperture := 0 }
/-- Two 64 KiB pages of session 0, one of device memory and one of host memory that is not present, with its fault. -/
def mapped (number : Option Nat) (present : Bool) : State :=
  { served with
    sessions := [(0, { opened := true, psBus := 4096, psLog2 := 4 })]
    pages := [(0, [{ va := 0, size := 65536, present }, { va := 8 * 2 ^ 52, size := 65536, host := true, writable := true }])]
    faults := [{ session := 0, va := 8 * 2 ^ 52, number }, { session := 0, va := 0 }, { session := 0, va := 2 ^ 20 }] }

theorem test_hyps_SessionsAndPages :
    ((served.ring 1).session = none ∧ (served.ring 0).session ≠ none ∧ (served.sessions.get {} 0).opened = true
     ∧ (4 ≤ (12 : BitVec 4).toNat ∧ (12 : BitVec 4).toNat ≤ 12) ∧ served.hostOk 4096 (16 * 2 ^ 12) true = true
     ∧ (∃ y ∈ [(0, ({ opened := true, hasPeers := true } : Session))], y.2.hasPeers = true) ∧ (∀ y ∈ served.sessions, y.2.hasPeers = false)
     ∧ (∀ n, n < 8 → (SMap.get ((List.range 8).map fun n => (n, ({ opened := true } : Session))) {} n).opened = true)
     ∧ (served.sessions.get {} 2).opened = false ∧ (∀ m, m < 2 → (served.sessions.get {} m).opened = true)
     ∧ served.hostOk 0xFFFFFFF0 (16 * 2 ^ 4) true = false ∧ served.readTable 0xFFFFFFF0 4096 = none
     ∧ (∃ w ∈ windowsOf (leBytes 256 (1 + 65536 * 2 ^ 64)), windowBad w = true) ∧ (served.readTable 0 4096).isSome = true ∧ (served.readTable 8192 4096).isSome = true ∧ (served.readTable 4096 256).isSome = true
     ∧ ∀ w ∈ windowsOf ((served.readTable 4096 256).getD []), windowBad w = false)
    ∧ (served.ringFree 0 = true ∧ served.firmware.failed = false ∧ (served.ring 0).session = some 0)
    ∧ (({ served with launches := [{ Launch.none with uid := 1 }] } : State).sessionBusy 0 = true ∧ served.sessionBusy 0 = false)
    ∧ (let p := mapP 0 65536 0 0
       p.attr.toNat < 256 ∧ p.attr.toNat / 64 ≠ 3 ∧ p.attr.toNat % 4 ≠ 3 ∧ p.bytes.toNat ≠ 0 ∧ p.va.toNat % 65536 = 0
       ∧ p.va.toNat / 2 ^ 52 ≤ 3 ∧ (p.va.toNat + p.bytes.toNat - 1) / 2 ^ 52 ≤ 3 ∧ served.mapRefused 0 p = none
       ∧ served.mapRefused 0 (mapP 1 65536 0 0) = some 1 ∧ (mapped none false).mapRefused 0 p = some 6 ∧ served.mapRefused 0 (mapP (4 * 2 ^ 52) 65536 0 0) = some 6
       ∧ served.mapRefused 0 (mapP (8 * 2 ^ 52) 65536 65536 0) = none ∧ served.mapRefused 0 (mapP (8 * 2 ^ 52) 65536 65536 4) = some 7
       ∧ (mapP 0 65536 0 20).attr.getLsbD 4 = true ∧ (mapP 0 65536 0 20).attr.getLsbD 2 = true
       ∧ (mapPages false p 1 0 served.hbm).isSome = true
       ∧ (let full : SMap HbmRange := (List.range 192).map fun n => (n, { blocks := [(0, 2 ^ 30)] })
          ({ served with hbm := full } : State).mapRefused 0 p = none ∧ (mapPages false p 1 0 full).isNone = true))
    ∧ (let s := mapped none false
       let gone := (s.pages.get [] 0).filter fun q => rangesMeet 0 65536 q.va q.size
       (gone.map Page.size).sum = 65536 ∧ (∀ q ∈ gone, 0 ≤ q.va ∧ q.va + q.size ≤ 65536)
       ∧ (((s.pages.get [] 0).filter fun q => rangesMeet 0 32768 q.va q.size).map Page.size).sum ≠ 32768)
    ∧ (let s := mapped (some 5) false
       (∃ f, s.faults.find? (fun f => f.session == 0 && f.number.isSome && s.awaits f (ad (8 * 2 ^ 52))) = some f)
       ∧ (∃ q, s.pageOf 0 (ad (8 * 2 ^ 52)) = some q ∧ hostAllowed s.hostWins 65536 q.size q.writable = true
            ∧ hostAllowed s.hostWins 0xFFFFFFFF q.size q.writable = false)
       ∧ (∀ f ∈ served.faults, (f.session == 0 && f.number.isSome && served.awaits f 0) = false))
    ∧ (let s := mapped none false
       (∃ f, s.nextFault (ownerDie (ad (8 * 2 ^ 52))) = some f ∧ f.session = 0 ∧ f.va = 8 * 2 ^ 52)
       ∧ (∃ q, s.pageOf 0 (ad (8 * 2 ^ 52)) = some q ∧ q.present = false ∧ q.host = true)
       ∧ (let y := s.sessions.get {} 0
          y.psEntries.length < 2 ^ y.psLog2 ∧ 2 ^ y.psLog2 ≤ (List.replicate 16 (0, false)).length))
    ∧ (let s := { mapped none false with faults := [{ session := 0, va := 0 }] }
       (∃ f, s.nextFault (ownerDie 0) = some f ∧ f.va = 0) ∧ (∃ q, s.pageOf 0 0 = some q ∧ q.present = false ∧ q.host = false)
       ∧ (∃ q, (mapped none true).pageOf 0 0 = some q ∧ q.present = true) ∧ s.pageOf 0 (ad (2 ^ 20)) = none) :=
  ⟨by decide +kernel, by decide +kernel, by decide +kernel, by decide +kernel, by decide +kernel,
   ⟨⟨_, rfl⟩, ⟨_, rfl, by decide +kernel, by decide +kernel⟩, by decide +kernel⟩,
   ⟨⟨_, rfl, rfl, rfl⟩, ⟨_, rfl, rfl, rfl⟩, by decide +kernel⟩, ⟨⟨_, rfl, rfl⟩, ⟨_, rfl, rfl, rfl⟩, ⟨_, rfl, rfl⟩, rfl⟩⟩

/-- A kernel image's header on the bus, at 4096: its size of code, and a version. -/
def headed (code version : Nat) : State :=
  { served with
    mem := memWrite [] (busKey 4096) (leBytes 64 (0x394B5944 + version * 2 ^ 32 + 0xABCD * 2 ^ 64 + code * 2 ^ 320))
    pages := [(0, [{ va := 0, size := 65536, present := true }])], tlbs := [(0, [(0, 0)])] }

/-- The verification of a patch depends on fused keys (log entry 10) and is not shown. -/
theorem test_hyps_ManagementCommands :
    (served.ringFree 0 = true ∧ served.hostOk 0 64 true = true ∧ served.hostOk 0x100000000 64 true = false ∧ 3 ≤ (15 : BitVec 4).toNat
     ∧ ∀ p ∈ (served.arrAt 0).retired, p < 132)
    ∧ (served.ringFree 28 = true ∧ (served.ring 28).session = some 1 ∧ 2 ^ 20 < 2 ^ 20 + 1 ∧ served.hostGet 0x100000000 64 = none
       ∧ (served.hostGet 0 (2 ^ 10)).isSome = true ∧ leNat (((served.hostGet 0 64).getD []).take 4) ≠ 0x48544150)
    ∧ (let s := headed 262144 1
       let p : ImageP := { va := 0, bus := 4096, bytes := 64 }
       let h : CmdHead := { ring := 0, tag := 0 }
       let q := firmwareParty 0 0
       let e := (s.startJob h (.image p)).engineTry q { write := true } {} [(0, 64)]
       let head := fun (s : State) => (e.1.engineWrite q [(0, memRead s.mem (busKey 4096) 64)]).engineBytes q 0 64
       hostAllowed s.hostWins 4096 64 false = true ∧ pagedRange 0 64 = true ∧ isReady e.2 = true
       ∧ leNat ((head s).take 4) = 0x394B5944 ∧ leNat (((head s).drop 4).take 2) = 1 ∧ leNat (((head s).drop 40).take 4) = 262144
       ∧ leNat (((head (headed 2 2)).drop 4).take 2) ≠ 1)
    ∧ ((0x40 : Addr).toNat / 2 ^ 52 ≤ 3 ∧ (0x40 : Addr).toNat % 64 = 0 ∧ (ad (0xF2 * 2 ^ 48)).toNat / 2 ^ 48 = 0xF2 ∧ ¬ (ad (4 * 2 ^ 52)).toNat / 2 ^ 52 ≤ 3)
    ∧ (4 ≤ (15 : BitVec 4).toNat ∧ (0x1000 : Addr).toNat % 4096 = 0 ∧ (65535 : Word).toNat ≤ 65535 ∧ ¬ (65536 : Word).toNat ≤ 65535
       ∧ hostAllowed served.hostWins 0x1000 (8 * 2 ^ 15) true = true ∧ hostAllowed served.hostWins 0xFFFFF000 (8 * 2 ^ 15) true = false
       ∧ (∀ l ∈ served.launches, ¬ (l.session = 0 ∧ l.live = true)) ∧ (∃ l ∈ base.launches, l.session = 0 ∧ l.live = true))
    ∧ (hostAllowed served.hostWins 0xFFFFFFFC 4 true = true ∧ hostAllowed served.hostWins 0xFFFFFFFD 4 true = false ∧ 4 ≤ (12 : BitVec 4).toNat)
    ∧ (let s := fun (st : LaunchState) => ({ served with launches := [{ Launch.none with uid := 1, id := 7, st }] } : State)
       (∃ l, (s .running).launches.find? (fun l => l.session == 0 && l.id == 7) = some l ∧ l.st = .running)
       ∧ (∃ l, (s .preempted).launches.find? (fun l => l.session == 0 && l.id == 7) = some l ∧ l.st = .preempted)
       ∧ (s .queued).launches.find? (fun l => l.session == 0 && l.id == 8) = none) :=
  ⟨by decide +kernel, by decide +kernel, by decide +kernel, by decide +kernel, by decide +kernel, by decide +kernel, ⟨_, rfl, rfl⟩, ⟨_, rfl, rfl⟩, rfl⟩

/-! ## Hypotheses met: launches, graphs, the debug port -/

/-- A kernel image at address 0 of session 0: 32 scalars, 32 vectors, 16 descriptors, 64 bytes of code, a spill size; the
rest of its header's first bytes is legal when the scalars are. -/
def imaged (scalars spill : Nat) : State :=
  { served with
    mem := memWrite [] (devKey 0 0) (leBytes 64 (0x394B5944 + 1 * 2 ^ 32 + 7 * 2 ^ 64 + scalars * 2 ^ 128 + 32 * 2 ^ 136 + 16 * 2 ^ 144
      + spill * 2 ^ 192 + 0xFFFFFFFF * 2 ^ 256 + 64 * 2 ^ 320))
    pages := [(0, [{ va := 0, size := 65536, present := true }])], tlbs := [(0, [(0, 0)])] }
/-- A queued launch of it on cluster 0. -/
def queued : Launch := { Launch.none with uid := 1, mask := 1 }
/-- The state that holds it. -/
def starting (scalars spill : Nat) : State := { imaged scalars spill with launches := [queued] }
/-- A check or a transfer succeeded. -/
def passes : StartStep → Bool
  | .ok _ => true
  | _ => false
/-- A check or a transfer waits. -/
def awaits : StartStep → Bool
  | .wait _ => true
  | _ => false
/-- A check or a transfer failed. -/
def fails : StartStep → Bool
  | .fail _ _ => true
  | _ => false
/-- The state it left. -/
def leftBy : StartStep → State
  | .ok s => s
  | .wait s => s
  | .fail s _ => s

/-- The limits of a header's fields. -/
def legalHeader (b : List Byte) : Bool :=
  let f := fun (o n : Nat) => leNat ((b.drop o).take n)
  let code := f 0x28 4
  decide (f 0 4 = 0x394B5944 ∧ f 4 2 = 1 ∧ f 6 2 < 16 ∧ f 0x10 1 ≤ 32 ∧ f 0x11 1 ≤ 32 ∧ f 0x12 1 ≤ 16 ∧ f 0x13 1 < 4
    ∧ f 0x14 1 < 8 ∧ f 0x15 3 = 0 ∧ f 0x18 4 ≤ 131072 ∧ (f 0x1C 4 = 0 ∨ 16 ≤ f 0x1C 4)
    ∧ (f 0x20 4 = 0xFFFFFFFF ∨ f 0x20 4 < code / 2) ∧ f 0x24 4 < code / 2 ∧ code % 2 = 0 ∧ 2 ≤ code ∧ code ≤ 262144
    ∧ f 0x30 16 = 0)

/-- A launch that is pre-empted holds every slice of the die. -/
def fullOfRegions : State :=
  { starting 32 131072 with launches := [queued, { queued with uid := 2, st := .preempted, slices := List.range 160 }] }

theorem test_hyps_LaunchLife :
    (let s := starting 32 4096
     let l := queued
     let acc := fun (s : State) => s.firmwareAccess l (cccNo 0) false 0 64
     let u := leftBy (acc s)
     let b := u.engineBytes (firmwareParty 0 0) 0 64
     let code := u.firmwareAccess l (cccNo 0) false 0 128
     let v := leftBy code
     let placed := v.dataReady l (headerOf b)
     let w := leftBy placed
     s.launchBy 1 = some l ∧ s.launchBy 2 = none ∧ l.st = .queued ∧ s.firmware.failed = false
     ∧ passes (acc s) = true ∧ awaits (acc { s with pages := [(0, [{ va := 0, size := 65536 }])] }) = true
     ∧ fails (acc { s with pages := [(0, [{ va := 0, size := 65536, isLazy := true }])] }) = true ∧ legalHeader b = true ∧ l.mask ≠ 0
     ∧ legalHeader ((leftBy (acc (starting 33 4096))).engineBytes (firmwareParty 0 0) 0 64) = false
     ∧ passes code = true ∧ v.extentHeld l = false ∧ passes placed = true ∧ w.firmware.failed = false
     ∧ (∃ p, w.reserve l (headerOf b).spillBytes = some p ∧ p.2.2.launchBy 1 = some l ∧ p.2.2.extentHeld l = false)
     ∧ (∃ m ∈ [{ queued with uid := 2, st := .running }], m.live = true ∧ m.uid ≠ l.uid ∧ m.mask &&& l.mask ≠ 0)
     ∧ fullOfRegions.reserve l 131072 = none ∧ fullOfRegions.extentHeld l = false)
    ∧ (let s := base
       let l := s.launch
       let f : FatalReport := { launch := 0, cause := 0x03, key := 0, slot := 15, addr := 0 }
       s.launchBy 0 = some l ∧ l.st = .running ∧ l.ending = none ∧ s.launchIdle l = true ∧ (∀ f ∈ s.fatals, f.launch ≠ 0)
       ∧ (∀ n ∈ s.nodes, n.launch ≠ l.uid) ∧ (s.writeBackAll l.units).allClean l.units = true
       ∧ ({ s with fatals := [f] } : State).firstFatal 0 = some f) := by
  refine ⟨?_, ?_⟩
  · iterate 14 refine ⟨by decide +kernel, ?_⟩
    refine ⟨⟨_, Option.eq_some_of_isSome (by decide +kernel), by decide +kernel, by decide +kernel⟩, by decide +kernel, ?_⟩
    decide +kernel
  · decide +kernel

/-- R441, R455: data that a launch places in its SRAM is there after the scrub of a cluster that was secure. -/
theorem test_placed_data_outlives_scrub :
    let s : State := { starting 32 0 with worlds := 1, mem := memWrite (imaged 32 0).mem (devKey 0 128) [7, 9] }
    let l := { queued with place := ad (0xF1 * 2 ^ 48 + 64) }
    let h : Header := { codeSize := 64, dataSize := 2 }
    memRead (s.startLaunch l h [] []).mem (sramKey 0 64) 2 = [7, 9] := by decide +kernel

/-- The graph of ring 0 at node 0, its node's bytes the words given (each 4 bytes), or not yet read. -/
def graphed (words : Option (List Nat)) (limit : Nat) : State :=
  { ring0 fun r => { r with job := .graph { va := 0, node := 0, limit, bytes := match words with
      | some ws => (ws ++ List.replicate (16 - ws.length) 0).flatMap (leBytes 4)
      | none => [] } } with
    pages := [(0, [{ va := 0, size := 65536, present := true }])], tlbs := [(0, [(0, 0)])] }
/-- The number that a node's words make. -/
def nodeNat (ws : List Nat) : Nat := leNat ((ws ++ List.replicate (16 - ws.length) 0).flatMap (leBytes 4))

theorem test_hyps_GraphsAndTokenRings :
    (let s := graphed none 5
     let q := firmwareParty 0 0
     let t := s.engineTry q {} {} [(0, 64)]
     served.graphOn 0 = none ∧ (∃ g, s.graphOn 0 = some (g, 0) ∧ g.bytes = [] ∧ g.launch = none ∧ g.count ≠ g.limit ∧ g.va + 64 * g.node = 0)
     ∧ (∃ g, (graphed none 0).graphOn 0 = some (g, 0) ∧ g.count = g.limit)
     ∧ (s.ring 0).posts = [] ∧ (s.ring 0).rst = false ∧ isReady t.2 = true ∧ (t.1.ring 0).job = (s.ring 0).job
     ∧ (s.pageOf 0 0).any (·.isLazy) = false ∧ 4 ≤ 4 * 2 ^ 52 / 2 ^ 52
     ∧ (({ s with pages := [(0, [{ va := 0, size := 65536, isLazy := true }])] } : State).pageOf 0 0).any (·.isLazy) = true)
    ∧ (cmdRest (nodeNat [0x00050000]) (nodeFields 0) = 0 ∧ cmdRest (nodeNat [0x10]) (nodeFields 0) ≠ 0 ∧ 5 ≤ nodeNat [5] % 16
       ∧ (∃ g, (graphed (some [1]) 5).graphOn 0 = some (g, 0) ∧ g.bytes ≠ []))
    ∧ (launchRefused (launchBlock (nodeNat [1, 0, 32])) = some 1 ∧ launchRefused (launchBlock (nodeNat [1, 0, 64])) = none
       ∧ cmdRest (nodeNat [1, 0, 64, 0, 0, 0, 1, 7, 1, 2, 3, 4]) (nodeFields 1) = 0)
    ∧ (let s := graphed (some [2, 0, 0x1000, 0, 0x2000, 0, 64]) 5
       let q := firmwareParty 0 0
       let t := s.engineTry q {} {} [(0x2000, 64)]
       let y := t.1.engineTry q { write := true } {} [(0x1000, 64)]
       cmdRest (nodeNat [2, 0, 0x1000, 0, 0x2000, 0, 64, 2]) (nodeFields 2) = 0
       ∧ isReady t.2 = true ∧ isReady y.2 = true ∧ y.1.ring 0 = s.ring 0 ∧ t.1.ring 0 = s.ring 0 ∧ t.1.hostWins = s.hostWins
       ∧ (s.engineTry q { write := true } {} [(0x1000, 64)]).1.ring 0 = s.ring 0
       ∧ isReady (s.engineTry q { write := true } {} [(0x1000, 64)]).2 = true
       ∧ s.hostOk 0x2000 64 false = true ∧ s.hostOk 0x1000 64 true = true ∧ s.hostOk 0x100000000 64 false = false
       ∧ s.hostOk 0x100000000 64 true = false ∧ pagedRange 0x1000 64 = true ∧ pagedRange 0x2000 64 = true
       ∧ nodeNat [2, 0, 0x1000, 0, 0x2000, 0, 64, 1] / 2 ^ 224 % 2 = 1 ∧ nodeNat [2, 0, 0x1000, 0, 0x2000, 0, 64, 2] / 2 ^ 225 % 2 = 1)
    ∧ (cmdRest (nodeNat [3, 0, 0x1000, 0, 0xFFFF]) (nodeFields 3) = 0)
    ∧ (let s := graphed (some [4, 0, 0x1000, 0, 7, 0xFF, 2, 3]) 5
       let t := s.engineTry (firmwareParty 0 0) {} {} [(0x1000, 4)]
       cmdRest (nodeNat [4, 0, 0x1000, 0, 7, 0xFF, 2, 3]) (nodeFields 4) = 0 ∧ nodeNat [4, 0, 0x1002] / 2 ^ 64 % 2 ^ 64 % 4 ≠ 0
       ∧ isReady t.2 = true ∧ t.1.ring 0 = s.ring 0 ∧ pagedRange 0x1000 4 = true)
    ∧ (let t : TokenRing := { producer := 5, tcons := 3, time := 10, pending := 1, first := 2 }
       (5 - BitVec.ofNat 32 t.tcons : Word).toNat ≤ t.producer - t.tcons ∧ t.producer - t.tcons < (6 - BitVec.ofNat 32 t.tcons : Word).toNat
       ∧ t.time ≠ 0 ∧ 0 < t.pending ∧ t.first + t.time ≤ (12 : Addr).toNat ∧ (11 : Addr).toNat < t.first + t.time) := by
  refine ⟨⟨by decide +kernel, ⟨_, rfl, rfl, rfl, by decide +kernel, by decide +kernel⟩, ⟨_, rfl, rfl⟩, by decide +kernel⟩,
    ⟨by decide +kernel, by decide +kernel, by decide +kernel, ⟨_, rfl, by decide +kernel⟩⟩,
    by decide +kernel, by decide +kernel, by decide +kernel, by decide +kernel, by decide +kernel⟩

/-- The launch on cluster 0 with a debugger of its session; a core's context as given, its header gating some registers. -/
def debugged (st : CtxState) (f : Ctx → Ctx) : State :=
  let s := withHdr (fun h => { h with scalars := 8, vectors := 8, descs := 4 }) { base with dbg := { en := true } }
  s.updCtx 0 fun c => f { c with st }

theorem test_hyps_DebugOperations :
    (let s := debugged .ready id
     let f : DbgF := { file := 0, num := 3, cluster := 0, core := 0, context := 0 }
     s.dbg.dstat ≠ 15 ∧ ({ s.dbg with dstat := 15 } : DebugPort).dstat = 15 ∧ (∃ l, s.debugLaunch 0 = some l ∧ l.saved = none ∧ l.hdr.stage < 1)
     ∧ base.dbg.en = false ∧ s.debugLaunch 1 = none ∧ s.worlds.getLsbD 0 = false ∧ ({ s with worlds := 1 } : State).worlds.getLsbD 0 = true
     ∧ (s.sessions.get {} s.dbg.dsess.toNat).secure = false ∧ f.core.toNat ≤ 8 ∧ f.context.toNat < 8 ∧ 8 < (9 : BitVec 4).toNat)
    ∧ ((debugged .free id).ctxAt 0).st = .free ∧ ((debugged .issuing id).ctxAt 0).st = .issuing ∧ ((debugged .ready id).ctxAt 0).st = .ready
    ∧ (let c := (debugged .stopped fun c => { c with halt := true, held := .issuing }).ctxAt 0
       c.st = .stopped ∧ c.halt = true ∧ c.stageh = false ∧ c.held = .issuing ∧ c.pend = [] ∧ c.latches = [] ∧ c.atomics = [] ∧ c.trapHeld = false
       ∧ c.trap.inh = false)
    ∧ (let flies := fun (k : Nat) => (debugged .ready fun c => { c with pend := [{ vals := [], due := 9, fixed := false, seq := 0, slot := k }] }).ctxAt 0
       (flies 2).st = .ready ∧ (flies 2).vectorsFly = true ∧ (flies 0).vectorsFly = false ∧ (debugged .ready id).launch.st = .running
       ∧ (debugged .stopped fun c => { c with drowsy := true }).isDrowsy 0 = true ∧ (debugged .stopped id).isDrowsy 0 = false
       ∧ { (debugged .stopped id).launch with st := .preempting }.st ≠ .running)
    ∧ (let l := (debugged .stopped id).launch
       l.hdr.gated .s 7 = false ∧ l.hdr.gated .s 8 = true ∧ l.hdr.gated .v 7 = false ∧ l.hdr.gated .d 3 = false
       ∧ 896 % 128 < (((debugged .stopped id).ctxAt 0).bank.v.getD (896 / 128) []).length)
    ∧ (let s := debugged .ready id
       (s.unitAt 0).codeBase + 2 * (131071 : Word).toNat + 1 < 262144 ∧ 262144 ≤ (s.unitAt 0).codeBase + 2 * (131072 : Word).toNat + 1)
    ∧ (let staged := fun (st : CtxState) => debugged st fun c => { c with task := some { uid := 1, entry := 0, args := Vector.replicate 4 0 } }
       let l := (staged .ready).launch
       let holds := fun (s : State) (k : Nat) => k ∈ l.keys ∧ isCcc (unitOf k) = false ∧ ∃ t, (s.ctxAt k).task = some t ∧ t.stage.toNat = 0
       (staged .ready).launchBy l.uid = some l ∧ holds (staged .issuing) 0 ∧ ((staged .issuing).ctxAt 0).st = .issuing ∧ ((staged .ready).ctxAt 0).st ≠ .free
       ∧ ¬ holds (debugged .ready id) 0
       ∧ ((debugged .stopped fun c => { c with stageh := true, halt := false }).ctxAt 0).stageh = true) := by
  refine ⟨⟨by decide +kernel, by decide +kernel, ⟨_, rfl, by decide +kernel⟩, by decide +kernel⟩, by decide +kernel, by decide +kernel,
    by decide +kernel, by decide +kernel, by decide +kernel, by decide +kernel, by decide +kernel, ?_⟩
  refine ⟨by decide +kernel, ⟨by decide +kernel, by decide +kernel, _, rfl, by decide +kernel⟩, by decide +kernel, by decide +kernel, ?_, by decide +kernel⟩
  rintro ⟨_, _, t, h, _⟩
  exact absurd h (by rw [show (debugged .ready id |>.ctxAt 0).task = none from by decide +kernel]; exact nofun)
/-! ## Hypotheses met: the host, contexts and their events -/

/-- A page of session 0 in the host's aperture at offset 0. -/
def windowed (present writable : Bool) : State :=
  { State.reset with pages := [(0, [{ va := 0, size := 65536, present, writable, aperture := some 0 }])] }
/-- A trace of the only launch, one context of which has a task. -/
def traced (st : CtxState) : State :=
  ({ base with dbg := { en := true, tctl := 0x1F05 } } : State).updCtx 8 fun c => { c with st }

theorem test_hyps_HostAccesses :
    ((State.reset.ring 0).en = false ∧ (served.ring 0).en = true ∧ (0x80000003 : Word).getLsbD 31 = true ∧ (3 : Word).getLsbD 31 = false
     ∧ State.reset.dbg.dstat ≠ 15 ∧ ({} : DebugPort).tctl.getLsbD 0 = false ∧ (traced .free).dbg.tctl.getLsbD 0 = true)
    ∧ (State.reset.aperturePage 0 0 = none ∧ (∃ p, (windowed true true).aperturePage 0 128 = some (p, 128) ∧ p.present = true ∧ p.writable = true)
       ∧ (∃ p, (windowed false true).aperturePage 0 128 = some (p, 128) ∧ p.present = false)
       ∧ (∃ p, (windowed true false).aperturePage 0 128 = some (p, 128) ∧ p.writable = false)
       ∧ [(1 : Byte), 2].length ≤ 128 - 254 % 128 ∧ State.reset.hostHeld = []
       ∧ (windowed true true).guardOf [(devKey 0 128, 1)] none = none ∧ noded.guardOf [(devKey 0 8192, 1)] none ≠ none)
    ∧ 2 ^ 30 - 4 + [(1 : Byte), 2, 3, 4].length ≤ 2 ^ 30
    ∧ (let s := traced .ready
       s.dbg.en = true ∧ s.dbg.tctl.getLsbD 0 = true ∧ s.dbg.tctl.getLsbD 2 = true
       ∧ s.mtc.toNat % 2 ^ (s.dbg.tctl.extractLsb' 8 5).toNat < s.lastTicks
       ∧ (∃ l, s.launches = [l] ∧ l.live = true ∧ l.session = s.dbg.dsess.toNat ∧ 8 ∈ l.keys ∧ (∀ k ∈ l.keys, (s.ctxAt k).st ≠ .free → k = 8)
            ∧ ∀ k ∈ l.keys, ((traced .free).ctxAt k).st ≠ .free → k = 8)
       ∧ (s.ctxAt 8).st ≠ .free ∧ (s.ctxAt 8).opened = false ∧ (s.ctxAt 8).done = 0 ∧ ((traced .free).ctxAt 8).st = .free) :=
  ⟨by decide +kernel, ⟨by decide +kernel, ⟨_, rfl, rfl, rfl⟩, ⟨_, rfl, rfl⟩, ⟨_, rfl, rfl⟩, by decide +kernel⟩, by decide +kernel,
   by decide +kernel, by decide +kernel, by decide +kernel, by decide +kernel, ⟨_, rfl, by decide +kernel⟩, by decide +kernel⟩

/-- A result of a context: a scalar, due at a cycle. -/
def result (fixed : Bool) (due : Nat) : Pending := { vals := [.s 3 7], due, fixed, seq := 0, slot := 0 }
/-- Core 0's context 0 with MUL s5, s1, s2 as its only slot, ISSUING. -/
def fetched : State := State.reset.withFetchWord 48 0x065042000000
/-- A page of session 0 in device memory and the launch on cluster 0. -/
def paged0 : State := { base with pages := [(0, [{ va := 0, size := 65536, present := true }])] }
/-- The verdict on an access is a fault of some cause. -/
def faultsBut (c : Nat) : Verdict' → Bool
  | .fault f _ _ => f != c
  | _ => false
/-- The access may go on. -/
def isOk : Verdict' → Bool
  | .ok => true
  | _ => false

theorem test_hyps_ResultsAndWaits :
    (let p := result true 0
     let q := result false 9
     (∀ v ∈ p.vals, ∀ n w, v ≠ .sys n w) ∧ p ∈ [p, q] ∧ (p.fixed = true ∧ p.due ≤ 0)
     ∧ (∀ r ∈ [p, q], r ≠ p → r.fixed = true ∧ r.due ≤ 0 → p.before r = true ∧ r.before p = false)
     ∧ (∀ r ∈ [q], ¬ (r.fixed = true ∧ r.due ≤ 0)) ∧ ([p, q].filter fun x => !x.fixed)[0]? = some q ∧ q.due ≤ 9 ∧ 8 < q.due ∧ q.late.isNone = true
     ∧ ({ q with late := some { va := 0, index := false, ty := 0 } } : Pending).late.isNone = false)
    ∧ (let l : Latch := { after := 0, pend := result true 4 }
       [l] = l :: [] ∧ l.pend.due ≤ 4 ∧ (∀ x ∈ [l], x.after ≠ 0 ∨ 3 < x.pend.due))
    ∧ fetched.ctx.counted = false
    ∧ (let idles := fun (n : Nat) => fetched.updCtx 0 fun c => { c with idle := some n }
       let c := (idles 1).ctxAt 0
       c.idle = some 1 ∧ ((idles 2).ctxAt 0).idle = some 2 ∧ c.st = .issuing ∧ c.after.resume = false ∧ c.after.transfer = false ∧ c.dly = false
       ∧ c.after.exit = none ∧ hdrLE ((idles 1).headerAt 0 c.pc) = false ∧ hdrY ((idles 1).headerAt 0 c.pc) = false
       ∧ hdrX ((idles 1).headerAt 0 c.pc) = false ∧ (idles 1).sprintDue 0 = false ∧ c.yieldDue = false ∧ c.stepping = false ∧ c.stopDue = false
       ∧ (base.ctxAt 0).idle = none ∧ (base.ctxAt 0).st ≠ .issuing)
    ∧ (let s := fetched.updCtx 0 fun c => { c with preEnd := some 0, opened := true }
       let c := s.ctxAt 0
       c.preEnd = some 0 ∧ 0 ≤ s.cycle ∧ c.opened = true ∧ c.st = .issuing ∧ (fetched.ctxAt 0).preEnd = none
       ∧ ∃ j, s.bundleSlots 0 = [(0, j)] ∧ c.done.getLsbD 0 = false ∧ profileBad false j = false
           ∧ ∃ v, runSlot j { s.setCtx 0 { c with preEnd := none } with cur := 0, slot := 0, flow := .done } = .next v ∧ v.flow = .done)
    ∧ (let f : FaultRec := { cause := 0x53, inner := 0x41, tcode := 0x41, addr := 0, words := [] }
       let c := (fetched.updCtx 0 fun c => { c with faults := [f] }).ctxAt 0
       c.faults = f :: [] ∧ c.st = .issuing ∧ c.trap.inh = false ∧ c.opened = false ∧ c.done = 0 ∧ c.idle = none)
    ∧ (let v := fun (s : State) (va : Nat) => s.accVerdict 0 .load va 4
       isOk (v paged0 0) = true ∧ faultsBut 0x95 (v (tiled.setTag 0 0 { tag := .poison }) 0) = true
       ∧ base.pageMissing (base.partyOf 0) 0 = true ∧ base.mayPark 64 = false ∧ (base.ctxAt 0).quiet = false
       ∧ (∀ st ∈ [AccessState.page (ad 0) .inPlace, .page (ad 0) .park, .page (ad 0) .parkNoMap, .asking 0, .admitted],
          ((base.updCtx 0 fun c => { c with accs := [{ slot := 7, kind := .load, va := ad 0, size := 4, st }] }).ctxAt 0).accs.map (·.st) = [st])
       ∧ paged0.pageMissing (paged0.partyOf 0) 0 = false ∧ (paged0.ctxAt 0).latches = []) := by
  refine ⟨⟨?_, by decide +kernel⟩, ⟨rfl, by decide +kernel⟩, by decide +kernel, by decide +kernel,
    ⟨by decide +kernel, by decide +kernel, by decide +kernel, by decide +kernel, by decide +kernel,
      ⟨_, rfl, by decide +kernel, by decide +kernel, _, rfl, by decide +kernel⟩⟩, by decide +kernel, by decide +kernel⟩
  intro v hv n w h
  simp only [result, List.mem_singleton] at hv
  rw [hv] at h
  exact RegVal.noConfusion h
/-- Context 0 of core 0 in a state, with a change. -/
def standing (st : CtxState) (f : Ctx → Ctx) : State := base.updCtx 0 fun c => f { c with st }
/-- BLOCKED for a reason. -/
def waiting (why : Why) : State := standing .blocked fun c => { c with wait := some { slot := 2, since := 0, blocked := true, cause := 4, why } }
/-- A task. -/
def aTask : Task := { uid := 4, entry := 2, args := #v[1, 2, 3, 4] }
/-- Queue 3 of cluster 0 holds it. -/
def queueing (t : Task) : State :=
  base.updCluster 0 fun c => { c with queues := c.queues.put 3 { entries := [{ task := t, seq := 0, launch := 0 }], next := 1 } }

theorem test_hyps_Scheduling :
    (let s := { standing .issuing fun c => { c with wait := some { slot := 2, since := 0, blocked := false, cause := 4, why := .regs [] } } with cycle := 64 }
     let c := s.ctxAt 0
     c.wait = some { slot := 2, since := 0, blocked := false, cause := 4, why := .regs [] } ∧ c.st = .issuing ∧ 0 + 64 ≤ s.cycle ∧ c.stopDue = false)
    ∧ (let s := (withHdr (fun h => { h with sprint := 16 }) (standing .issuing fun c => { c with sprint := 16, ended := true })).updUnit 0 fun x => { x with cur := some 0 }
       let c := s.ctxAt 0
       s.sprintDue 0 = true ∧ c.opened = false ∧ c.idle = none ∧ c.done = 0 ∧ c.dly = false ∧ c.ended = true ∧ c.stopDue = false ∧ (s.unitAt 0).cur = some (0 % 8)
       ∧ base.sprintDue 0 = false)
    ∧ (let s := standing .ready id
       let x := s.unitAt 0
       x.cur = none ∧ x.mayIssue ≤ s.cycle + 1 ∧ s.unitRuns 0 = true ∧ (x.last + 1 + 0) % 8 = 0 ∧ (s.ctxAt 0).st = .ready ∧ (s.ctxAt 0).stopAt = none ∧ s.unitRuns 9 = false
       ∧ (∀ k, k < 8 → (base.ctxAt (8 * 0 + k)).st ≠ .ready))
    ∧ (let s := { base with cycle := 1024 }
       let c := s.ctxAt 0
       (c.lastIssue + 1024 ≤ s.cycle ∧ c.pend = [] ∧ c.atomics = []) ∧ (base.ctxAt 0).drowsy = false ∧ ¬ (base.ctxAt 0).lastIssue + 1024 ≤ base.cycle)
    ∧ ((base.ctxAt 0).st ≠ .blocked ∧ (∃ w, ((waiting (.regs [(.s, 3)])).ctxAt 0).wait = some w ∧ w.why = .regs [(.s, 3)])
       ∧ ((waiting (.regs [(.s, 3)])).ctxAt 0).bank.full .s 3 = true
       ∧ (((waiting (.regs [(.s, 3)])).updCtx 0 fun c => { c with bank := { c.bank with sFull := 0 } }).ctxAt 0).bank.full .s 3 = false
       ∧ (∀ n, n < 8 → (0xFF : BitVec 8).getLsbD n = true → (base.ctxAt 0).sb.getD n 0 = 0)
       ∧ 0 ≤ (base.ctxAt 0).completed.getD 1 0 ∧ (base.ctxAt 0).completed.getD 1 0 < 1
       ∧ base.jobCount 0 2 = 0 ∧ ((base.setJob 0 2 1).jobCount 0 2) ≠ 0
       ∧ (let s := recorded (hurdle 1 0 5) 0 0
          ∃ h, hurdleOf (s.ownerNat 0 (s.sessionOf 0) (ad sram) 16) = some h ∧ 1 ≤ h.ahead 4 ∧ h.ahead 5 < 1)
       ∧ (0 : Addr).toNat ≤ base.mtc.toNat ∧ base.mtc.toNat < (1 : Addr).toNat)
    ∧ (let s := (standing .issuing id).updUnit 0 fun x => { x with cur := some 0 }
       let full := (List.range 8).foldl (fun (s : State) k => s.updCtx k fun c => { c with rq := List.replicate 64 0 }) base
       (s.unitAt 0).cur = some 0 ∧ (s.ctxAt 0).rq.length ≤ 60 ∧ (s.ctxAt 0).st = .issuing
       ∧ (∀ j, j < 8 → (s.ctxAt (8 * 0 + j)).st ≠ .free ∨ (s.ctxAt (8 * 0 + j)).task = none)
       ∧ (∀ k, k < 8 → 64 = (full.ctxAt (8 * 0 + k)).rq.length) ∧ (full.unitAt 0).cur = none ∧ full.dbg.halted = [])
    ∧ (let s := standing .draining fun c => { c with task := some aTask }
       s.drained 0 = true ∧ (s.ctxAt 0).task = some aTask ∧ (∀ n, n < 8 → (s.arrAt 0).chains.contains (n, aTask.uid) = false)
       ∧ (s.writeBackAll (s.domain 0)).allClean (s.domain 0) = true ∧ base.drained 0 = false ∧ aTask.jv = false
       ∧ ({ aTask with jv := true } : Task).jv = true)
    ∧ (let s := queueing aTask
       let e : QEntry := { task := aTask, seq := 0, launch := 0 }
       s.unitRuns (cccNo 0) = true ∧ s.nextQueue 0 = some (3, e, 0) ∧ s.vacancy 0 = some 0 ∧ (s.acquireAt 0 0).2 = true
       ∧ (queueing { aTask with cc := true }).nextQueue 0 = some (3, { e with task := { aTask with cc := true } }, 8)
       ∧ base.nextQueue 0 = none ∧ base.unitRuns (cccNo 1) = false)
    ∧ (let p : Parked := { ctx := { Ctx.reset with task := some aTask }, frame := 8, page := 0, ready := true }
       let s := base.updUnit 0 fun x => { x with parked := [p] }
       s.unitRuns 0 = true ∧ (s.unitAt 0).parked.find? (·.ready) = some p ∧ s.vacancy 0 = some 0 ∧ unitOf 0 = 0 ∧ (s.acquireAt 0 5).2 = true
       ∧ (let v := (s.acquireAt 0 5).1
          let frame := fun (w : State) => w.loadFrame ((v.launchOn 0).getD Launch.none) 0 p.frame p.ctx
          (frame v).any (fun d => !d.halt && !d.stageh) = true ∧ v.dbg.halted = []
          ∧ (frame { v with mem := memWrite v.mem (((v.launchOn 0).getD Launch.none).frameKey 0 8 + 0x2F0) [1] }).isNone = true)
       ∧ ∀ p ∈ (base.unitAt 0).parked, p.ready = false) :=
  ⟨by decide +kernel, by decide +kernel, by decide +kernel, by decide +kernel,
   ⟨by decide +kernel, ⟨_, rfl, rfl⟩, by decide +kernel, by decide +kernel, by decide +kernel, by decide +kernel, by decide +kernel,
    by decide +kernel, by decide +kernel, ⟨_, Option.eq_some_of_isSome (by decide +kernel), by decide +kernel, by decide +kernel⟩, by decide +kernel⟩,
   by decide +kernel, by decide +kernel, by decide +kernel, by decide +kernel⟩
/-! ## Hypotheses met: arrays, caches, tiles -/

/-- An integer accumulator of zeros with one wrong rc entry, and some corner. -/
def zeros (rc : SMap Word) (ck : Word) : Acc := { int := true, rc, ck }
/-- A grid of zeros. -/
def zeroGrid : Grid := List.replicate 128 (List.replicate 128 (Machine.Num.ofInt 0))

theorem zeros_grid (rc : SMap Word) (ck : Word) :
    ((zeros rc ck).rows.map fun r => r.map (drainVal 8 true (zeros rc ck).int)) = zeroGrid := by
  have h : (zeros rc ck).rows = List.replicate 128 (List.replicate 128 0) := by
    simp only [Acc.rows, Acc.at', zeros, List.map_const', List.length_range, show ∀ k, SMap.get ([] : SMap Word) 0 k = 0 from fun _ => rfl]
  rw [h, List.map_replicate, List.map_replicate]
  rfl
theorem zeroGrid_row (i : Nat) (h : i < 128) : zeroGrid.getD i [] = List.replicate 128 (Machine.Num.ofInt 0) := by
  rw [zeroGrid, List.getD_eq_getElem?_getD, List.getElem?_replicate, if_pos h]; rfl
theorem zeroGrid_column (j : Nat) (h : j < 128) : column zeroGrid j = List.replicate 128 (Machine.Num.ofInt 0) := by
  rw [column, zeroGrid, List.map_replicate, List.getD_eq_getElem?_getD, List.getElem?_replicate, if_pos h]; rfl
theorem zeroGrid_rows (s : Sums) (w : Word) (h : (List.range 128).all (fun i => decide (s.rc.getD i 0 = if i = 0 then w else 0)) = true) :
    badRows none zeroGrid s = (List.range 128).filter fun i => !lineOk none (List.replicate 128 (Machine.Num.ofInt 0)) (if i = 0 then w else 0) := by
  rw [badRows, show zeroGrid.length = 128 from List.length_replicate]
  refine List.filter_congr fun i hi => ?_
  rw [zeroGrid_row i (List.mem_range.1 hi), of_decide_eq_true (List.all_eq_true.1 h i hi)]
theorem zeroGrid_cols (s : Sums) (h : (List.range 128).all (fun j => decide (s.cc.getD j 0 = 0)) = true) :
    badCols none 128 zeroGrid s = (List.range 128).filter fun _ => !lineOk none (List.replicate 128 (Machine.Num.ofInt 0)) 0 := by
  rw [badCols]
  refine List.filter_congr fun j hj => ?_
  rw [zeroGrid_column j (List.mem_range.1 hj), of_decide_eq_true (List.all_eq_true.1 h j hj)]

theorem test_clean (tol : Option Nat) (n : Nat) (g : Grid) (s : Sums) (place : Nat → Nat → Machine.Num → Machine.Num)
    (r : badRows tol g s = []) (c : badCols tol n g s = []) (k : (cornerRows tol s && cornerCols tol s) = true) :
    testTile tol n g s place = .good g s [] ∧ fixesOf tol n g s [] = [] := by
  simp [testTile, fixesOf, r, c, k]
theorem test_spoiled (tol : Option Nat) (n i : Nat) (g : Grid) (s : Sums) (place : Nat → Nat → Machine.Num → Machine.Num)
    (r : badRows tol g s = [i]) (c : badCols tol n g s = []) (k : cornerCols tol s = false) :
    testTile tol n g s place = .bad := by
  simp [testTile, r, c, k]
theorem zeros_test (rc : SMap Word) (ck : Word) :
    (zeros rc ck).test 8 true = testTile none 128 zeroGrid (zeros rc ck).checks fun _ _ v => drainPlace 8 v := by
  rw [Acc.test, zeros_grid]; rfl
theorem zeros_fixes (rc : SMap Word) (ck : Word) : (zeros rc ck).fixes 8 true [] = fixesOf none 128 zeroGrid (zeros rc ck).checks [] := by
  rw [Acc.fixes, zeros_grid]; rfl

/-- Zeros are good, with nothing to correct; a wrong row entry beside a wrong corner is beyond correction. -/
theorem test_hyps_ArrayAndCacheEvents_tests :
    (∃ g s, (zeros [] 0).test 8 true = .good g s []) ∧ (zeros [] 0).fixes 8 true [] = [] ∧ (zeros [(0, 1)] 1).test 8 true = .bad := by
  have good := fun p => test_clean none 128 zeroGrid (zeros [] 0).checks p
    ((zeroGrid_rows _ 0 (by decide +kernel)).trans (by decide +kernel)) ((zeroGrid_cols _ (by decide +kernel)).trans (by decide +kernel))
    (by decide +kernel)
  refine ⟨⟨_, _, (zeros_test [] 0).trans (good _).1⟩, (zeros_fixes [] 0).trans (good fun _ _ v => v).2, ?_⟩
  exact (zeros_test [(0, 1)] 1).trans (test_spoiled none 128 0 zeroGrid _ _
    ((zeroGrid_rows _ 1 (by decide +kernel)).trans (by decide +kernel)) ((zeroGrid_cols _ (by decide +kernel)).trans (by decide +kernel))
    (by decide +kernel))
theorem test_hyps_ArrayAndCacheEvents :
    (let op : MOp := { kind := .endChain 2, key := 0, task := 0, due := 4 }
     (base.arrAt 0).queue = [] ∧ (base.arrAt 0).running = [] ∧ [op] = op :: [] ∧ 3 < op.due ∧ op.due ≤ 4
     ∧ op.kind.isPlace = false ∧ (base.launchOn 0).any (·.st == .preempting) = false
     ∧ ((base.updLaunch 0 fun l => { l with st := .preempting }).launchOn 0).any (·.st == .preempting) = true
     ∧ (MOpKind.endChain 2).awaits (.macc 2 []) = true ∧ (MOpKind.endChain 2).awaits (.macc 3 []) = false ∧ (MOpKind.drain 2 0 false).isPlace = true)
    ∧ (base.arrAt 0).deciding = none
    ∧ (let a := base.arrAt 0
       let p := (((List.range 132).filter fun q => !(a.retired.take a.applied).contains q)[3]?).getD 3
       let b := fun (n : Nat) (retired : List Nat) => { a with cnt := [(3, n)], first := [(3, 0)], verdicts := 9, retired }
       p = 3 ∧ a.cnt.get 0 p = 0 ∧ ((b 2 []).cnt.get 0 p ≠ 0 ∧ ((b 2 []).verdicts - (b 2 []).first.get 0 p).toNat < 2 ^ 20)
       ∧ (b 1 []).cnt.get 0 p ≠ 2 ∧ (b 2 []).cnt.get 0 p = 2 ∧ p ∉ (b 2 [4, 5]).retired ∧ (b 2 [4, 5]).retired.length < 3
       ∧ 3 ≤ (b 2 [4, 5, 6]).retired.length)
    ∧ (let a := base.arrAt 0
       ¬ (a.holder ≠ none ∨ a.evaluator ≠ none) ∧ a.evalWaiting = [] ∧ a.waiting = []
       ∧ (let b := { a with evalWaiting := [4], waiting := [0] }
          b.evalWaiting = 4 :: [] ∧ b.waiting = 0 :: [] ∧ { b with holder := some 1 }.holder ≠ none)
       ∧ ((standing .ready fun c => { c with task := some aTask }).ctxAt 0).task = some aTask)
    ∧ (let s := fun (sb : Option (Nat × Nat)) (p : Page) =>
         ({ base with pages := [(0, [p])] } : State).updUnit 0 fun x => { x with fills := [(256, sb)] }
       let p : Page := { va := 0, size := 65536, present := true }
       let y := s (some (0, 3)) p
       (∀ f ∈ (base.unitAt 0).fills, f.1 ≠ 256) ∧ (y.unitAt 0).fills.find? (·.1 == 256) = some (256, some (0, 3)) ∧ y.l1Unit 0 256 = some 0
       ∧ (s none p).pageOf ((s none p).sessionOf 0) (ad 256) = some p ∧ (y.tagOf (y.sessionOf 0) (ad 256)).tag = .value
       ∧ p.policy ≠ .uc ∧ (y.unitAt 0).l1.find 2 = none ∧ victimOf (y.unitAt 0).l1 (y.fusedL1 0) 2 = none
       ∧ (let q := { p with policy := .uc }
          (s none q).pageOf 0 (ad 256) = some q ∧ q.policy = .uc)
       ∧ isOk (y.verdict (y.unitParty 0) {} [(256, 128)]) = true) := by
  decide +kernel
/-- Zeros with their trailers in the regions of d1 to d3. -/
def trailed : State :=
  let bs := trailerPadded 1 8 8 { rc := List.replicate 8 0, cc := List.replicate 8 0, ck := 0 }
  { tiled with mem := [4096, 8192, 12288].foldl (fun m a => memWrite m (devKey 0 (a + 256)) bs) [] }
/-- A state whose node stands in some states: its tile's sectors have a tag, and it is evaluated so far as given. -/
def evaluating (n : Node) (tag : Tag) (st : EvalState) : State :=
  let e : Eval := { id := 7, node := n.handle, tile := 0, chain := 7, st }
  (n.tileSectors 0).foldl (fun (s : State) x => s.setTagNo 0 x { tag, node := n.handle })
    { trailed with nodes := [n], evals := [e] }
/-- The node of one tile in evaluation, by its operation. -/
def nodeIn (op : TileOp) : Node := { nodeOne with op, tiles := [.evaluating], a := nodeOne.a, b := nodeOne.b }
/-- Inputs verify. -/
def verifies : Except Word (List (RawTile × Sums)) → Bool
  | .ok _ => true
  | .error _ => false
/-- The tiles that verified. -/
def tilesOf : Except Word (List (RawTile × Sums)) → List (RawTile × Sums)
  | .ok l => l
  | .error _ => []
/-- A tile was computed. -/
def isTile : Computed → Bool
  | .tile _ _ _ => true
  | .fail _ => false
/-- An access met a fault other than a missing mapping. -/
def faulted : EngineAns → Bool
  | .fault c _ _ => c != 0x33
  | _ => false
/-- The product may run on no array. -/
def isAlu : Spot → Bool
  | .alu => true
  | _ => false

theorem test_hyps_TileEvaluations :
    (let s := evaluating nodeOne .suspended .waiting
     let n := nodeOne
     let sec := 4096 / 128
     (s.tagNo 0 sec).tag = .suspended ∧ (tiled.tagNo 0 sec).tag ≠ .suspended ∧ s.nodeOf (s.tagNo 0 sec).node = some n ∧ n.tiles = [.suspended]
     ∧ (n.tileSectors 0).contains sec = true ∧ n.handle = (s.tagNo 0 sec).node ∧ n.session = 0)
    ∧ (let n := nodeIn .tmap
       let s := evaluating n .evaluating .waiting
       let e : Eval := { id := 7, node := n.handle, tile := 0, chain := 7 }
       let p := { s.partyNode n with who := 7 }
       let spans := n.inputSpans 0
       let tryOf := fun (s : State) => s.engineTry { p with req := 7 } {} { chain := some 7, parent := some 7 } spans
       let y := (tryOf s).1
       let as := verifyAll (fun b m => y.engineBytes p b m) ((n.inputs 0).map Prod.fst)
       let bs := verifyAll (fun b m => y.engineBytes p b m) ((n.inputs 0).filterMap Prod.snd)
       s.evals[0]? = some e ∧ e.tries < 2 ∧ 2 ≤ ({ e with tries := 2 } : Eval).tries ∧ s.engs.any (·.isTile 7) = false ∧ s.working 0 < 16
       ∧ s.nodeOf e.node = some n ∧ s.streamBefore n = none ∧ s.predsToDo e n = []
       ∧ s.closesCycle { p with req := 7 } (s.ancestors 4096 7) spans = false ∧ (tryOf s).2 = .ready ∧ (y.partyNode n).unit = p.unit ∧ (y.partyNode n).session = p.session
       ∧ (y.partyNode n).unit = p.unit ∧ (y.partyNode n).session = p.session
       ∧ (y.partyNode n).launch = p.launch ∧ (y.partyNode n).secure = p.secure ∧ (y.partyNode n).req = p.req
       ∧ verifies as = true ∧ verifies bs = true ∧ isTile (evalTile n false [] none (tilesOf as) (tilesOf bs)) = true ∧ n.op ≠ .tmul ∧ n.op ≠ .tmac
       ∧ noded.nodeOf 0 = none
       ∧ 16 ≤ ({ s with evals := List.replicate 16 { e with st := .failed { inner := 0x41 } } } : State).working 0
       ∧ (let x := nodeIn .txpose
          let s := evaluating x .evaluating .waiting
          s.streamBefore x = none ∧ s.predsToDo e x = [] ∧ (s.engineTry { s.partyNode x with req := 7, who := 7 } {} { chain := some 7, parent := some 7 } (x.inputSpans 0)).2 = .ready)
       ∧ (tryOf { s with pages := [] }).2 = .wait
       ∧ (let z := tryOf (s.setTagNo 0 64 { tag := .poison })
          faulted z.2 = true)
       ∧ (let z := { s with mem := memWrite s.mem (devKey 0 8192) [1, 2, 3, 4, 5, 6, 7, 8, 9, 10, 11, 12, 13, 14, 15, 16, 17, 18, 19, 20] }
          verifies (verifyAll (fun b m => (tryOf z).1.engineBytes p b m) ((n.inputs 0).map Prod.fst)) = false ∧ (tryOf z).2 = .ready))
    ∧ (let n := nodeIn .tmul
       let y := (evaluating n .evaluating .waiting).updUnit 0 fun x => { x with arr := { x.arr with holder := some 4 } }
       let p := y.partyNode n
       let as := verifyAll (fun b m => y.engineBytes p b m) ((n.inputs 0).map Prod.fst)
       let bs := verifyAll (fun b m => y.engineBytes p b m) ((n.inputs 0).filterMap Prod.snd)
       isAlu (y.spotFor n 7) = true ∧ isTile (evalTile n false [] none (tilesOf as) (tilesOf bs)) = true)
    ∧ (let n := { nodeIn .tmap with stream := 2 }
       let m := { nodeOne with index := 4, stream := 2 }
       let s := { evaluating n .evaluating .waiting with nodes := [m, n] }
       s.streamBefore n = some m
       ∧ (let n := { nodeIn .tmap with preds := [[(m.handle, 0)]] }
          let s := { evaluating n .evaluating .waiting with nodes := [{ m with tiles := [.linked] }, n] }
          s.predsToDo { id := 7, node := n.handle, tile := 0, chain := 7 } n = [(m.handle, 0)]
          ∧ ∀ v ∈ s.evals, ¬ (v.node = m.handle ∧ v.tile = 0)))
    ∧ (let n := { nodeIn .tmap with a := nodeOne.d }
       let s := evaluating n .evaluating .waiting
       s.streamBefore n = none ∧ s.predsToDo { id := 7, node := n.handle, tile := 0, chain := 7 } n = []
       ∧ s.closesCycle { s.partyNode n with req := 7 } (s.ancestors 4096 7) (n.inputSpans 0) = true)
    ∧ (let f : EvalFail := { inner := 0x51, code := 2 }
       let n := nodeIn .tmap
       let s := evaluating n .evaluating (.failed f)
       s.nodeOf n.handle = some n ∧ n.tiles = [.evaluating] ∧ n.preds = [[]]
       ∧ (∀ x ∈ n.tileSectors 0, (s.tagNo n.session x).node = n.handle ∧ (s.tagNo n.session x).waiters = [])
       ∧ (s.ctxAt 0).st = .free ∧ (({ s with ctxs := (standing .ready id).ctxs } : State).ctxAt 0).st = .ready ∧ (s.ctxAt 0).faults.length < 4)
    ∧ (let n := nodeIn .tmap
       let rows := List.replicate 8 (List.replicate 8 (0 : Word))
       let s := evaluating n .evaluating (.computed rows [] (List.replicate 8 0) (List.replicate 8 0) 0 none)
       let p := s.partyNode n
       let t : RawTile := { ty := n.d.ty, m := n.d.tr, n := n.d.tc, rows, scales := [] }
       let writes := n.d.tileWrites (fun a m => s.engineBytes p a m) (n.coord 0).1 (n.coord 0).2 t
         { rc := List.replicate 8 0, cc := List.replicate 8 0, ck := 0 }
       let w := s.engineWrite p writes
       n.tileSectors 0 ≠ [] ∧ ∀ x ∈ n.tileSectors 0, (w.tagNo n.session x).node = n.handle ∧ (w.tagNo n.session x).waiters = [])
    ∧ ((0 : BitVec 14).extractLsb' 0 3 = 0 ∧ (7 : BitVec 14).extractLsb' 0 3 = 7 ∧ nodeOne.op = .tmul
       ∧ (List.replicate 8 (List.replicate 8 (0 : Word))).length = 8) := by
  refine ⟨?_, ?_, ?_, ?_, ?_, ?_, ?_, ?_⟩ <;> decide +kernel
/-! ## Hypotheses met: events of engines, the module, the step -/

/-- One request in the hands of cluster 0's engines, for context 0 of core 0, with what stands in d1 to d3. -/
def asked (work : EngWork) (cls : Nat) : EngReq :=
  { id := 9, key := 0, slot := 0, addr := 0, cls, num := 1, launch := 0, cluster := 0, unit := 0, work }
/-- The state that holds it. -/
def engined (r : EngReq) : State := { trailed with engs := [r] }
/-- Parties alike. -/
def alike (p q : Party) : Bool := p.unit == q.unit && p.session == q.session && p.launch == q.launch && p.secure == q.secure && p.req == q.req
/-- The request, once begun, reads and writes these spans without a wait or a fault. -/
def triesOk (s : State) (r : EngReq) (reads writes : List (Nat × Nat)) : Bool :=
  let q := { r with started := true }
  let s1 := s.updEng r.id fun y => { y with started := true }
  let p := s1.partyReq q
  let u := s1.engineTry p {} q.demander reads
  let w := u.1.engineTry p { write := true } q.demander writes
  u.2 == .ready && w.2 == .ready && alike (u.1.partyReq q) p && alike (w.1.partyReq q) p && w.1.engs.find? (·.id == r.id) == some q
    && !s1.deferred.contains r.id && !w.1.deferred.contains r.id
/-- Region d2 as the request finds it, its trailer kept or lost. -/
def sourceOk (s : State) : Bool :=
  let a := regionOf (tiled.rdD 2) 0
  (a.verified (fun b n => s.engineBytes (s.partyOf 0) b n) 0 0).isSome && (a.fixes (fun b n => s.engineBytes (s.partyOf 0) b n) 0 0).isEmpty

theorem test_hyps_EngineEvents_copies :
    (let r := { asked (.bytes 4096 8192 128) 0 with finished := true, ev := true }
     let s := engined r
     s.engs[0]? = some r ∧ s.engOver r = true ∧ s.turnOf r = true ∧ (engined (asked (.bytes 4096 8192 128) 0)).engOver (asked (.bytes 4096 8192 128) 0) = false
     ∧ (∀ j, j < 32 → ((s.clusterAt 0).streamCtl.getD j {}).st = .free) ∧ (s.launchBy 0).any (·.saved.isSome) = false
     ∧ ((s.updLaunch 0 fun l => { l with saved := some { ctxs := [], arrs := [], parked := [], spills := [], clusters := [], gens := [], walkGens := [], storerEnds := [] } }).launchBy 0).any (·.saved.isSome) = true
     ∧ (let z : ReqRec := { cls := 0, num := 1 }
        (s.updCtx 0 fun c => { c with reqs := [z] }).ctx.reqs = [z] ∧ r.cls < 6 ∧ (s.ctxAt 0).completed.getD 0 0 + 1 = r.num))
    ∧ (let r := asked (.bytes 4096 8192 128) 0
       let s := engined r
       tiled.copyQueue 0 = [] ∧ s.copyQueue 0 = [r] ∧ r.started = false ∧ r.ready ≤ s.cycle ∧ s.owes r = false ∧ r.pos = 0
       ∧ s.engs.find? (·.id == r.id) = some r ∧ (s.updEng r.id fun y => { y with started := true }).mustFollow r = false
       ∧ triesOk s r [(8192, 128)] [(4096, 128)] = true ∧ s.cycle < ({ r with ready := 1 } : EngReq).ready
       ∧ (s.updCtx 0 fun c => { c with reqs := [{ cls := 0, num := 1, promise := some 0 }] }).owes { r with ready := 1 } = true
       ∧ s.owes { r with ready := 1 } = false)
    ∧ (let d := regionOf (tiled.rdD 1) 0
       let a := regionOf (tiled.rdD 2) 0
       let r := asked (.tiles d a false) 0
       let s := engined r
       s.copyQueue 0 = [r] ∧ d.gr = 1 ∧ d.gc = 1 ∧ triesOk s r (a.tileSpans 0 0 ++ a.codeSpans) (d.tileSpans 0 0) = true ∧ sourceOk s = true
       ∧ sourceOk { s with mem := [] } = false ∧ triesOk { s with mem := [] } r (a.tileSpans 0 0 ++ a.codeSpans) (d.tileSpans 0 0) = true
       ∧ r.tries < 2 ∧ 2 ≤ ({ r with tries := 2 } : EngReq).tries ∧ triesOk (engined { r with tries := 2 }) { r with tries := 2 } (a.tileSpans 0 0 ++ a.codeSpans) (d.tileSpans 0 0) = true
       ∧ (let x := asked (.xform 0 (.transpose d a)) 2
          let s := engined x
          s.unitOps 0 0 = x :: [] ∧ tiled.unitOps 0 0 = [] ∧ x.started = false ∧ x.ready ≤ s.cycle ∧ s.engs.find? (·.id == x.id) = some x
          ∧ triesOk s x (a.tileSpans 0 0 ++ a.codeSpans) (d.tileSpans 0 0) = true ∧ d.ty ≠ 5)
       ∧ (let x := asked (.xform 1 (.convert d a 0 false 0)) 2
          triesOk (engined x) x (a.tileSpans 0 0 ++ a.codeSpans) (d.tileSpans 0 0) = true ∧ (engined x).unitOps 0 1 = [x])) := by
  decide +kernel

/-- A storage read of one block of 512 bytes to d1, by way of a codec or not. -/
def storing1 (codec : Option Nat) : EngReq := { asked (.storage 4096 7 1 1 512 3 10 codec 8 512) 5 with started := true }
/-- Half 0 of cluster 0's staging buffer as given, with a window for the bells, and the block staged. -/
def halved (r : EngReq) (x : Half) (block : List Byte) : State :=
  let s := engined r
  let s : State := { s with
    qpairs := SMap.put [] 3 { log2 := 4, sqBell := 0x1000, cqBell := 0x1004 }
    hostWins := s.hostWins.setIfInBounds 0 { base := 0, limit := 0xFFFF, en := true }
    mem := memWrite s.mem (s.stageKey r 0 0) block }
  s.setHalf 0 0 x
/-- A chunk of one byte, kept as it is; its header's bits of KIND and CRC as changed. -/
def chunkOne (kind crc : Nat) : List Byte := leBytes 17 (1 + kind * 2 ^ 24 + 1 * 2 ^ 32 + (crc64 [5] + crc) * 2 ^ 64 + 5 * 2 ^ 128)

theorem test_hyps_EngineEvents_storage :
    (let r := storing1 none
     let s := halved r {} []
     s.halfAt 0 0 = {} ∧ s.copyQueue 0 = [r] ∧ r.cls = 5 ∧ r.ready ≤ s.cycle ∧ s.halfOf r = none ∧ r.cluster = 0
     ∧ hostAllowed s.hostWins (s.qpairs.get {} 3).sqBell 4 true = true
     ∧ (let full := s.setHalf 0 0 { req := some 1 } |>.setHalf 0 1 { req := some 2 }
        ∀ k, k < 2 → full.halfAt 0 k ≠ {})
     ∧ (∀ y ∈ (engined (asked (.bytes 4096 8192 128) 0)).copyQueue 0, y.cls ≠ 5)
     ∧ (∀ y ∈ (engined { r with started := false }).copyQueue 0, y.started = false) ∧ r.started = true)
    ∧ (let r := storing1 none
       let s := halved r { req := some 9, deadline := 4 } []
       let half := s.halfAt 0 0
       half.lost = false ∧ half.staged = false ∧ (half.req.bind fun id => s.engs.find? (·.id == id)) = some r
       ∧ hostAllowed s.hostWins (s.qpairs.get {} 3).cqBell 4 true = true ∧ (0 : BitVec 15) = 0 ∧ (List.replicate 512 (0 : Byte)).length = 1 * 512
       ∧ ([] : List Byte).length ≠ 1 * 512 ∧ (1 : BitVec 15) ≠ 0 ∧ s.mtc.toNat < half.deadline
       ∧ half.deadline ≤ ({ s with mtc := 4 } : State).mtc.toNat
       ∧ (let s := halved r { qp := 3, lost := true } []
          (s.halfAt 0 0).lost = true ∧ hostAllowed s.hostWins (s.qpairs.get {} (s.halfAt 0 0).qp).cqBell 4 true = true)
       ∧ (let h := (halved r {} []).halfAt 0 0
          (h.req.bind fun id => s.engs.find? (·.id == id)) = none)
       ∧ ((halved r { req := some 9, staged := true } []).halfAt 0 0).staged = true)
    ∧ (let r := storing1 (some 3)
       let s := halved r { req := some 9, staged := true } (chunkOne 0 0)
       let hd := fun (s : State) => chunkHeadOf (memRead s.mem (s.stageKey r 0 0) 16)
       let p := s.partyReq r
       let u := s.engineTry p {} r.demander []
       let w := u.1.engineTry p { write := true } r.demander [(4096, 1)]
       s.copyQueue 0 = [r] ∧ s.halfOf r = some 0 ∧ s.mustFollow r = false ∧ (s.halfAt 0 0).staged = true ∧ r.pos = 0 ∧ r.tries < 2 ∧ r.data = [] ∧ s.deferred.contains r.id = false ∧ s.engs.find? (·.id == r.id) = some r
       ∧ 1 * 512 = 512 ∧ (hd s).bad = false ∧ (hd s).kind = 0 ∧ (hd s).ulen = 1 ∧ 1 ≤ 8
       ∧ chunkContent 0 0 1 (natsOf (memRead s.mem (s.stageKey r 0 0 + 16) 1)) = some [5] ∧ crc64 [5] = (hd s).crc
       ∧ u.2 = .ready ∧ w.2 = .ready ∧ alike (u.1.partyReq r) p = true ∧ alike (w.1.partyReq r) p = true ∧ w.1.engs.find? (·.id == r.id) = some r
       ∧ w.1.deferred.contains r.id = false
       ∧ (hd (halved r { req := some 9, staged := true } (chunkOne 4 0))).bad = true
       ∧ crc64 [5] ≠ (hd (halved r { req := some 9, staged := true } (chunkOne 0 1))).crc ∧ 0 < (hd s).ulen
       ∧ (hd (halved r { req := some 9, staged := true } (chunkOne 1 0))).bad = false ∧ chunkContent 0 1 1 [5] = none
       ∧ (∀ y ∈ (engined (asked (.bytes 4096 8192 128) 0)).copyQueue 0, y.work = .bytes 4096 8192 128)
       ∧ ((halved r { req := some 9 } []).halfAt 0 0).staged = false) := by
  decide +kernel
/-- Walk events: the tries of a read and a write for a walk. -/
def walkTries (s : State) (x : Walk) (reads writes : List (Nat × Nat)) : Bool :=
  let party := s.partyWalk x
  let u := s.engineTry party {} x.demander reads
  let w := u.1.engineTry party { write := true } x.demander writes
  u.2 == .ready && w.2 == .ready && u.1.walks.find? (·.id == x.id) == some x && w.1.walks == u.1.walks
/-- A loader that may begin its first tile, and a storer with one arrived. -/
def loading : Walk := walkOne false .active (List.replicate 16 .engine)
/-- A storer whose slot 0 arrived. -/
def unloading : Walk := { walkOne true .active (.engine :: List.replicate 15 .compute) with arrivals := [0] }
/-- The state of a walk with d1's tile in memory and, for a storer, in its slot. -/
def walkedOn (x : Walk) : State :=
  let s : State := { trailed with walks := [x] }
  s.engineWrite (s.partyWalk x) [((x.slotRegion 0 0).trailerAt 0 0,
    trailerPadded 1 8 8 { rc := List.replicate 8 0, cc := List.replicate 8 0, ck := 0 })]

theorem test_hyps_EngineEvents_walks :
    (let x := loading
     let s := walkedOn x
     let at' := fun (z : Walk) => z.cluster == 0 && z.engine == 3 && z.slot == 7 && s.walkRuns z
     let rd := fun m n => s.engineBytes (s.partyWalk x) m n
     s.walks.find? at' = some x ∧ tiled.walks = [] ∧ x.storer = false ∧ s.deferred.contains x.id = false ∧ x.nextTile = 0 ∧ 0 + 1 < x.record.count
     ∧ x.batons.getD 0 .done = .engine ∧ x.cores = [0] ∧ (x.record.tile 0) = (0, 0)
     ∧ walkTries s x (x.d.tileSpans 0 0 ++ x.d.codeSpans) ((x.slotRegion 0 0).tileSpans 0 0) = true
     ∧ (x.d.verified rd 0 0).isSome = true ∧ (x.d.fixes rd 0 0).isEmpty = true
     ∧ (let s := { s with mem := [] }
        x.d.verified (fun m n => s.engineBytes (s.partyWalk x) m n) 0 0).isNone = true
     ∧ (walkOne false .active (.compute :: List.replicate 15 .engine)).batons.getD 0 .done ≠ .engine
     ∧ 0 < x.batons.length
     ∧ ({ x with record := { x.record with count := 0 } } : Walk).record.count ≤ 0 ∧ x.tries < 2 ∧ 2 ≤ ({ x with tries := 2 } : Walk).tries)
    ∧ (let x := unloading
       let s := walkedOn x
       let at' := fun (z : Walk) => z.cluster == 0 && z.engine == 3 && z.slot == 7 && s.walkRuns z
       let src := x.slotRegion 0 0
       let rd := fun m n => s.engineBytes (s.partyWalk x) m n
       s.walks.find? at' = some x ∧ x.storer = true ∧ x.moved + 1 < x.total ∧ x.arrivals = 0 :: [] ∧ s.deferred.contains x.id = false
       ∧ walkTries s x (src.tileSpans 0 0 ++ src.codeSpans) (x.d.tileSpans 0 0) = true
       ∧ (src.verified rd 0 0).isSome = true ∧ (src.fixes rd 0 0).isEmpty = true ∧ ({ x with moved := 17 } : Walk).total ≤ 17
       ∧ x.cores.headD 0 = 0 ∧ x.nextOf 0 0 - x.record.n < x.record.count
       ∧ (let x := { x with arrivals := [15], given := [(15, 2)] }
          x.moved < x.total ∧ x.record.count ≤ x.nextOf 0 15 - x.record.n))
    ∧ (let t : Task := { entry := 2, args := Vector.replicate 4 0 }
       let s := base.updCluster 0 fun c => { c with streamCtl := c.streamCtl.setIfInBounds 31 { st := .pushing t 3 2 0 } }
       ((s.clusterAt 0).streamCtl.getD 31 {}).st = .pushing t 3 2 0 ∧ (∃ l, s.launchOn 0 = some l ∧ l.st ≠ .preempting) ∧ s.queueRoom 0 3 = true
       ∧ LaunchState.preempting = .preempting ∧ ((base.clusterAt 0).streamCtl.getD 0 {}).st = .free) := by
  refine ⟨by decide +kernel, by decide +kernel, by decide +kernel, ⟨_, Option.eq_some_of_isSome (by decide +kernel), by decide +kernel⟩, by decide +kernel⟩

theorem test_hyps_ModuleEvents :
    4 ≤ 4 ∧ 3 < 4 ∧ State.reset.boundaryFlits.get 0 3 < 8 ∧ 8 ≤ ({ State.reset with boundaryFlits := [(3, 8)] } : State).boundaryFlits.get 0 3
    ∧ State.reset.announced = none ∧ 0 < 1000000000 ∧ 1000000000 < State.reset.clock ∧ State.reset.clock ≤ 2700000000
    ∧ (let s : State := { State.reset with announced := some (1000000000, 4096), clock := 2000000000 }
       s.announced = some (1000000000, 4096) ∧ s.mtc.toNat < 4096 ∧ 4096 ≤ ({ s with mtc := 4096 } : State).mtc.toNat
       ∧ s.clock < 2700000000 ∧ 2700000000 ≤ 2700000000 ∧ 2700000000 < 2700000001)
    ∧ State.reset.memOk = true ∧ (State.reset.arrAt 0).retired.length ≤ 3 ∧ (busKey 0 ≤ busKey 5 ∧ busKey 5 < busKey (2 ^ 64)) := by
  decide +kernel
/-- Code bytes at the entry of core 0's context 0, ISSUING. -/
def coded (bs : List Byte) : State :=
  { fetched with mem := memWrite [] (imemKey 0 ((fetched.unitAt 0).codeBase + (fetched.ctxAt 0).pc.toNat)) bs }
/-- The bundle that the context's code bytes hold, if they hold one. -/
def bundleAt (s : State) : Option Bundle :=
  match s.codeBytes 0 (s.ctxAt 0).pc with
  | some bs => match decodeBundle false (s.ctxAt 0).dly bs 0 with
    | .bundle b => some b
    | _ => none
  | none => none
/-- Its code bytes hold an idle bundle, or end within a bundle. -/
def idleAt (s : State) : Bool :=
  match s.codeBytes 0 (s.ctxAt 0).pc with
  | some bs => match decodeBundle false (s.ctxAt 0).dly bs 0 with
    | .idle _ _ => true
    | _ => false
  | none => false
/-- Its code bytes end within a bundle. -/
def cutAt (s : State) : Bool :=
  match s.codeBytes 0 (s.ctxAt 0).pc with
  | some bs => match decodeBundle false (s.ctxAt 0).dly bs 0 with
    | .truncated => bs.length ≥ 8
    | _ => false
  | none => false

theorem test_hyps_StepRunsDecoded :
    (let s := fetched
     let c := s.ctxAt 0
     s.inputs = [] ∧ s.agenda = .issue 0 :: [] ∧ (s.unitAt 0).cur = some 0 ∧ c.st = .issuing ∧ s.unitRuns 0 = true ∧ c.wait = none
     ∧ c.stopAt = none ∧ c.acquireDue = false ∧ (s.unitAt 0).mayIssue ≤ s.cycle ∧ c.stopDue = false ∧ c.idle = none ∧ c.nextIssue ≤ s.cycle ∧ c.opened = false ∧ c.done = 0
     ∧ c.faults = [] ∧ s.isDrowsy 0 = false ∧ (s.codeBytes 0 c.pc).isSome = true ∧ c.ignoreB = true ∧ (State.reset.inputs = [] ∧ State.reset.agenda = []))
    ∧ (∃ b i, bundleAt fetched = some b ∧ b.slots = [(0, i)] ∧ (encode i).isSome = true ∧ profileBad (isCcc (unitOf 0)) i = false
        ∧ (let now : State := ({ fetched with agenda := [] } : State).retest
           let at' : State := { now.setCtx 0 { now.ctxAt 0 with rd := (now.ctxAt 0).bank } with cur := 0 }
           (at'.precheckLength b.slots).1 ≤ 1 ∧ at'.issueHold none b.slots = none
           ∧ (at'.upd fun c => { c with bank := { c.bank with sFull := 0 } }).issueHold none b.slots ≠ none))
    ∧ (let s := (State.reset.withFetchWord 48 0x023088002000).updCtx 0 fun c => { c with bank := { c.bank with
           v := Vector.replicate 32 (List.replicate 128 (0, 1)) } }
       ∃ b, bundleAt s = some b ∧ 2 ≤ (b.slots.headD (0, .resultLand 0 0)).1
         ∧ (let s := ({ s with agenda := [] } : State).retest
            let at' : State := { s.setCtx 0 { s.ctxAt 0 with rd := (s.ctxAt 0).bank } with cur := 0 }
            1 < (at'.precheckLength b.slots).1 ∧ at'.issueHold none b.slots = none))
    ∧ idleAt (coded (leBytes 8 (3 * 2 ^ 18))) = true ∧ cutAt (coded (leBytes 12 3)) = true := by
  refine ⟨by decide +kernel, ⟨_, _, rfl, rfl, by decide +kernel⟩, ⟨_, rfl, by decide +kernel⟩, by decide +kernel⟩

theorem test_hyps_WordsRoundTrip : Instr.wf (.mul { sf with dst := 5 }) = true ∧ (encode (.mul { sf with dst := 5 })).isSome = true := by decide +kernel
theorem test_hyps_RestIsKept : State.reset.atRest = true ∧ ∃ t, step State.reset = .next t := ⟨by decide +kernel, _, rfl⟩
theorem test_hyps_MemoryForm : Memory.wf [] = true ∧ Memory.wf (memWrite [] 5 [1, 0, 2]) = true := by decide

/-! ## Terms that are ill formed -/

/-- V fields that every row takes. -/
def vg : VFields := { vd := 1, va := 2, vb := 3, sc := 0, q := 0, ty := 0, m := 0, fA := 0, fB := 0, imm := 0 }
/-- F fields of a vector form. -/
def fg : FFields := { dst := 33, src := 34, ty := 0, rnd := 0, q := 0, f := 0, sr := 0 }
/-- M fields. -/
def mg : MFields := { acc := 0, row := 0, d := 0, stream := 0, flags := 0 }
/-- L fields. -/
def lg : LFields := { reg := 2, base := 0, off := 0, ty := 0, sbv := 0, sbs := 0, wait := 0 }

/-- R36, R37, R142, R152, R161, R164, R165, R475: each check of the S slot refuses. -/
theorem test_ill_formed_s :
    ([.add sf, .clz { sf with b := 0 }, .pdot { sf with w := 1 }, .pwiden { sf with b := 0, w := 1, mA := 1 }, .aadd sf] : List Instr).all Instr.wf = true
    ∧ ([.add { sf with fA := 1, a := 0 }, .add { sf with fB := 1, b := 32 }, .add { sf with w := 1 }, .add { sf with imm := 1 }, .div { sf with dst := 0 },
        .clz sf, .sel { sf with mA := 1 }, .padd { sf with mA := 1 }, .pdot sf, .ppack { sf with w := 1, mB := 1 }, .pwiden { sf with w := 1 },
        .pwiden { sf with b := 0, w := 1, mA := 2 }, .pshuf { sf with w := 1, mB := 1 }, .fcvt { sf with b := 0, imm := 5 },
        .fcvt { sf with b := 0, imm := 0x600 }, .fcvt { sf with b := 0, imm := 0x1000 }, .fcvt { sf with b := 0, a := 63 }, .limmh ⟨1, 0x10000⟩,
        .aadd { sf with dst := 16 }, .amov sf, .ajoin { sf with dst := 16 }, .asplit { sf with b := 0, mA := 2 }, .aimm ⟨16, 0⟩, .br ⟨1, 0⟩, .ret ⟨0, 1⟩,
        .loop { sf with b := 0, dst := 8 }, .trap { sf with a := 0, b := 0 }, .tret { sf with dst := 0, a := 0, b := 0, imm := 1 },
        .rdsys { sf with a := 0, b := 0, imm := 5 }, .wrsys { sf with dst := 0, b := 0, imm := 0x11 }, .taddrWrite { sf with dst := 0, b := 0, imm := 0x12 },
        .rtgtWrite { sf with dst := 0, b := 0, imm := 0x151 }, .rdtime { sf with a := 0, b := 0, mA := 2 }, .fetest { sf with b := 0, mA := 3 },
        .fetest { sf with a := 16, b := 0, mA := 1 }, .setempty { sf with dst := 0, a := 0, b := 0 },
        .laprd { sf with a := 0, b := 0, imm := 0x00A }] : List Instr).all (!·.wf) = true := by decide +kernel

/-- R178, R196, R248: each check of the V, F and M slots refuses. -/
theorem test_ill_formed_v_f_m :
    ([.vadd vg, .vsplat { vg with va := 0, vb := 0 }, .fexp fg, .fqnt { fg with dst := 1, ty := 2 }, .mpush mg, .macc { mg with flags := 1 }] : List Instr).all Instr.wf = true
    ∧ ([.vadd { vg with ty := 5 }, .vadd { vg with ty := 14 }, .vshl vg, .vacc { vg with vb := 0, ty := 1 }, .vrsum { vg with vb := 0, vd := 0 },
        .qset { vg with vd := 0, va := 0, vb := 0, imm := 1 }, .vaccw { vg with vd := 8, vb := 0 }, .vacc { vg with va := 8, vb := 0 }, .vsplat { vg with vb := 0 },
        .vcoal { vg with vb := 0, q := 1 }, .vins { vg with va := 0, vb := 0 }, .vabs { vg with vb := 0, m := 2 }, .vabs vg, .vadd { vg with m := 2 },
        .vadd { vg with sc := 1 }, .qset { vg with va := 0, vb := 0, sc := 63, imm := 1 }, .vmin { vg with m := 4 }, .vrsum { vg with vb := 0, m := 1 },
        .vsplat { vg with va := 0, vb := 0, fA := 1 }, .vsplat { vg with va := 0, vb := 0, fB := 1 }, .vadd { vg with imm := 1 },
        .qset { vg with va := 0, vb := 0, imm := 7 }, .qmin { vg with va := 0, vb := 0, ty := 1 }, .qget { vg with va := 0, vb := 0, ty := 1 },
        .fexp { fg with f := 1, src := 0 }, .fexp { fg with rnd := 1 }, .fexp { fg with ty := 2 }, .fexp { fg with dst := 1 }, .fexp { fg with dst := 1, src := 2, q := 1 },
        .frcp { fg with rnd := 6, ty := 1 }, .fconv { fg with ty := 5 }, .fqnt { fg with ty := 2 }, .fqnt { fg with dst := 1 }, .fcbe { fg with ty := 2 }, .frnd { fg with ty := 5 },
        .mpush { mg with acc := 1 }, .macc { mg with flags := 2 }, .mshift { mg with row := 1 }, .mdrain { mg with stream := 1 }, .mclr { mg with d := 1 },
        .mchain { mg with flags := 1 }] : List Instr).all (!·.wf) = true := by decide +kernel

/-- R95, R108, R110, R214, R272, R276, R277, R287, R290, R311, R321, R324, R327: each check of the L and E slots refuses. -/
theorem test_ill_formed_l_e :
    ([.ldb lg, .lda lg, .vld lg, .amocas { lg with ty := 6 }, .dset ⟨0, 0, 1⟩, .fence ⟨5, 2, 0⟩, .tmap ⟨0, 1, 2, 0, 0, 1, 0⟩, .pmovEncode ⟨0x600, 1, 2, 3, 0⟩] : List Instr).all Instr.wf = true
    ∧ ([.ldb { lg with reg := 32 }, .ldb { lg with ty := 1 }, .lda { lg with reg := 16 }, .vld { lg with ty := 14 }, .amoadd lg, .amocas { lg with reg := 3, ty := 6 },
        .amofadd { lg with ty := 2 }, .flush lg, .ldpeek { lg with reg := 31 }, .dset ⟨0, 0, 63⟩, .dsetA ⟨0, 1, 0⟩, .dget ⟨0, 0, 0⟩, .fence ⟨6, 0, 0⟩, .fence ⟨0, 3, 0⟩,
        .fence ⟨0, 2, 1⟩, .waittl ⟨0, 6, 0, 0⟩, .waittl ⟨0, 0, 0, 63⟩, .waittl ⟨0, 0, 1, 1⟩, .tlread ⟨0, 0, 0⟩, .tmul ⟨0, 1, 2, 3, 0, 63, 0⟩, .tmap ⟨0, 1, 2, 3, 0, 0, 0⟩,
        .tmap ⟨0, 1, 2, 0, 0, 1, 2⟩, .tmul ⟨0, 1, 2, 3, 0, 0, 512⟩, .tzip ⟨0, 1, 2, 3, 0, 0, 5⟩, .tred ⟨0, 1, 2, 0, 0, 0, 3⟩, .txpose ⟨0, 1, 2, 0, 0, 0, 1⟩,
        .tcvt ⟨0, 1, 2, 0, 0, 0, 6⟩, .forceHandle ⟨63⟩, .tstatNode ⟨0, 1⟩, .tstatTable ⟨0⟩, .tstatDefer ⟨1, 10⟩, .cpyByte ⟨0, 0, 0, 63, 0⟩, .cpyg ⟨0, 0, 0, 0, 63, 0⟩,
        .cpstor ⟨0, 0, 0, 0, 1, 3, 0⟩, .sleepto ⟨0, 0, 0, 1⟩, .pmovTranspose ⟨8, 1, 2, 0, 0⟩, .pmovConvert ⟨0x200, 1, 2, 1, 0⟩, .pmovEncode ⟨0x620, 1, 2, 3, 0⟩,
        .pmovDecode ⟨0x620, 1, 2, 3, 0⟩, .pmovConfig ⟨0x700, 1, 0, 0, 0⟩, .prd ⟨1, 0⟩] : List Instr).all (!·.wf) = true := by decide +kernel

/-- R349, R355, R363, R380, R410, R412, R413, R415, R416, R419 and the service calls: each check refuses. -/
theorem test_ill_formed_control :
    ([.batonWait ⟨1, 1, 1⟩, .harrive ⟨5, 0, 0, 1, 0⟩, .evwait ⟨2, 0⟩, .klaunchX ⟨0, 1, 0⟩] : List Instr).all Instr.wf = true
    ∧ ([.batonWait ⟨0, 1, 1⟩, .batonGive ⟨1, 1, 1⟩, .batonStat ⟨1, 1, 1⟩, .nsend ⟨63, 0, 0, 0⟩, .nmcast ⟨63, 0, 0, 0, 0⟩, .rlstat ⟨0, 1⟩, .rlstatWhy ⟨1, 63⟩,
        .harrive ⟨6, 0, 0, 1, 0⟩, .harw ⟨0, 0, 0, 63, 0⟩, .hwait ⟨0, 1, 0, 1, 0⟩, .tqpush ⟨0, 0, 63, 0⟩, .tqcancel ⟨0, 1⟩, .jobwaitWait ⟨1, 6⟩, .jobwaitRd ⟨0, 1⟩,
        .evpost ⟨63, 0⟩, .evwait ⟨1, 0⟩, .evwait ⟨0, 0⟩, .klaunchX ⟨0, 1, 1⟩, .klaunchK ⟨0, 1, 63⟩, .klaunchR ⟨1, 0, 0⟩, .syscallEmit ⟨0, 63, 0, 0, 0⟩,
        .syscallFree ⟨0, 0⟩] : List Instr).all (!·.wf) = true := by decide +kernel
/-! ## Words decoded: the manual's examples -/

/-- What a word decodes to. -/
def reads (w : SlotWord) : Option Instr := (decodeSlot w).toOption

/-- 02: the example bundle: MUL s5, s1, s2 and ADD s6, s1, #1, with its ports. -/
theorem test_decode_bundle :
    (match decodeBundle false false (leBytes 8 0x39CF08201CE70003 ++ leBytes 6 0x065042000000 ++ leBytes 6 0x026076000000) with
      | .bundle b => decide (b.slots = [(0, .mul { sf with dst := 5 }), (1, .add { sf with dst := 6, b := 54 })] ∧ b.len = 20)
      | _ => false) = true := by decide +kernel
/-- 06, 18: LIMM s3, 0xDEADBEEF; BR to the bundle before; laprd.nop s6, #0, #5. -/
theorem test_decode_s : reads (.s 0x6030DEADBEEF) = some (.limm ⟨3, 0xDEADBEEF⟩) ∧ reads (.s 0x8000FFFFFFF8) = some (.br ⟨0, 0xFFFFFFF8⟩)
    ∧ reads (.s 0x9A6000001005) = some (.laprd { sf with dst := 6, a := 0, b := 0, imm := 0x1005 }) := by decide +kernel
/-- 07: VADD.bf16 v3, v1, v2; 08: fconv.bf16 v5, v2, sr. -/
theorem test_decode_v_f :
    reads (.v 0x023088002000) = some (.vadd { vg with vd := 3, va := 1, vb := 2, ty := 1 })
    ∧ reads (.f 0x42588680) = some (.fconv { dst := 37, src := 34, ty := 1, rnd := 5, q := 0, f := 0, sr := 0 }) := by decide +kernel
/-- 09, 10: vstb.bf16 [a1 + 32], v1; macc acc0, d0, #1; mdrain.last d2, acc0, #3. -/
theorem test_decode_l_m :
    reads (.l 0x2C0880201000) = some (.vstb { reg := 1, base := 1, off := 0x20, ty := 1, sbv := 0, sbs := 0, wait := 0 })
    ∧ reads (.m 0x20040000) = some (.macc { mg with row := 1 }) ∧ reads (.m 0x400C8001) = some (.mdrain { mg with row := 3, d := 2, flags := 1 }) := by
  decide +kernel
/-- 04, 11, 12: fence.rel.module; waittl.module tl.cpy, #1; tmap.scale d3, d2, s4 with handle s7; force d4; cpy s4, [a2], [a1], s3. -/
theorem test_decode_e_memory :
    reads (.e 0x111000000000) = some (.fence ⟨4, 1, 0⟩) ∧ reads (.e 0x130360000000) = some (.waittl ⟨4, 0, 0, 54⟩)
    ∧ reads (.e 0x247320010000) = some (.tmap ⟨7, 3, 2, 0, 0, 4, 0⟩) ∧ reads (.e 0x310100000000) = some (.forceRegion ⟨4⟩)
    ∧ reads (.e 0x404108600000) = some (.cpyByte ⟨4, 2, 1, 3, 0⟩) := by decide +kernel
/-- 13 to 17: pmov.ev cd0.dec, d2, d1; nsend to s2's peer of d3 from d2; relay on unit 0 by a3's record; harrive.cluster [a1 + 16], s0; syscall.emit s2, s0. -/
theorem test_decode_e_control :
    reads (.e 0x50C404204000) = some (.pmovDecode ⟨0x620, 2, 1, 0, 1⟩) ∧ reads (.e 0x64008C800000) = some (.nsend ⟨2, 3, 2, 0⟩)
    ∧ reads (.e 0x808020008000) = some (.harrive ⟨2, 0, 1, 0, 16⟩) ∧ (reads (.e 0x7000C0000000)).isSome = true
    ∧ (reads (.e 0x9200C0000000)).isSome = true := by decide +kernel

/-! ## Single steps -/

/-- What context 0 of core 0 has in flight after a step. -/
def flown (o : Host.Outcome State Fault Refusal) : List (List RegVal) :=
  match o with
  | .next t => (t.ctxAt 0).pend.map Pending.vals
  | _ => []
/-- Core 0's context 0 about to issue one slot, some scalars set. -/
def about (w : Nat) (l : List (Nat × Word)) : State :=
  (State.reset.withFetchWord 48 w).updCtx 0 fun c => { c with bank := { c.bank with s := l.foldl (fun v p => v.setIfInBounds p.1 p.2) c.bank.s } }

/-- R145: ADD s6, s1, #1 wraps. -/
theorem test_add_wraps : flown (step (about 0x026076000000 [(1, 0xFFFFFFFF)])) = [[.s 6 0]] := by decide +kernel
/-- R145: MUL s5, s1, s2 keeps the low word. -/
theorem test_mul_low : flown (step (about 0x065042000000 [(1, 0x10001), (2, 0x10001)])) = [[.s 5 0x20001]] := by decide +kernel
/-- R150: PWIDEN of the high byte lanes, zero extended. -/
theorem test_pwiden_high :
    flown (exec (.pwiden { sf with b := 0, w := 2, mA := 1, mB := 1 }) (withS [(1, 0x80FF1234)] base)) = [[.s 3 0x008000FF]] := by decide +kernel
/-- R150: PSHUF turns a word's bytes about. -/
theorem test_pshuf_reverse :
    flown (exec (.pshuf { sf with w := 2 }) (withS [(1, 0x80FF1234), (2, 0x1B)] base)) = [[.s 3 0x3412FF80]] := by decide +kernel
/-- R152: FCVT of 448.0 to fp8 E4M3 is 0x7E. -/
theorem test_fcvt_e4m3 : flown (exec (.fcvt { sf with b := 0, imm := 0x020 }) (withS [(1, 0x43E00000)] base)) = [[.s 3 0x7E]] := by decide +kernel
/-- R146: DIV of the most negative number by -1 gives it back; REM gives 0. -/
theorem test_div_corner :
    flown (exec (.div sf) (withS [(1, 0x80000000), (2, 0xFFFFFFFF)] base)) = [[.s 3 0x80000000]]
    ∧ flown (exec (.rem sf) (withS [(1, 0x80000000), (2, 0xFFFFFFFF)] base)) = [[.s 3 0]] := by decide +kernel
/-- R146: a division by zero gives all ones, and leaves the dividend. -/
theorem test_div_zero :
    flown (exec (.divu sf) (withS [(1, 7), (2, 0)] base)) = [[.s 3 0xFFFFFFFF]] ∧ flown (exec (.remu sf) (withS [(1, 7), (2, 0)] base)) = [[.s 3 7]] := by
  decide +kernel
end

end Sys2Proof.Tests
end

section
/-! The module: its reset, the clock's announced lowering, and the passing of a cycle while a debug access is
still to complete. -/

namespace Sys2Proof.Machine

/-! ## The state after reset -/

/-- A register of a file filled with one value reads that value. -/
theorem vector_getD_replicate {α : Type} (n i : Nat) (x : α) : (Vector.replicate n x).getD i x = x := by
  by_cases inside : i < n <;> simp [Vector.getD, inside]

/-- R77: every named scalar of a fresh bank is zero. -/
theorem Bank.init_scalar (vl n : Nat) : (Bank.init vl).s.getD n 0 = 0 := vector_getD_replicate ..

/-- R77: every address register of a fresh bank is zero. -/
theorem Bank.init_address (vl n : Nat) : (Bank.init vl).a.getD n 0 = 0 := vector_getD_replicate ..

/-- R77: every scalar of a fresh bank is full. -/
theorem Bank.init_scalar_full (vl : Nat) {n : Nat} (hn : n < 32) : (Bank.init vl).full .s n = true := by
  have bit : (BitVec.allOnes 32).getLsbD n = true := BitVec.getLsbD_allOnes.trans (decide_eq_true hn)
  exact Bool.or_eq_true_iff.mpr (.inr bit)

/-- R77: every run vector of a fresh bank is full. -/
theorem Bank.init_vector_full (vl : Nat) {n : Nat} (hn : n < 32) : (Bank.init vl).full .v n = true :=
  (BitVec.getLsbD_allOnes (v := 32)).trans (decide_eq_true hn)

/-- R77: every address register of a fresh bank is full. -/
theorem Bank.init_address_full (vl : Nat) {n : Nat} (hn : n < 16) : (Bank.init vl).full .a n = true :=
  (BitVec.getLsbD_allOnes (v := 16)).trans (decide_eq_true hn)

@[simp] theorem State.reset_ctxAt (key : Nat) : State.reset.ctxAt key = Ctx.reset := rfl
@[simp] theorem State.reset_ring (n : Nat) : State.reset.ring n = {} := rfl

/-- R142: s0 reads zero. -/
@[simp] theorem State.rdS_zero (s : State) : s.rdS 0 = 0 := rfl
/-- R142: a value that lands on s0 is discarded. -/
@[simp] theorem Bank.land_s_zero (b : Bank) (w : Word) : b.land (.s 0 w) = b := rfl

/-- Settles O54: the module's own fields are those that `State.reset` lists, and every context is `Ctx.reset`, whose bank
is a fresh one. -/
theorem resetValues : Obligations.ResetValues := by
  have rest : State.reset.atRest = true := by decide
  have contexts (key : Nat) : (State.reset.ctxAt key).st = .free ∧ (State.reset.ctxAt key).pend = []
      ∧ (∀ n, n < 32 → (State.reset.ctxAt key).bank.s.getD n 0 = 0 ∧ (State.reset.ctxAt key).bank.full .s n = true
          ∧ (State.reset.ctxAt key).bank.full .v n = true)
      ∧ ∀ n, n < 16 → (State.reset.ctxAt key).bank.a.getD n 0 = 0 ∧ (State.reset.ctxAt key).bank.full .a n = true := by
    rw [State.reset_ctxAt]
    exact ⟨rfl, rfl,
      fun n hn => ⟨Bank.init_scalar 128 n, Bank.init_scalar_full 128 hn, Bank.init_vector_full 128 hn⟩,
      fun n hn => ⟨Bank.init_address 128 n, Bank.init_address_full 128 hn⟩⟩
  exact ⟨rest, rfl, rfl, rfl, rfl, rfl, ⟨rfl, rfl, rfl⟩, fun n => by simp, contexts, fun _ => rfl,
    fun s => ⟨s.rdS_zero, Bank.land_s_zero⟩⟩

/-! ## The announced lowering of the clock (R319, R320) -/

/-- R320: what a lowering of the clock does to a request in an engine: a lowering that was not announced when the
request issued makes it late, and none is announced any more. -/
def EngReq.afterLowering (r : EngReq) : EngReq := { r with slow := r.slow || !r.warned, warned := false }

/-- R319, R320: a lowering that is due takes effect on the clock, and on every request in an engine. -/
theorem exec_clockLoweringApply_of_due {s : State} {hz t : Nat} (announced : s.announced = some (hz, t))
    (due : t ≤ s.mtc.toNat) :
    exec .clockLoweringApply s
      = .next { s with clock := min s.clock hz, announced := none, engs := s.engs.map EngReq.afterLowering } := by
  change execClockLoweringApply s = _
  simp only [execClockLoweringApply, announced, if_pos due]
  rfl

/-- Refutes O53: where an announced lowering of the clock takes effect, the statement leaves every field but the clock and
the announcement as it is, but the lowering also marks the requests in the engines (R320). The counterexample is a copy
that issued before the announcement, at the tick at which the lowering takes effect: it becomes late. -/
theorem not_moduleEvents : ¬ Obligations.ModuleEvents := by
  intro h
  let copy : EngReq := { id := 1, key := 0, slot := 0, addr := 0, cls := 0, num := 1, launch := 1, cluster := 0, unit := 0
                         work := .bytes 0 4096 128 }
  let s : State := { State.reset with announced := some (1000000000, 4096), mtc := 4096, engs := [copy] }
  obtain ⟨-, -, -, -, -, -, applied, -⟩ := h s 0 1000000000 0 0 0
  have claimed := (applied 4096 rfl).2 (by decide)
  have actual := exec_clockLoweringApply_of_due (s := s) rfl (by decide)
  have same := congrArg State.engs (Host.Outcome.next.inj (actual.symm.trans claimed))
  have kept : [copy.afterLowering] = [copy] := same
  exact absurd kept (by decide)

/-! ## A cycle that passes while a debug access is late (R55, R465) -/

/-- R465: an access of the debug port that is still to complete has its turn in every cycle. -/
theorem State.debug_mem_turns {s : State} (late : s.dbg.late.isSome = true) : Turn.debug ∈ s.turns := by
  have firmware : Turn.debug ∈ s.firmwareTurns := by simp [State.firmwareTurns, late]
  simp [State.turns, firmware]

/-- A module at rest has no turn of the debug port before it. -/
theorem State.debug_notMem_agenda_of_atRest {s : State} (rest : s.atRest = true) : Turn.debug ∉ s.agenda := by
  intro mem
  have looks : s.agenda.all Turn.looksAtRing = true := by
    simp only [State.atRest, Bool.and_eq_true] at rest
    simp only [rest]
  exact absurd (List.all_eq_true.mp looks _ mem) (by decide)

/-- While an access of the debug port is still to complete, the cycle that begins is none of a module at rest. -/
theorem State.tick_not_atRest_of_late {s : State} (late : s.dbg.late.isSome = true) : ¬ s.tick.atRest = true :=
  fun rest => State.debug_notMem_agenda_of_atRest rest (State.debug_mem_turns late)

/-- Refutes O58: `State.atRest` asks that the debug port is not enabled, but not that it has no access still to complete,
and the host may disable the port within the two cycles that an access to a drowsy bank takes (R55, R465). The
counterexample is the module after reset with such an access outstanding: it counts as at rest, and the cycle that then
begins has the debug port's turn in it. -/
theorem not_restIsKept : ¬ Obligations.RestIsKept := by
  intro h
  let s : State := { State.reset with dbg := { dstat := 15, late := some (2, 0) } }
  have rest : s.atRest = true := by decide
  have passes : step s = .next s.tick := rfl
  obtain ⟨stays, -⟩ := h s s.tick rest passes
  exact State.tick_not_atRest_of_late (s := s) rfl stays

end Sys2Proof.Machine
end
